-- ==== Sys2Proof/Word.lean ====
section
/-! DEFINITION. The byte of the station bus and of the archive flash. -/

namespace Sys2Proof

/-- One byte of a telegram, a record, an archive page or the configuration image (R130). -/
abbrev Byte := BitVec 8

end Sys2Proof
end

