-- ==== Sys2Proof/Config.lean ====
section
/-! DEFINITION. The fixed numbers of the part, and the free values: what the manual leaves open. -/

namespace Sys2Proof.Config

/-- Ticks of plant time and of elapsed time in one second (R101, R141). -/
abbrev ticksPerSecond : Nat := 1024

/-- Ticks in one minute (chapter 6.1). -/
abbrev ticksPerMinute : Nat := 61440

/-- Ticks in 24 hours, the largest step that is not refused (R112). -/
abbrev ticksPerDay : Nat := 88473600

/-- The upper end of plant time, 2100-01-01 00:00:00.0, in ticks since 2000-01-01 (R101). -/
abbrev plantTimeEnd : Nat := 36525 * 88473600

/-- The greatest value of a station counter and of its year total (R83, R86). -/
abbrev counterMax : Nat := 4294967295

/-- The greatest value of the run length and of the longest run (R45). -/
abbrev runMax : Nat := 16777215

/-- The greatest value of an excess count and of a channel-loss counter (R11, R67). -/
abbrev countMax : Nat := 65535

/-- Entries of the outbound record queue (R156). -/
abbrev outboundMax : Nat := 16

/-- Slots of the staging pool (R136). -/
abbrev stagingMax : Nat := 48

/-- Bytes of the configuration image (chapter 7.7.6). -/
abbrev imageBytes : Nat := 1024

/-- Bytes of a flash page and of a flash sector (chapter 9.1). -/
abbrev pageBytes : Nat := 256
abbrev sectorBytes : Nat := 4096

/-- Sectors of the own ring and of each witness partition, and where each area starts (R151). -/
abbrev ownSectors : Nat := 7167
abbrev partSectors : Nat := 3072
abbrev ownBase : Nat := 1
abbrev partBase : Nat := 7168

/-- FREE VALUE (log entry 8). What a page byte holds after a program whose read-back differs: the manual says only
that the two marker bytes are 0 (R152). First argument: the number of the free draw; second: the byte's place. -/
opaque failedProgramByte : Nat → Nat → BitVec 8

/-- FREE VALUE (log entry 9). What a sector byte holds after an erase that failed its blank check or that was
abandoned (R152, R163, R165). First argument: the number of the free draw; second: the byte's place. -/
opaque brokenEraseByte : Nat → Nat → BitVec 8

/-- FREE VALUE (log entry 9). Which bit of a sector, 0 to 32,767 after reduction, a failed erase has left 0: the
blank check found at least one (R152). -/
opaque stuckBit : Nat → Nat

end Sys2Proof.Config
end

