-- ==== Sys2Proof/Syntax.lean ====
section
/-! DEFINITION. The commands of the part: one constructor per row of spec/opcode_table.json. -/

namespace Sys2Proof

/-- One entry of a received MARK telegram (7.7.3): the origin, its held mark and its oldest held sequence. -/
structure MarkEntry where
  origin : BitVec 8
  held : BitVec 32
  oldest : BitVec 32
deriving DecidableEq, Repr

/-- The payload of a received PRESENCE telegram (7.7.3), field by field in its order. -/
structure PresencePayload where
  kind : BitVec 8
  line : BitVec 8
  station : BitVec 8
  latest : BitVec 32
  floor : BitVec 32
  secured : BitVec 32
  timeState : BitVec 8
  flags : BitVec 16
deriving DecidableEq, Repr

/-- The header of a received RECORD telegram: the record header of 7.7.4 and the backfill flag (7.7.3). -/
structure RecordHead where
  kind : BitVec 8
  origin : BitVec 8
  seq : BitVec 32
  start : BitVec 32
  backfill : Bool
deriving DecidableEq, Repr

/-- What every QUERY carries: the sender station of its key (the query's terminal), the target recorder and the tag
(R166, 7.7.3). -/
structure QueryHead where
  terminal : BitVec 5
  target : BitVec 8
  tag : BitVec 8
deriving DecidableEq, Repr

/-- The commands: what the bus, the flash, the supply, the pins and the passing of time bring to the part. A telegram's
operands are the sender of its key and the fields of its payload at their widths; an event of the flash carries its
outcome. -/
inductive Instr where
  /-- A READING telegram: channel and line tag, status code, value (R8 to R14). -/
  | receiveReading (sender : BitVec 5) (channel tag : BitVec 4) (status : BitVec 8) (value : BitVec 24)
  /-- A TIME telegram: send time and reference flag (R109, R115). -/
  | receiveTime (sender : BitVec 5) (seconds : BitVec 32) (ticks : BitVec 16) (reference : Bool)
  /-- The 20 s establishment window ends (R115). -/
  | establishmentWindowEnd
  /-- A RECORD telegram: header and body (R137). -/
  | receiveRecord (sender : BitVec 5) (head : RecordHead) (body : List Byte)
  /-- A MARK telegram (R147). -/
  | receiveMark (sender : BitVec 5) (entries : List MarkEntry)
  /-- A GAP telegram: target origin, first sequence, count (R142). -/
  | receiveGap (sender : BitVec 5) (target : BitVec 8) (first : BitVec 32) (count : BitVec 8)
  /-- A PRESENCE telegram (R139, R170). -/
  | receivePresence (sender : BitVec 5) (payload : PresencePayload)
  /-- A telegram seen on the line that may be a receive error: its bytes from the key to the check, and whether its
  end mark came (R127). -/
  | receiveError (frame : List Byte) (endMark : Bool)
  /-- A good telegram of this class whose key carries the part's own station number (R128). -/
  | stationClash (cls : BitVec 3)
  /-- A READ query: origin, first sequence, count (R167). -/
  | read (head : QueryHead) (origin : BitVec 8) (first : BitVec 32) (count : BitVec 16)
  /-- A READ_YEAR query: origin and year, as its number less 2000 (R169). -/
  | readYear (head : QueryHead) (origin : BitVec 8) (year : BitVec 8)
  /-- A CONDITION query (R171). -/
  | condition (head : QueryHead)
  /-- A CLEAR_ATTENTION query: the cause set (R172). -/
  | clearAttention (head : QueryHead) (causes : BitVec 16)
  /-- A CONFIG_BLOCK query: offset and data (R182). -/
  | configBlock (head : QueryHead) (offset : BitVec 16) (data : List Byte)
  /-- A CONFIG_COMMIT query: image length and check (R183). -/
  | configCommit (head : QueryHead) (length check : BitVec 16)
  /-- The erase or page program of the commit ends, good or not (R183). -/
  | commitFlashComplete (good : Bool)
  /-- The bus-idle event (R119, R123). -/
  | busIdle
  /-- The part's key loses arbitration (R120). -/
  | arbitrationLost
  /-- The telegram on the line has been sent whole (R124). -/
  | transmitComplete
  /-- A bit after the key is read back wrong (R125). -/
  | transmitError
  /-- The second of SILENT is over (R126). -/
  | silentEnd
  /-- Plant time passes a whole second of the part's TIME series (R107). -/
  | timeSend
  /-- The once-a-minute PRESENCE falls due (R145, R146). -/
  | presenceSend
  /-- Plant time passes second 30: the agreement round (R111). -/
  | agreementRound
  /-- The open minute's boundary (R103, R104). -/
  | minuteBoundary
  /-- The page program in flight in a ring area ends, good or not (R158). -/
  | programComplete (good : Bool)
  /-- The sector erase in flight in a ring area ends, good or not (R163). -/
  | eraseComplete (good : Bool)
  /-- The release of the oldest archived own record not yet placed (R160). -/
  | recordRelease
  /-- The head backfill job places its telegram (R143). -/
  | backfillPlace
  /-- The GAP waiting for room of this origin is placed (R141). -/
  | gapPlace (origin : BitVec 5)
  /-- The oldest immediate answer is placed (R166). -/
  | pendingAnswerPlace
  /-- The job of this terminal places its answer (R168). -/
  | jobAnswerPlace (terminal : BitVec 5)
  /-- The GAP outstanding for this origin is 10 s old (R141). -/
  | gapExpiry (origin : BitVec 5)
  /-- The witness mark table entry of this station is 10 minutes old (R147). -/
  | markEntryExpiry (station : BitVec 5)
  /-- Ten minutes after the end of SCAN (R149). -/
  | witnessLagHoldoffEnd
  /-- The job of this terminal has been silent for 5 minutes (R170). -/
  | jobSilenceExpiry (terminal : BitVec 5)
  /-- The supply sense falls; how a page program in flight then ends on the hold-up (R176). -/
  | supplyFail (programGood : Bool)
  /-- The supply sense becomes good (R177). -/
  | supplySenseRise
  /-- The supply sense falls in HOLD or in reset (R177, R179). -/
  | supplySenseBounce
  /-- The good interval and the restart delay have passed in HOLD (R177). -/
  | supplyReturn
  /-- RESET is asserted; how a page program in flight then ends (R179). -/
  | resetAssert (programGood : Bool)
  /-- RESET is released (R179). -/
  | resetRelease
  /-- The cold start; the level of the SVC line as it is sampled (R179). -/
  | coldStart (svc : Bool)
  /-- The backup cell runs out (R177). -/
  | backupCellRanOut
deriving DecidableEq, Repr

/-- The sender station of a telegram's key, for the commands that are telegrams. -/
def Instr.sender : Instr → Option (BitVec 5)
  | .receiveReading sd _ _ _ _ => some sd
  | .receiveTime sd _ _ _ => some sd
  | .establishmentWindowEnd => none
  | .receiveRecord sd _ _ => some sd
  | .receiveMark sd _ => some sd
  | .receiveGap sd _ _ _ => some sd
  | .receivePresence sd _ => some sd
  | .receiveError _ _ => none
  | .stationClash _ => none
  | .read hd _ _ _ => some hd.terminal
  | .readYear hd _ _ => some hd.terminal
  | .condition hd => some hd.terminal
  | .clearAttention hd _ => some hd.terminal
  | .configBlock hd _ _ => some hd.terminal
  | .configCommit hd _ _ => some hd.terminal
  | .commitFlashComplete _ => none
  | .busIdle => none
  | .arbitrationLost => none
  | .transmitComplete => none
  | .transmitError => none
  | .silentEnd => none
  | .timeSend => none
  | .presenceSend => none
  | .agreementRound => none
  | .minuteBoundary => none
  | .programComplete _ => none
  | .eraseComplete _ => none
  | .recordRelease => none
  | .backfillPlace => none
  | .gapPlace _ => none
  | .pendingAnswerPlace => none
  | .jobAnswerPlace _ => none
  | .gapExpiry _ => none
  | .markEntryExpiry _ => none
  | .witnessLagHoldoffEnd => none
  | .jobSilenceExpiry _ => none
  | .supplyFail _ => none
  | .supplySenseRise => none
  | .supplySenseBounce => none
  | .supplyReturn => none
  | .resetAssert _ => none
  | .resetRelease => none
  | .coldStart _ => none
  | .backupCellRanOut => none

end Sys2Proof
end

