-- ==== Sys2Proof/Machine/State.lean ====
section
/-! DEFINITION. The state of the part, block by block, as plain data, and the state at power-on. -/

namespace Sys2Proof.Machine

/-! ## Names the manual gives -/

/-- Station states (R175). In reset the part has none (R179), which `Supply.station = none` says. -/
inductive Station where
  | unconfigured | commission | scan | timeUnset | catchUp | recording | hold
deriving DecidableEq, Repr

/-- Timebase states (R102). -/
inductive TimeState where
  | unset | running | frozen
deriving DecidableEq, Repr

/-- Port states (R121). -/
inductive PortState where
  | active | silent | off
deriving DecidableEq, Repr

/-- The nine attention causes, in the bit order of PRESENCE (7.7.3). -/
inductive Cause where
  | feedStop | disturbWarn | coldFeed | limit | channelLoss | witnessLag | archive | clock | bus
deriving DecidableEq, Repr

/-- The nine station counters, in the order of R86. -/
inductive Counter where
  | rxErrors | giveUps | clashes | refusals | skips | unpublished | unarchived | defective | clockSteps
deriving DecidableEq, Repr

/-- Kinds of a station in the station table (7.7.6). -/
inductive StationKind where
  | absent | recorder | source | terminal
deriving DecidableEq, Repr

/-- Slot kinds (chapter 1.1). -/
inductive SlotKind where
  | unused | pollutant | o2 | h2o | flow | furnace | feed | disturb
deriving DecidableEq, Repr

inductive MeasureUnit where
  | mg | ug
deriving DecidableEq, Repr

inductive Basis where
  | dry | wet
deriving DecidableEq, Repr

/-- Minute statuses (chapter 2.2). -/
inductive MinuteStatus where
  | valid | calib | maint | reference | fault | missing | timegap | hold | powerLoss
deriving DecidableEq, Repr

/-- How a minute was closed (R20). -/
inductive CloseKind where
  | withSamples | timegap | hold | powerLoss
deriving DecidableEq, Repr

/-- Operating states of a minute (chapter 3.1). -/
inductive OpState where
  | off | standby | firing | coldFiring | unknown | noRecord
deriving DecidableEq, Repr

/-- Statuses of a slot in a half-hour and in a day (R61, R62, R77). -/
inductive PeriodStatus where
  | valid | invalid | notOperating
deriving DecidableEq, Repr

/-- Record kinds (7.7.4). -/
inductive RecordKind where
  | halfHour | day | yearGeneral | yearSlot
deriving DecidableEq, Repr

/-- Archive states (R164). -/
inductive ArchiveState where
  | ready | ringFull | fault
deriving DecidableEq, Repr

/-- Transmit queues, in the order in which the transmitter serves them (R123). -/
inductive TxQueue where
  | time | record | mark | gap | answer | presence
deriving DecidableEq, Repr

/-- Reasons of a REFUSED answer (7.7.3). -/
inductive RefuseReason where
  | origin | state
deriving DecidableEq, Repr

/-- Results of a CONFIG_RESULT answer (7.7.3). -/
inductive ConfigResult where
  | ok | checkFailed | flashFailed | range
deriving DecidableEq, Repr

/-! ## The configuration in use -/

/-- One entry of the binding table (R1, R3). A field that the slot's kind does not hold is 0. -/
structure Slot where
  kind : SlotKind := .unused
  station : Nat := 0
  channel : Nat := 0
  interval : Nat := 0
  fullScale : Nat := 0
  unit : MeasureUnit := .mg
  basis : Basis := .dry
  limitA : Nat := 0
  limitB : Nat := 0
  bRequired : Nat := 0
  dailyLimit : Nat := 0
  confidence : Nat := 0
deriving DecidableEq, Repr

/-- The configuration in use: the recorder settings of chapter 1 and the binding table. The defaults are those of
UNCONFIGURED without a usable station number (R179). -/
structure Settings where
  own : Nat := 31
  line : Nat := 0
  /-- The kind of each station 1 to 31; place 0 is station 1. -/
  stations : List StationKind := []
  refO2 : Nat := 0
  o2Cap : Nat := 0
  defaultH2O : Nat := 0
  furnace : Nat := 0
  runCap : Nat := 0
  yearCap : Nat := 0
  dayAllowance : Nat := 0
  yearAllowance : Nat := 0
  retention : Nat := 0
  /-- The origins of partitions 0, 1 and 2; 0 for none (R134). -/
  witnessSet : List Nat := [0, 0, 0]
  reserved : Nat := 0
  quorum : Nat := 0
  enable : BitVec 9 := 0
  /-- The 16 entries of the binding table, by slot number (R1). -/
  slots : List Slot := List.replicate 16 {}
deriving DecidableEq, Repr

/-! ## Records and telegrams -/

/-- A record as the bus and the archive carry it: header and body (7.7.4). -/
structure Rec where
  kind : RecordKind
  origin : Nat
  seq : Nat
  start : Nat
  body : List Byte
deriving DecidableEq, Repr

/-- A RECORD telegram (7.7.3). -/
structure RecordTel where
  record : Rec
  backfill : Bool
deriving DecidableEq, Repr

/-- One entry of a MARK telegram the part sends (R146). -/
structure MarkOut where
  origin : Nat
  held : Nat
  oldest : Nat
deriving DecidableEq, Repr

/-- A GAP telegram the part sends (R141). -/
structure GapTel where
  target : Nat
  first : Nat
  count : Nat
deriving DecidableEq, Repr

/-- A PRESENCE telegram the part sends (R145). -/
structure PresenceTel where
  line : Nat
  station : Station
  latest : Nat
  floor : Nat
  secured : Nat
  timeState : TimeState
  flags : BitVec 9
deriving DecidableEq, Repr

/-- What an ANSWER carries (7.7.3); the CONDITION snapshot stands as its bytes, formed when it was placed (R171). -/
inductive Answer where
  | record (r : Rec)
  | notHeld (origin seq : Nat)
  | done (sent : Nat)
  | busy
  | refused (reason : RefuseReason)
  | condition (snapshot : List Byte)
  | cleared (flags : BitVec 9)
  | configResult (result : ConfigResult) (offset : Nat)
deriving DecidableEq, Repr

structure AnswerTel where
  terminal : Nat
  tag : BitVec 8
  answer : Answer
deriving DecidableEq, Repr

/-! ## Bus port -/

/-- A one-entry transmit queue: its entry, and the newer telegram held aside while the entry is on the line (R122). -/
structure OneQueue (α : Type) where
  entry : Option α := none
  aside : Option α := none
deriving DecidableEq, Repr

/-- The telegram the part has on the line: its queue and its bytes from the key to the check. -/
structure OnLine where
  queue : TxQueue
  bytes : List Byte
deriving DecidableEq, Repr

/-- The bus port (chapter 7). -/
structure Port where
  state : PortState := .off
  /-- TIME telegrams by their reference flag. -/
  timeQ : OneQueue Bool := {}
  recordQ : List RecordTel := []
  markQ : OneQueue (List MarkOut) := {}
  gapQ : List GapTel := []
  answerQ : List AnswerTel := []
  presenceQ : OneQueue PresenceTel := {}
  onLine : Option OnLine := none
  errorRun : Nat := 0
  /-- Elapsed time at which SILENT was entered (R126). -/
  silentSince : Nat := 0
  /-- Elapsed time at which the port became ACTIVE from OFF (R145). -/
  activeSince : Nat := 0
  /-- The model's own: the next number in the order in which producers begin to wait (R122). -/
  ticket : Nat := 0
deriving DecidableEq, Repr

/-! ## Intake unit and minute former -/

/-- The open-minute accumulator of a slot (R11). -/
structure Acc where
  sum : Int := 0
  valid : Nat := 0
  overrange : Nat := 0
  maint : Nat := 0
  calib : Nat := 0
  fault : Nat := 0
  nonZero : Nat := 0
  excess : Nat := 0
deriving DecidableEq, Repr

/-- The flags of a minute entry (R19). -/
structure MinuteFlags where
  overrange : Bool := false
  h2oSubst : Bool := false
  o2Clamp : Bool := false
  h2oClamp : Bool := false
  saturated : Bool := false
deriving DecidableEq, Repr

/-- A minute value: a mean, or for a binary slot asserted or not (R19). -/
inductive MinuteValue where
  | analogue (v : Int)
  | binary (asserted : Bool)
deriving DecidableEq, Repr

/-- A filled entry of the minute table (R19). -/
structure MinuteEntry where
  status : MinuteStatus
  flags : MinuteFlags := {}
  value : Option MinuteValue := none
  std : Option Int := none
  dry : Option Nat := none
deriving DecidableEq, Repr

/-- A closed minute: its minute state entry (R20) and its minute table entries by slot number, slots in use only. -/
structure MinuteRow where
  closeKind : CloseKind
  opState : OpState
  disturbed : Bool
  h2oSubst : Bool
  o2Clamped : Bool
  entries : List (Nat × MinuteEntry)
deriving DecidableEq, Repr

/-- The minute tables. They fill in order of minute (R22), so the filled entries are a list: place k is minute k. -/
structure Minutes where
  rows : List MinuteRow := []
  /-- The last closed minute, which CONDITION shows also after a half-hour close (R39). -/
  last : Option MinuteRow := none
  /-- The accumulators as a forward step that makes a minute due found them, until the minute at T_c takes them (R113;
  the model's own place for them: log entry 47). -/
  setAside : Option (List Acc) := none
deriving DecidableEq, Repr

/-! ## Line state unit -/

/-- The disturbance account (R45). -/
structure LineAccount where
  run : Nat := 0
  yearTotal : Nat := 0
  longest : Nat := 0
  /-- FSTOP state: ASSERTED is true. -/
  fstop : Bool := false
  warned : Bool := false
  coldFed : Bool := false
  fstopInHalfHour : Bool := false
deriving DecidableEq, Repr

/-! ## Averaging unit -/

/-- The day table row of a pollutant slot (R75). -/
structure DayRow where
  operating : Nat := 0
  valid : Nat := 0
  sum : Nat := 0
  invalid : Nat := 0
  aExceed : Nat := 0
deriving DecidableEq, Repr

/-- What the averaging unit keeps of one pollutant slot: its day row, channel-loss counter (R67) and previous mass
rate (R69). -/
structure AvgRow where
  slot : Nat
  day : DayRow := {}
  loss : Nat := 0
  rate : Option Nat := none
deriving DecidableEq, Repr

/-- The last half-hour results of one slot (R72). -/
structure LastEntry where
  slot : Nat
  status : PeriodStatus
  validated : Option Nat
deriving DecidableEq, Repr

structure LastHalfHour where
  start : Nat
  entries : List LastEntry
deriving DecidableEq, Repr

structure Averaging where
  /-- One row per POLLUTANT slot in use, in slot-number order. -/
  rows : List AvgRow := []
  last : Option LastHalfHour := none
deriving DecidableEq, Repr

/-! ## Year tally unit -/

/-- The per-slot year tallies (R82). -/
structure YearRow where
  slot : Nat
  validDays : Nat := 0
  invalidDays : Nat := 0
  idleDays : Nat := 0
  validHalfHours : Nat := 0
  invalidHalfHours : Nat := 0
  aExceed : Nat := 0
  bCompliant : Nat := 0
  dayExceed : Nat := 0
  mass : Nat := 0
  massSubst : Nat := 0
deriving DecidableEq, Repr

/-- Six minute counts by operating state (R58, R83). -/
structure MinuteCounts where
  off : Nat := 0
  standby : Nat := 0
  firing : Nat := 0
  coldFiring : Nat := 0
  unknown : Nat := 0
  noRecord : Nat := 0
deriving DecidableEq, Repr

/-- Nine counts, one for each station counter (R86). -/
structure Counters where
  rxErrors : Nat := 0
  giveUps : Nat := 0
  clashes : Nat := 0
  refusals : Nat := 0
  skips : Nat := 0
  unpublished : Nat := 0
  unarchived : Nat := 0
  defective : Nat := 0
  clockSteps : Nat := 0
deriving DecidableEq, Repr

structure YearUnit where
  rows : List YearRow := []
  minutes : MinuteCounts := {}
  fstops : Nat := 0
  coldFiring : Nat := 0
  totals : Counters := {}
  /-- The station counters of the day now open. -/
  day : Counters := {}
  /-- The year the unit has open (R140, R162); none before one is known. -/
  openYear : Option Nat := none
  /-- The resume point found in SCAN, in seconds (R94). -/
  resume : Option Nat := none
  /-- Whether the first half-hour after the cold start is still to be compared with the resume point (R99). -/
  compareDue : Bool := false
deriving DecidableEq, Repr

/-! ## Timebase -/

/-- An entry of the gap list (R105); the from-time in seconds. -/
structure GapEntry where
  fromTime : Nat
  kind : CloseKind
deriving DecidableEq, Repr

/-- An entry of the peer offset table, and the reference offset: station, offset and receipt time in ticks (R109). -/
structure OffsetEntry where
  station : Nat
  offset : Int
  receipt : Int
deriving DecidableEq, Repr

/-- A peer time stored for establishment: sender, send time plus 2 ticks, and the free count at its receipt (R115). -/
structure StoredTime where
  station : Nat
  time : Nat
  at_ : Nat
deriving DecidableEq, Repr

/-- The actions of the whole second that plant time has just passed (R108): due until the next tick. -/
structure Dues where
  time : Bool := false
  presence : Bool := false
  round : Bool := false
deriving DecidableEq, Repr

structure Timebase where
  /-- Plant time in ticks since 2000-01-01 00:00:00.0; none when it has no value (R101). -/
  plant : Option Nat := none
  state : TimeState := .unset
  /-- The closed-through mark T_c in seconds (R102). -/
  closed : Option Nat := none
  /-- The sampled minute, its start in seconds (R105). -/
  sampled : Option Nat := none
  gaps : List GapEntry := []
  /-- A catch-up is in progress (R106). -/
  catchUp : Bool := false
  stepCount : Nat := 0
  /-- The sign of the counted targets: true is negative (R112). -/
  stepNegative : Bool := false
  peers : List OffsetEntry := []
  reference : Option OffsetEntry := none
  stored : List StoredTime := []
  /-- The free count at which the establishment window started (R115). -/
  window : Option Nat := none
  /-- The from-time of the HOLD entry that a warm return adds, fixed at the supply-fail event (R117). -/
  holdFrom : Nat := 0
  dues : Dues := {}
  /-- The whole second, put back by a correction of a round, whose actions are not taken again (R108). -/
  taken : Option Nat := none
deriving DecidableEq, Repr

/-! ## Witness unit -/

/-- The pool that lent a staging slot (R136). -/
inductive Pool where
  | shared | reserved
deriving DecidableEq, Repr

structure Staged where
  record : Rec
  pool : Pool
deriving DecidableEq, Repr

/-- Where an outstanding GAP stands (R141): waiting for room with its place in the order of waiting, in the GAP
queue, or transmitted at this elapsed time. -/
inductive GapPhase where
  | waiting (ticket : Nat)
  | queued
  | sent (at_ : Nat)
deriving DecidableEq, Repr

structure Gap where
  first : Nat
  count : Nat
  phase : GapPhase
deriving DecidableEq, Repr

/-- The witness state of an origin (R135), with its place in the witness set. -/
structure Origin where
  place : Nat
  station : Nat
  held : Nat := 0
  oldest : Option Nat := none
  staged : List Staged := []
  known : Nat := 0
  floor : Nat := 0
  gap : Option Gap := none
deriving DecidableEq, Repr

/-- A backfill job: the next sequence not yet placed and the last one (R142, R143). -/
structure Backfill where
  next : Nat
  last : Nat
deriving DecidableEq, Repr

/-- What the head backfill job is doing: nothing, reading, or waiting with its telegram. -/
inductive BackfillWork where
  | idle
  | reading
  | ready (record : Rec) (ticket : Nat)
deriving DecidableEq, Repr

/-- A witness mark table entry (R147). -/
structure WitnessMark where
  station : Nat
  mark : Nat
  at_ : Nat
deriving DecidableEq, Repr

structure Witness where
  /-- One state per witnessed origin, in partition order. -/
  origins : List Origin := []
  jobs : List Backfill := []
  work : BackfillWork := .idle
  marks : List WitnessMark := []
  secured : Nat := 0
  ownFloor : Nat := 0
  yearStart : Option Nat := none
  /-- Elapsed time at the end of SCAN while the witness lag test is not yet made (R149). -/
  lagHoldoff : Option Nat := none
deriving DecidableEq, Repr

/-! ## Archive controller -/

/-- The archive flash: the bytes that do not read FF, by address, addresses rising (R151; log entry 7). -/
abbrev Memory := List Host.Cell

/-- The ring areas (R151). -/
inductive Area where
  | own
  | part (place : Nat)
deriving DecidableEq, Repr

inductive SectorState where
  | erased | filling | full
deriving DecidableEq, Repr

/-- A sector directory entry (R154). The number of record pages and the highest sequence are the model's own fields:
R169 asks them of the directory, and R154 does not list them (log entry 46). -/
structure DirEntry where
  state : SectorState := .erased
  firstSeq : Option Nat := none
  firstYear : Option Nat := none
  lastYear : Option Nat := none
  defective : Nat := 0
  records : Nat := 0
  highSeq : Option Nat := none
deriving DecidableEq, Repr

/-- A ring area: its write position as a page of the area, its directory by sector of the area (an ERASED sector is
not listed), and its erase failure count with the target it belongs to (R151, R154, R163). -/
structure Ring where
  writePos : Nat := 0
  dir : List (Nat × DirEntry) := []
  failTarget : Nat := 0
  eraseFails : Nat := 0
  /-- The model's own: the sector that an erase without a good end has left, and the highest sequence number it held
  before, which the good erase reports (R138, R161; log entry 46). -/
  broken : Option (Nat × Nat) := none
deriving DecidableEq, Repr

/-- The operation in flight, with what it works on (R152). -/
inductive FlashOp where
  | idle
  | programming (area : Area)
  | erasing (area : Area) (sector : Nat)
  | commitErase
  | commitPage (page : Nat)
deriving DecidableEq, Repr

inductive OutState where
  | waitingArchive | programming | waitingPublish
deriving DecidableEq, Repr

/-- An entry of the outbound record queue (R156). -/
structure OutEntry where
  kind : RecordKind
  start : Nat
  body : List Byte
  seq : Option Nat := none
  state : OutState := .waitingArchive
  placed : Bool := false
deriving DecidableEq, Repr

/-- Who asked for a read: the head backfill job, a terminal's job, or a job that has gone (R155, R167). -/
inductive Requester where
  | backfill
  | job (terminal : Nat)
  | nobody
deriving DecidableEq, Repr

structure Request where
  who : Requester
  area : Area
  seq : Nat
deriving DecidableEq, Repr

structure Archive where
  flash : Memory := []
  op : FlashOp := .idle
  own : Ring := {}
  /-- The rings of witness partitions 0, 1 and 2. -/
  parts : List Ring := [{}, {}, {}]
  outbound : List OutEntry := []
  requests : List Request := []
  lastAssigned : Nat := 0
  latest : Nat := 0
  failureRun : Nat := 0
  state : ArchiveState := .ready
  roundRobin : Nat := 2
  /-- When the release of own records began to wait, in the order of waiting (R160, R122). -/
  releaseTicket : Option Nat := none
  /-- The erase that a supply-fail event has abandoned, with its target sector, until it is reissued at the first
  flash-idle event after the warm return (R165, R178; log entry 42). -/
  abandoned : Option (Area × Nat) := none
deriving DecidableEq, Repr

/-! ## Retrieval unit -/

inductive JobKind where
  | read | follow | readYear (year : Nat)
deriving DecidableEq, Repr

/-- What a job is doing: waiting for a new record (FOLLOW), reading, or waiting for room with its answer; `skip` says
that a NOT_HELD answer stands for a sequence below the held range (R168). -/
inductive JobWork where
  | waiting
  | reading
  | ready (answer : Answer) (skip : Bool) (ticket : Nat)
deriving DecidableEq, Repr

/-- A retrieval job (R167). -/
structure Job where
  terminal : Nat
  tag : BitVec 8
  origin : Nat
  kind : JobKind
  next : Nat
  last : Option Nat
  sent : Nat := 0
  work : JobWork := .waiting
  /-- Elapsed time of the terminal's last PRESENCE, or of the admission. -/
  heardAt : Nat
deriving DecidableEq, Repr

/-- An immediate answer waiting to be placed (R166). A CONDITION answer has no contents yet (R171). -/
inductive PendingBody where
  | busy
  | refused (reason : RefuseReason)
  | condition
  | cleared (flags : BitVec 9)
  | configResult (result : ConfigResult) (offset : Nat)
deriving DecidableEq, Repr

structure PendingAnswer where
  terminal : Nat
  tag : BitVec 8
  body : PendingBody
  ticket : Nat
deriving DecidableEq, Repr

structure Retrieval where
  jobs : List Job := []
  answers : List PendingAnswer := []
  /-- The attention flags, bits 0 to 8 as in PRESENCE (R173). -/
  flags : BitVec 9 := 0
deriving DecidableEq, Repr

/-! ## Supply unit -/

/-- The commit state (R182); in flight, the terminal and tag of its answer. -/
inductive Commit where
  | idle
  | inFlight (terminal : Nat) (tag : BitVec 8)
deriving DecidableEq, Repr

structure Supply where
  /-- The station state; none in reset (R179). -/
  station : Option Station := none
  /-- The state from which HOLD was entered, while in HOLD (R175). -/
  heldFrom : Option Station := none
  /-- The SENSE input: the supply is good. -/
  sense : Bool := true
  /-- Elapsed time since which the supply sense has been good without a break (R177). -/
  goodSince : Nat := 0
  /-- The RESET input: asserted. -/
  resetLine : Bool := false
  /-- Elapsed time at which RESET was released (R179). -/
  releasedAt : Nat := 0
  /-- RESET has been asserted since HOLD was entered (R177). -/
  resetInHold : Bool := false
  /-- The retained-RAM check holds (R176, R177). -/
  ramIntact : Bool := false
  /-- The backup domain's validity flag (R101). -/
  clockValid : Bool := false
  /-- Output is permitted on FSTOP and ATTN (R48, R174). -/
  output : Bool := false
  /-- The staging image of COMMISSION, 1,024 bytes there (R182); no bytes outside it (log entry 45). -/
  staging : List Byte := []
  commit : Commit := .idle
deriving DecidableEq, Repr

/-! ## The whole part -/

structure State where
  supply : Supply
  cfg : Settings
  port : Port
  /-- The open-minute accumulators, by slot number (R11). -/
  accs : List Acc
  minutes : Minutes
  line : LineAccount
  avg : Averaging
  year : YearUnit
  tb : Timebase
  wit : Witness
  arch : Archive
  retr : Retrieval
  /-- Elapsed time in ticks, the free-running count of R115, R126, R141 and R177. -/
  elapsed : Nat
  /-- The model's own: the number of the next free draw (log entries 8 and 9). -/
  draws : Nat
  /-- The commands that wait, first in, first out. -/
  pending : List Instr
deriving DecidableEq, Repr

/-- No event of the manual stops the part: a fault has no reason, and no command faults (log entry 3). -/
inductive Fault where
deriving DecidableEq, Repr

/-- Why a command has no meaning. -/
inductive Refusal where
  /-- Raised by an arm of `exec` whose command has not been given its meaning yet. Safe: the machine stops there. -/
  | notModelled (mnemonic : String)
deriving DecidableEq, Repr

/-- The part at its first power-on, in reset with the supply good and the restart delay passed (R179): the RAM at its
cold-start values, the backup domain without a time, the flash erased, no staging image (log entries 2, 7, 10 and 45). -/
def State.reset : State where
  supply := {}
  cfg := {}
  port := {}
  accs := List.replicate 16 {}
  minutes := {}
  line := {}
  avg := {}
  year := {}
  tb := {}
  wit := {}
  arch := {}
  retr := {}
  elapsed := 154
  draws := 0
  pending := []

/-! ## Setters, one for each block -/

def State.setSupply (s : State) (x : Supply) : State := { s with supply := x }
def State.setCfg (s : State) (x : Settings) : State := { s with cfg := x }
def State.setPort (s : State) (x : Port) : State := { s with port := x }
def State.setAccs (s : State) (x : List Acc) : State := { s with accs := x }
def State.setMinutes (s : State) (x : Minutes) : State := { s with minutes := x }
def State.setLine (s : State) (x : LineAccount) : State := { s with line := x }
def State.setAvg (s : State) (x : Averaging) : State := { s with avg := x }
def State.setYear (s : State) (x : YearUnit) : State := { s with year := x }
def State.setTb (s : State) (x : Timebase) : State := { s with tb := x }
def State.setWit (s : State) (x : Witness) : State := { s with wit := x }
def State.setArch (s : State) (x : Archive) : State := { s with arch := x }
def State.setRetr (s : State) (x : Retrieval) : State := { s with retr := x }
def State.setElapsed (s : State) (x : Nat) : State := { s with elapsed := x }
def State.setDraws (s : State) (x : Nat) : State := { s with draws := x }
def State.setPending (s : State) (x : List Instr) : State := { s with pending := x }

end Sys2Proof.Machine
end

