-- ==== Sys2Proof/Machine/Ops.lean ====
section
/-! DEFINITION. Named operations the blocks share: rounding, the calendar, byte order, the CRC, the archive flash as
memory, counters, and the order of waiting producers. -/

namespace Sys2Proof.Machine

/-! ## Arithmetic -/

/-- A quotient rounded half away from zero (Conventions, Rounding). -/
def roundDiv (n : Int) (d : Nat) : Int :=
  let q : Nat := (2 * n.natAbs + d) / (2 * d)
  if n < 0 then -(q : Int) else q

/-- `roundDiv` of a numerator that is not negative. -/
def roundDivNat (n d : Nat) : Nat := (2 * n + d) / (2 * d)

/-- The value itself within the bounds, else the nearer bound. -/
def clampInt (lo hi v : Int) : Int := if v < lo then lo else if hi < v then hi else v

/-- The bounds of a centi-unit value (Conventions, Centi-units). -/
def centiMin : Int := -8388608
def centiMax : Int := 8388607

/-- Addition that stays at the bound. -/
def satAdd (bound a n : Nat) : Nat := min bound (a + n)

def insertSorted (x : Int) : List Int → List Int
  | [] => [x]
  | y :: r => if x ≤ y then x :: y :: r else y :: insertSorted x r

/-- The list in ascending order. -/
def sortInts : List Int → List Int
  | [] => []
  | x :: r => insertSorted x (sortInts r)

/-- The value in the middle of the sorted list, the lower middle one when the count is even: place (k + 1) / 2,
rounded down, counting from 1 (R111). -/
def lowerMiddle (l : List Int) : Option Int := (sortInts l)[(l.length + 1) / 2 - 1]?

/-- The greatest of a list. -/
def maxList (l : List Nat) : Option Nat := l.foldl (fun m x => some (match m with | none => x | some y => max x y)) none

/-- The least of a list. -/
def minList (l : List Nat) : Option Nat := l.foldl (fun m x => some (match m with | none => x | some y => min x y)) none

/-! ## The calendar (Conventions, Plant time and periods) -/

/-- The year that holds a time in seconds since 2000-01-01; every fourth year from 2000 is a leap year. -/
def yearOf (t : Nat) : Nat :=
  let d := t / 86400
  let r := d % 1461
  2000 + 4 * (d / 1461) + (if r < 366 then 0 else 1 + (r - 366) / 365)

/-- 1 January 00:00 of a year, in seconds. -/
def yearStart (y : Nat) : Nat := (365 * (y - 2000) + (y - 2000 + 3) / 4) * 86400

def dayStart (t : Nat) : Nat := t / 86400 * 86400
def halfHourStart (t : Nat) : Nat := t / 1800 * 1800
def minuteStart (t : Nat) : Nat := t / 60 * 60

/-- The whole seconds of a plant time in ticks. -/
def secondsOf (ticks : Nat) : Nat := ticks / Config.ticksPerSecond

/-- The start of the minute that a plant time in ticks is in, in seconds. -/
def minuteOfTicks (ticks : Nat) : Nat := minuteStart (secondsOf ticks)

/-! ## Bytes (R130) -/

/-- A number in k bytes, most significant byte first. -/
def beBytes : Nat → Nat → List Byte
  | 0, _ => []
  | k + 1, n => BitVec.ofNat 8 (n / 256 ^ k) :: beBytes k n

/-- The number that bytes spell, most significant byte first. -/
def ofBytes (l : List Byte) : Nat := l.foldl (fun a b => a * 256 + b.toNat) 0

/-- A signed 3-byte field. -/
def be3Signed (v : Int) : List Byte := beBytes 3 (v % 16777216).toNat

/-- The value of a signed 24-bit field. -/
def signed24 (n : Nat) : Int := if n < 8388608 then n else (n : Int) - 16777216

/-- `len` bytes from place `off`. -/
def slice (l : List Byte) (off len : Nat) : List Byte := (l.drop off).take len

/-- The number in `len` bytes at place `off`. -/
def field (l : List Byte) (off len : Nat) : Nat := ofBytes (slice l off len)

/-- A byte of flag bits, the first flag in bit 0. -/
def flagByte (l : List Bool) : Nat := l.foldr (fun b a => 2 * a + b.toNat) 0

/-- Whether bit i of a number is set. -/
def bitOf (n i : Nat) : Bool := n.testBit i

/-! ## The CRC-16 of R119 -/

/-- One bit of the polynomial division x^16 + x^12 + x^5 + 1. -/
def crcShift (c : BitVec 16) : BitVec 16 := if c.msb then (c <<< 1) ^^^ 0x1021#16 else c <<< 1

/-- One byte, most significant bit first. -/
def crcByte (c : BitVec 16) (b : Byte) : BitVec 16 :=
  crcShift <| crcShift <| crcShift <| crcShift <| crcShift <| crcShift <| crcShift <| crcShift
    (c ^^^ (b.setWidth 16 <<< 8))

/-- The check over bytes, from an initial value of all ones, without a final inversion (R119). -/
def crc16 (l : List Byte) : BitVec 16 := l.foldl crcByte 0xFFFF#16

/-! ## The archive flash as memory (R151, R152) -/

/-- What an address that is not listed reads: an erased byte (log entry 7). -/
def erasedByte : Byte := 0xFF#8

/-- The byte at an address. -/
def Memory.read : Memory → Nat → Byte
  | [], _ => erasedByte
  | (k, v) :: r, a => if k = a then v else Memory.read r a

/-- The flash with a byte put at an address; an erased byte is not listed. -/
def Memory.write : Memory → Nat → Byte → Memory
  | [], a, b => if b = erasedByte then [] else [(a, b)]
  | (k, v) :: r, a, b =>
    if a < k then (if b = erasedByte then (k, v) :: r else (a, b) :: (k, v) :: r)
    else if a = k then (if b = erasedByte then r else (a, b) :: r)
    else (k, v) :: Memory.write r a b

/-- Whether the addresses rise from a bound on and no listed byte reads erased. -/
def Memory.wfFrom (bound : Nat) : Memory → Bool
  | [] => true
  | (k, v) :: r => decide (bound ≤ k) && decide (v ≠ erasedByte) && Memory.wfFrom (k + 1) r

/-- The canonical form: addresses strictly rising, no listed byte an erased one. -/
def Memory.wf (m : Memory) : Bool := Memory.wfFrom 0 m

/-- Bytes put one after the other from an address on. -/
def Memory.writeAll (m : Memory) (a : Nat) : List Byte → Memory
  | [] => m
  | b :: r => Memory.writeAll (m.write a b) (a + 1) r

/-- Read n bytes from an address on, out of a part of the flash that lists no address below it. -/
def Memory.readFrom : Nat → Nat → Memory → List Byte
  | 0, _, _ => []
  | n + 1, a, [] => erasedByte :: Memory.readFrom n (a + 1) []
  | n + 1, a, (k, v) :: r =>
    if k = a then v :: Memory.readFrom n (a + 1) r else erasedByte :: Memory.readFrom n (a + 1) ((k, v) :: r)

/-- The n bytes from an address on. -/
def Memory.bytes (m : Memory) (a n : Nat) : List Byte := Memory.readFrom n a (m.dropWhile (fun c => c.1 < a))

/-- A program can change bits from 1 to 0 but not back (R152): each byte becomes its old value and the data. -/
def Memory.program (m : Memory) (a : Nat) (data : List Byte) : Memory :=
  m.writeAll a (List.zipWith (· &&& ·) (m.bytes a data.length) data)

/-- An erase sets every byte from `lo` to below `hi` to FF (R152). -/
def Memory.erase (m : Memory) (lo hi : Nat) : Memory := m.filter (fun c => !(decide (lo ≤ c.1) && decide (c.1 < hi)))

/-! ## Counts, tickets and small state operations -/

/-- The station counters with one raised; a counter that would pass its bound stays at it (R86). -/
def Counters.bump (c : Counters) (k : Counter) (n : Nat) : Counters :=
  match k with
  | .rxErrors => { c with rxErrors := satAdd Config.counterMax c.rxErrors n }
  | .giveUps => { c with giveUps := satAdd Config.counterMax c.giveUps n }
  | .clashes => { c with clashes := satAdd Config.counterMax c.clashes n }
  | .refusals => { c with refusals := satAdd Config.counterMax c.refusals n }
  | .skips => { c with skips := satAdd Config.counterMax c.skips n }
  | .unpublished => { c with unpublished := satAdd Config.counterMax c.unpublished n }
  | .unarchived => { c with unarchived := satAdd Config.counterMax c.unarchived n }
  | .defective => { c with defective := satAdd Config.counterMax c.defective n }
  | .clockSteps => { c with clockSteps := satAdd Config.counterMax c.clockSteps n }

/-- Nine counts added to nine totals, each with the bound of R86 (R87). -/
def Counters.plus (t c : Counters) : Counters where
  rxErrors := satAdd Config.counterMax t.rxErrors c.rxErrors
  giveUps := satAdd Config.counterMax t.giveUps c.giveUps
  clashes := satAdd Config.counterMax t.clashes c.clashes
  refusals := satAdd Config.counterMax t.refusals c.refusals
  skips := satAdd Config.counterMax t.skips c.skips
  unpublished := satAdd Config.counterMax t.unpublished c.unpublished
  unarchived := satAdd Config.counterMax t.unarchived c.unarchived
  defective := satAdd Config.counterMax t.defective c.defective
  clockSteps := satAdd Config.counterMax t.clockSteps c.clockSteps

/-- The nine counts in the order of R86. -/
def Counters.toList (c : Counters) : List Nat :=
  [c.rxErrors, c.giveUps, c.clashes, c.refusals, c.skips, c.unpublished, c.unarchived, c.defective, c.clockSteps]

/-- The nine counts from a list in the order of R86. -/
def countersOf (l : List Nat) : Counters where
  rxErrors := l.getD 0 0
  giveUps := l.getD 1 0
  clashes := l.getD 2 0
  refusals := l.getD 3 0
  skips := l.getD 4 0
  unpublished := l.getD 5 0
  unarchived := l.getD 6 0
  defective := l.getD 7 0
  clockSteps := l.getD 8 0

/-- A report to the year tally unit: the station counter of the day rises (R86). -/
def countUp (k : Counter) (n : Nat) (s : State) : State :=
  s.setYear { s.year with day := s.year.day.bump k n }

def MinuteCounts.plus (a b : MinuteCounts) : MinuteCounts where
  off := a.off + b.off
  standby := a.standby + b.standby
  firing := a.firing + b.firing
  coldFiring := a.coldFiring + b.coldFiring
  unknown := a.unknown + b.unknown
  noRecord := a.noRecord + b.noRecord

/-- The six counts in the order of the HALF_HOUR body. -/
def MinuteCounts.toList (c : MinuteCounts) : List Nat :=
  [c.off, c.standby, c.firing, c.coldFiring, c.unknown, c.noRecord]

/-- A producer begins to wait: it takes the next place in the order of waiting (R122). -/
def nextTicket (s : State) : State := s.setPort { s.port with ticket := s.port.ticket + 1 }

/-- Whether a producer's ticket is before every other waiting producer's (R122). -/
def longestWaiting (ticket : Nat) (others : List Nat) : Bool := others.all (fun t => decide (ticket ≤ t))

/-- In reset the part has no station state, and no block acts but the supply unit (R179). -/
def inReset (s : State) : Bool := s.supply.station == none

/-- Elapsed ticks since a moment. -/
def since (s : State) (t : Nat) : Nat := s.elapsed - t

/-- The slots in use, with their numbers, in slot-number order (R1). -/
def slotsInUse (c : Settings) : List (Nat × Slot) :=
  (c.slots.zipIdx.map (fun p => (p.2, p.1))).filter (fun p => p.2.kind != .unused)

/-- The pollutant slots in slot-number order (R2). -/
def pollutants (c : Settings) : List (Nat × Slot) := (slotsInUse c).filter (fun p => p.2.kind == .pollutant)

/-- The slot of a kind that a valid table has at most once (R2). -/
def slotOfKind (c : Settings) (k : SlotKind) : Option (Nat × Slot) := (slotsInUse c).find? (fun p => p.2.kind == k)

/-- The kind the station table gives a station; stations 1 to 31 have an entry (7.7.6). -/
def stationKind (c : Settings) (st : Nat) : StationKind :=
  if st = 0 then .absent else c.stations.getD (st - 1) .absent

/-- The witnessed origins of the set, with their places (R134). -/
def witnessed (c : Settings) : List (Nat × Nat) :=
  (c.witnessSet.zipIdx.map (fun p => (p.2, p.1))).filter (fun p => p.2 != 0)

end Sys2Proof.Machine
end

