-- ==== Sys2Proof/Machine/Image.lean ====
section
/-! DEFINITION. The configuration image: its layout, its check, and the checks of its settings and binding table
(R1 to R6, R133, R134, R179, R183, 7.7.6). -/

namespace Sys2Proof.Machine

/-! ## Codes of the image (7.7.6) -/

def stationKindOf (n : Nat) : StationKind :=
  match n with
  | 1 => .recorder
  | 2 => .source
  | 3 => .terminal
  | _ => .absent

/-- The kind of a slot kind code; a code of 8 or more has none (R133). -/
def slotKindOf (n : Nat) : Option SlotKind :=
  match n with
  | 0 => some .unused
  | 1 => some .pollutant
  | 2 => some .o2
  | 3 => some .h2o
  | 4 => some .flow
  | 5 => some .furnace
  | 6 => some .feed
  | 7 => some .disturb
  | _ => none

/-- The offset of a slot entry. -/
def slotOffset (i : Nat) : Nat := 64 + 22 * i

/-! ## Reading the image -/

/-- Whether a kind holds a full scale: the analogue kinds (R3). -/
def SlotKind.analogue (k : SlotKind) : Bool := k != .unused && k != .feed && k != .disturb

/-- Whether a kind holds a basis (R3). -/
def SlotKind.hasBasis (k : SlotKind) : Bool := k == .pollutant || k == .o2

/-- A field that is held, or 0. -/
def heldField (held : Bool) (b : List Byte) (off len : Nat) : Nat := if held then field b off len else 0

/-- A slot entry of the image; what its kind does not hold is not read (R3). -/
def slotOf (b : List Byte) (i : Nat) : Slot :=
  let o := slotOffset i
  let k := (slotKindOf (field b o 1)).getD .unused
  let used := k != .unused
  let p := k == .pollutant
  { kind := k
    station := heldField used b (o + 1) 1
    channel := heldField used b (o + 2) 1
    interval := heldField used b (o + 3) 1
    fullScale := heldField k.analogue b (o + 4) 3
    unit := if heldField p b (o + 7) 1 = 1 then .ug else .mg
    basis := if heldField k.hasBasis b (o + 8) 1 = 1 then .wet else .dry
    limitA := heldField p b (o + 9) 3
    limitB := heldField p b (o + 12) 3
    bRequired := heldField p b (o + 15) 2
    dailyLimit := heldField p b (o + 17) 3
    confidence := heldField p b (o + 20) 2 }

/-- The settings that an image holds. -/
def settingsOf (b : List Byte) : Settings :=
  { own := field b 8 1
    line := field b 9 1
    stations := (List.range 31).map (fun i => stationKindOf (field b (10 + i) 1))
    refO2 := field b 41 2
    o2Cap := field b 43 2
    defaultH2O := field b 45 2
    furnace := field b 47 3
    runCap := field b 50 2
    yearCap := field b 52 2
    dayAllowance := field b 54 1
    yearAllowance := field b 55 1
    retention := field b 56 1
    witnessSet := (List.range 3).map (fun i => field b (57 + i) 1)
    reserved := field b 60 1
    quorum := field b 61 1
    enable := BitVec.ofNat 9 (field b 62 2)
    slots := (List.range 16).map (slotOf b) }

/-! ## The image check (R133) -/

/-- Whether the marker, the length and the check of an image hold. -/
def imageCheckHolds (b : List Byte) : Bool :=
  let len := field b 2 2
  b.take 2 == [0x3C#8, 0x5A#8] && decide (416 ≤ len) && decide (len ≤ 1024)
    && field b 4 2 == (crc16 (slice b 8 (len - 8))).toNat

/-! ## The checks in their order: each gives the offset it names when it fails -/

/-- A field within bounds. -/
def rangeCheck (b : List Byte) (off len lo hi : Nat) : Option Nat :=
  if lo ≤ field b off len ∧ field b off len ≤ hi then none else some off

/-- The first check that fails. -/
def firstFail (l : List (Option Nat)) : Option Nat := l.findSome? (fun x => x)

/-- The entry of station s in the station table: a listed code, and RECORDER for the part's own number (R179, R183). -/
def stationCheck (b : List Byte) (s : Nat) : Option Nat :=
  if s = field b 8 1 then rangeCheck b (9 + s) 1 1 1 else rangeCheck b (9 + s) 1 0 3

/-- Whether the station table gives a station a kind code. -/
def tableCode (b : List Byte) (s : Nat) : Option Nat := if 1 ≤ s ∧ s ≤ 31 then some (field b (9 + s) 1) else none

/-- An entry of the witness set (R134). -/
def witnessCheck (b : List Byte) (i : Nat) : Option Nat :=
  let st := field b (57 + i) 1
  let others := ((List.range 3).filter (fun j => j != i)).map (fun j => field b (57 + j) 1)
  if st = 0 ∨ (tableCode b st = some 1 ∧ st ≠ field b 8 1 ∧ others.contains st = false) then none else some (57 + i)

/-- The recorder settings in image order (chapter 1, R134, R183). -/
def settingsChecks (b : List Byte) : List (Option Nat) :=
  [rangeCheck b 8 1 1 31, rangeCheck b 9 1 1 8]
  ++ (List.range 31).map (fun i => stationCheck b (i + 1))
  ++ [rangeCheck b 41 2 0 1700, rangeCheck b 43 2 1700 2000, rangeCheck b 45 2 0 4000, rangeCheck b 47 3 0 150000,
      rangeCheck b 50 2 60 480, rangeCheck b 52 2 600 6000, rangeCheck b 54 1 0 10, rangeCheck b 55 1 0 30,
      rangeCheck b 56 1 1 6, witnessCheck b 0, witnessCheck b 1, witnessCheck b 2, rangeCheck b 60 1 2 8,
      rangeCheck b 61 1 0 3]

/-- The kind code of a slot entry. -/
def kindCode (b : List Byte) (i : Nat) : Nat := field b (slotOffset i) 1

/-- The sample intervals that may be configured (R3). -/
def intervals : List Nat := [1, 2, 3, 4, 5, 6, 10, 12, 15, 20, 30, 60]

/-- A check that is made only for the kinds that hold the field. -/
def checkIf (held : Bool) (c : Option Nat) : Option Nat := if held then c else none

/-- Check 1 of R6 for one slot: the fields of R3 in image order (R3, R133). -/
def slotChecks (b : List Byte) (i : Nat) : List (Option Nat) :=
  let o := slotOffset i
  match slotKindOf (kindCode b i) with
  | none => [some o]
  | some .unused => []
  | some k =>
    let p := k == .pollutant
    let st := field b (o + 1) 1
    [if tableCode b st = some 2 ∧ st ≠ field b 8 1 then none else some (o + 1),
     rangeCheck b (o + 2) 1 0 15,
     if intervals.contains (field b (o + 3) 1) then none else some (o + 3),
     checkIf k.analogue (rangeCheck b (o + 4) 3 1 (if k = .flow then 1000000 else 8388607)),
     checkIf p (rangeCheck b (o + 7) 1 0 1),
     checkIf k.hasBasis (rangeCheck b (o + 8) 1 0 1),
     checkIf p (rangeCheck b (o + 9) 3 0 8388607),
     checkIf p (rangeCheck b (o + 12) 3 0 8388607),
     checkIf p (rangeCheck b (o + 15) 2 0 1000),
     checkIf p (rangeCheck b (o + 17) 3 0 8388607),
     checkIf p (rangeCheck b (o + 20) 2 0 500)]

/-- The slots in use of an image, by number. -/
def usedSlots (b : List Byte) : List Nat := (List.range 16).filter (fun i => kindCode b i != 0)

/-- The source station and channel of a slot. -/
def sourceOf (b : List Byte) (i : Nat) : Nat × Nat := (field b (slotOffset i + 1) 1, field b (slotOffset i + 2) 1)

/-- Check 2 of R6: a source pair is not that of a slot of lower number. -/
def uniqueCheck (b : List Byte) (i : Nat) : Option Nat :=
  if (usedSlots b).any (fun j => decide (j < i) && sourceOf b j == sourceOf b i) then some (slotOffset i + 2) else none

/-- The slots of a kind code, by number. -/
def slotsOfCode (b : List Byte) (code : Nat) : List Nat := (usedSlots b).filter (fun i => kindCode b i == code)

/-- Check 3 of R6: no more slots of a kind than its upper count. -/
def upperCheck (b : List Byte) (code count : Nat) : Option Nat := ((slotsOfCode b code)[count]?).map slotOffset

/-- The kind field of the lowest-numbered UNUSED entry. -/
def firstUnused (b : List Byte) : Nat := (((List.range 16).find? (fun i => kindCode b i == 0)).map slotOffset).getD 64

/-- Check 4 of R6: a required kind is present. -/
def lowerCheck (b : List Byte) (code : Nat) : Option Nat :=
  if (slotsOfCode b code).isEmpty then some (firstUnused b) else none

/-- Check 5 of R6: an H2O slot when a POLLUTANT or the O2 slot is WET. -/
def waterCheck (b : List Byte) : Option Nat :=
  if (slotsOfCode b 3).isEmpty then
    ((usedSlots b).find? (fun i => (kindCode b i == 1 || kindCode b i == 2) && field b (slotOffset i + 8) 1 == 1)).map
      (fun i => slotOffset i + 8)
  else none

/-- The checks of the binding table in the order of R6. -/
def bindingChecks (b : List Byte) : List (Option Nat) :=
  (usedSlots b).flatMap (slotChecks b)
  ++ (usedSlots b).map (uniqueCheck b)
  ++ [upperCheck b 1 10, upperCheck b 2 1, upperCheck b 3 1, upperCheck b 4 1, upperCheck b 5 1, upperCheck b 6 1,
      upperCheck b 7 1]
  ++ [lowerCheck b 1, lowerCheck b 2, lowerCheck b 5, lowerCheck b 6]
  ++ [waterCheck b]

/-- The offset that the first failing check of an image names; none when every check holds (R6, R134, R183). -/
def imageError (b : List Byte) : Option Nat := firstFail (settingsChecks b ++ bindingChecks b)

/-- Whether a stored image is valid (R179). -/
def imageValid (b : List Byte) : Bool := imageCheckHolds b && (imageError b).isNone

/-- The settings of UNCONFIGURED, and of COMMISSION after an image that is not valid (R179): the station number, the line
0, no station, slot or enabled cause. Every other setting is 0 or none, the witness set with it, so that no MARK is sent
(DESIGN CHOICE: log entry 54). -/
def fallbackSettings (b : List Byte) : Settings :=
  { own := if 1 ≤ field b 8 1 ∧ field b 8 1 ≤ 31 then field b 8 1 else 31 }

end Sys2Proof.Machine
end

