-- ==== Sys2Proof/Machine/Flags.lean ====
section
/-! DEFINITION. The nine attention flags and the two output lines computed from them and from the FSTOP state. -/

namespace Sys2Proof.Machine

/-- The bit of a cause in the attention flags (7.7.3, PRESENCE). -/
def Cause.bit : Cause → Nat
  | .feedStop => 0
  | .disturbWarn => 1
  | .coldFeed => 2
  | .limit => 3
  | .channelLoss => 4
  | .witnessLag => 5
  | .archive => 6
  | .clock => 7
  | .bus => 8

/-- The set that holds one cause. -/
def Cause.mask (c : Cause) : BitVec 9 := BitVec.ofNat 9 (2 ^ c.bit)

/-- A raise sets its cause's flag; a flag that is set stays set (R173). -/
def raiseCause (c : Cause) (s : State) : State := s.setRetr { s.retr with flags := s.retr.flags ||| c.mask }

/-- A raise under a condition. -/
def raiseIf (b : Bool) (c : Cause) (s : State) : State := if b then raiseCause c s else s

/-- Whether a cause's flag is set. -/
def flagSet (s : State) (c : Cause) : Bool := s.retr.flags.getLsbD c.bit

/-- The named flags cleared (R172); bits of the cause set above bit 8 name no cause. -/
def clearFlags (flags : BitVec 9) (causes : BitVec 16) : BitVec 9 := flags &&& ~~~(causes.setWidth 9)

/-- The FSTOP line: the FSTOP state while output is permitted, released otherwise (R48). -/
def fstopLine (s : State) : Bool := s.supply.output && s.line.fstop

/-- The ATTN line: asserted while output is permitted and an enabled flag is set (R174). -/
def attnLine (s : State) : Bool := s.supply.output && ((s.retr.flags &&& s.cfg.enable) != 0)

end Sys2Proof.Machine
end

