-- ==== Sys2Proof/Machine/Formats.lean ====
section
/-! DEFINITION. The byte layouts of chapter 7.7: record bodies, record header, archive page, telegram payloads and
frames, and the length check of received telegrams. -/

namespace Sys2Proof.Machine

/-! ## Records as their closings form them -/

/-- A slot entry of a HALF_HOUR record (R70). -/
structure HalfHourEntry where
  slot : Nat
  status : PeriodStatus
  cause : Option MinuteStatus := none
  validMinutes : Nat
  raw : Option Int := none
  validated : Option Nat := none
  mass : Option Nat := none
  rate : Option Nat := none
  aExceeded : Bool := false
  bExceeded : Bool := false
  saturated : Bool := false
  massSubst : Bool := false
  massNone : Bool := false
deriving DecidableEq, Repr

/-- A HALF_HOUR record (R58 to R60, R70). -/
structure HalfHour where
  start : Nat
  counts : MinuteCounts
  disturbed : Nat
  runAtClose : Nat
  h2oSubst : Nat
  o2Clamped : Nat
  o2Avg : Option Nat
  h2oAvg : Option Nat
  fstop : Bool
  entries : List HalfHourEntry
deriving DecidableEq, Repr

/-- A day entry of a DAY record (R79). -/
structure DayEntry where
  slot : Nat
  status : PeriodStatus
  average : Option Nat := none
  valid : Nat
  invalid : Nat
  aExceed : Nat
  exceeded : Bool := false
deriving DecidableEq, Repr

/-- A DAY record (R79). -/
structure DayRecord where
  start : Nat
  operating : Nat
  counters : Counters
  entries : List DayEntry
deriving DecidableEq, Repr

/-- A YEAR_GENERAL record (R90). -/
structure YearGeneral where
  start : Nat
  year : Nat
  minutes : MinuteCounts
  disturbance : Nat
  longest : Nat
  fstops : Nat
  coldFiring : Nat
  totals : Counters
  secured : Nat
deriving DecidableEq, Repr

/-- A YEAR_SLOT record (R91). -/
structure YearSlot where
  start : Nat
  row : YearRow
  permille : Option Nat
  bBreach : Bool
  availabilityBreach : Bool
  mass : Option Nat
deriving DecidableEq, Repr

/-! ## Codes -/

def PeriodStatus.code : PeriodStatus → Nat
  | .valid => 1
  | .invalid => 2
  | .notOperating => 3

/-- The status of a code; the part writes no code 0 (log entry 21). -/
def periodStatusOf (n : Nat) : PeriodStatus := if n = 1 then .valid else if n = 2 then .invalid else .notOperating

/-- The cause codes of a HALF_HOUR slot entry (7.7.4); VALID is no cause. -/
def causeCode : Option MinuteStatus → Nat
  | none => 0
  | some .valid => 0
  | some .calib => 1
  | some .maint => 2
  | some .reference => 3
  | some .fault => 4
  | some .missing => 5
  | some .timegap => 6
  | some .hold => 7
  | some .powerLoss => 8

def causeOf (n : Nat) : Option MinuteStatus :=
  match n with
  | 1 => some .calib
  | 2 => some .maint
  | 3 => some .reference
  | 4 => some .fault
  | 5 => some .missing
  | 6 => some .timegap
  | 7 => some .hold
  | 8 => some .powerLoss
  | _ => none

/-- The minute status codes of a current minute entry (7.7.3); no closed minute is 0. -/
def MinuteStatus.code : MinuteStatus → Nat
  | .valid => 1
  | .calib => 2
  | .maint => 3
  | .reference => 4
  | .fault => 5
  | .missing => 6
  | .timegap => 7
  | .hold => 8
  | .powerLoss => 9

def OpState.code : OpState → Nat
  | .off => 1
  | .standby => 2
  | .firing => 3
  | .coldFiring => 4
  | .unknown => 5
  | .noRecord => 6

def Station.code : Station → Nat
  | .unconfigured => 0
  | .commission => 1
  | .scan => 2
  | .timeUnset => 3
  | .catchUp => 4
  | .recording => 5
  | .hold => 6

def TimeState.code : TimeState → Nat
  | .unset => 0
  | .running => 1
  | .frozen => 2

def ArchiveState.code : ArchiveState → Nat
  | .ready => 0
  | .ringFull => 1
  | .fault => 2

def RecordKind.code : RecordKind → Nat
  | .halfHour => 1
  | .day => 2
  | .yearGeneral => 3
  | .yearSlot => 4

def recordKindOf (n : Nat) : Option RecordKind :=
  match n with
  | 1 => some .halfHour
  | 2 => some .day
  | 3 => some .yearGeneral
  | 4 => some .yearSlot
  | _ => none

def RefuseReason.code : RefuseReason → Nat
  | .origin => 1
  | .state => 2

def ConfigResult.code : ConfigResult → Nat
  | .ok => 0
  | .checkFailed => 1
  | .flashFailed => 2
  | .range => 3

/-- The class codes of R120 for the classes the part sends. -/
def TxQueue.classCode : TxQueue → Nat
  | .time => 0
  | .record => 2
  | .mark => 3
  | .gap => 4
  | .answer => 6
  | .presence => 7

/-! ## Record bodies (7.7.4) -/

/-- The 20 bytes of a HALF_HOUR slot entry. -/
def halfHourEntryBytes (e : HalfHourEntry) : List Byte :=
  beBytes 1 (e.slot % 16 + 16 * e.status.code + 64 * e.mass.isSome.toNat + 128 * e.rate.isSome.toNat)
  ++ beBytes 1 (causeCode e.cause + 16 * e.aExceeded.toNat + 32 * e.bExceeded.toNat + 64 * e.saturated.toNat
      + 128 * e.massSubst.toNat)
  ++ beBytes 1 (e.validMinutes % 32 + 32 * e.massNone.toNat)
  ++ be3Signed (e.raw.getD 0) ++ beBytes 3 (e.validated.getD 0) ++ beBytes 5 (e.mass.getD 0)
  ++ beBytes 6 (e.rate.getD 0)

def halfHourBody (h : HalfHour) : List Byte :=
  h.counts.toList.flatMap (beBytes 1)
  ++ beBytes 1 h.disturbed ++ beBytes 3 h.runAtClose ++ beBytes 1 h.h2oSubst ++ beBytes 1 h.o2Clamped
  ++ beBytes 2 (h.o2Avg.getD 0) ++ beBytes 2 (h.h2oAvg.getD 0)
  ++ beBytes 1 (flagByte [h.o2Avg.isSome, h.h2oAvg.isSome, h.fstop])
  ++ beBytes 1 h.entries.length ++ h.entries.flatMap halfHourEntryBytes

/-- A slot entry read back: the raw average and the validated value are present when VALID, the masses by their bits
(R70, 7.7.4). -/
def halfHourEntryOf (b : List Byte) : HalfHourEntry :=
  let b0 := field b 0 1
  let b1 := field b 1 1
  let b2 := field b 2 1
  let status := periodStatusOf (b0 / 16 % 4)
  { slot := b0 % 16
    status := status
    cause := if status = .invalid then causeOf (b1 % 16) else none
    validMinutes := b2 % 32
    raw := if status = .valid then some (signed24 (field b 3 3)) else none
    validated := if status = .valid then some (field b 6 3) else none
    mass := if bitOf b0 6 then some (field b 9 5) else none
    rate := if bitOf b0 7 then some (field b 14 6) else none
    aExceeded := bitOf b1 4
    bExceeded := bitOf b1 5
    saturated := bitOf b1 6
    massSubst := bitOf b1 7
    massNone := bitOf b2 5 }

/-- The entries of `size` bytes each that follow one another. -/
def chunks (size : Nat) : Nat → List Byte → List (List Byte)
  | 0, _ => []
  | n + 1, b => b.take size :: chunks size n (b.drop size)

/-- A HALF_HOUR body read back (used by the rebuild, R94 to R97). -/
def halfHourOf (start : Nat) (b : List Byte) : HalfHour :=
  { start := start
    counts :=
      { off := field b 0 1, standby := field b 1 1, firing := field b 2 1, coldFiring := field b 3 1
        unknown := field b 4 1, noRecord := field b 5 1 }
    disturbed := field b 6 1
    runAtClose := field b 7 3
    h2oSubst := field b 10 1
    o2Clamped := field b 11 1
    o2Avg := if bitOf (field b 16 1) 0 then some (field b 12 2) else none
    h2oAvg := if bitOf (field b 16 1) 1 then some (field b 14 2) else none
    fstop := bitOf (field b 16 1) 2
    entries := (chunks 20 (field b 17 1) (b.drop 18)).map halfHourEntryOf }

/-- The 7 bytes of a day entry. -/
def dayEntryBytes (e : DayEntry) : List Byte :=
  beBytes 1 (e.slot % 16 + 16 * e.status.code + 64 * e.exceeded.toNat)
  ++ beBytes 3 (e.average.getD 0) ++ beBytes 1 e.valid ++ beBytes 1 e.invalid ++ beBytes 1 e.aExceed

def dayBody (d : DayRecord) : List Byte :=
  beBytes 1 d.operating ++ d.counters.toList.flatMap (beBytes 4) ++ beBytes 1 d.entries.length
  ++ d.entries.flatMap dayEntryBytes

def dayEntryOf (b : List Byte) : DayEntry :=
  let b0 := field b 0 1
  let status := periodStatusOf (b0 / 16 % 4)
  { slot := b0 % 16
    status := status
    average := if status = .valid then some (field b 1 3) else none
    valid := field b 4 1
    invalid := field b 5 1
    aExceed := field b 6 1
    exceeded := bitOf b0 6 }

/-- A DAY body read back. -/
def dayOf (start : Nat) (b : List Byte) : DayRecord :=
  { start := start
    operating := field b 0 1
    counters := countersOf ((chunks 4 9 (b.drop 1)).map ofBytes)
    entries := (chunks 7 (field b 37 1) (b.drop 38)).map dayEntryOf }

def yearGeneralBody (y : YearGeneral) : List Byte :=
  beBytes 2 y.year ++ y.minutes.toList.flatMap (beBytes 4)
  ++ [y.disturbance, y.longest, y.fstops, y.coldFiring].flatMap (beBytes 4)
  ++ y.totals.toList.flatMap (beBytes 4) ++ beBytes 4 y.secured

def yearSlotBody (y : YearSlot) : List Byte :=
  beBytes 1 y.row.slot
  ++ [y.row.validDays, y.row.invalidDays, y.row.idleDays, y.row.validHalfHours, y.row.invalidHalfHours,
      y.row.aExceed, y.row.bCompliant, y.row.dayExceed, y.row.massSubst, y.permille.getD 0].flatMap (beBytes 2)
  ++ beBytes 1 (flagByte [y.permille.isSome, y.bBreach, y.availabilityBreach, y.mass.isSome])
  ++ beBytes 4 (y.mass.getD 0)

/-- Whether a body has the length of its kind, with n taken from the body's own count and lying from 1 to 10 (R131,
R132). -/
def bodyLengthOk (k : RecordKind) (body : List Byte) : Bool :=
  match k with
  | .halfHour =>
    let n := field body 17 1
    decide (1 ≤ n) && decide (n ≤ 10) && body.length == 18 + 20 * n
  | .day =>
    let n := field body 37 1
    decide (1 ≤ n) && decide (n ≤ 10) && body.length == 38 + 7 * n
  | .yearGeneral => body.length == 82
  | .yearSlot => body.length == 26

/-- The 10 bytes of the record header (7.7.4). -/
def recordHeader (r : Rec) : List Byte :=
  beBytes 1 r.kind.code ++ beBytes 1 r.origin ++ beBytes 4 r.seq ++ beBytes 4 r.start

/-! ## The archive page (R132) -/

def pageMarker : List Byte := [0xA5#8, 0x3C#8]

/-- The bytes of a page from its marker to its check. -/
def pageContents (r : Rec) : List Byte :=
  let covered := pageMarker ++ recordHeader r ++ beBytes 1 r.body.length ++ r.body
  covered ++ beBytes 2 (crc16 covered).toNat

/-- The 256 bytes of a page; the rest of the page is left erased. -/
def pageBytesOf (r : Rec) : List Byte :=
  pageContents r ++ List.replicate (Config.pageBytes - (pageContents r).length) erasedByte

/-- What a page read back is (R132). -/
inductive PageKind where
  | erased
  | record (r : Rec)
  | defective
deriving DecidableEq, Repr

/-- The record of a page whose marker, kind, body length and check are right. -/
def pageRecord (b : List Byte) : Option Rec :=
  match recordKindOf (field b 2 1) with
  | none => none
  | some k =>
    let len := field b 12 1
    let body := slice b 13 len
    if b.take 2 = pageMarker ∧ len ≤ 224 ∧ bodyLengthOk k body = true
        ∧ field b (13 + len) 2 = (crc16 (b.take (13 + len))).toNat then
      some { kind := k, origin := field b 3 1, seq := field b 4 4, start := field b 8 4, body := body }
    else none

def classifyPage (b : List Byte) : PageKind :=
  if b.all (· == erasedByte) then .erased
  else match pageRecord b with
    | some r => .record r
    | none => .defective

/-! ## Telegrams (7.7.2, 7.7.3) -/

def timePayload (ticks : Nat) (reference : Bool) : List Byte :=
  beBytes 4 (secondsOf ticks) ++ beBytes 2 (ticks % Config.ticksPerSecond) ++ beBytes 1 reference.toNat

def recordPayload (t : RecordTel) : List Byte :=
  recordHeader t.record ++ beBytes 1 t.backfill.toNat ++ beBytes 1 t.record.body.length ++ t.record.body

def markPayload (l : List MarkOut) : List Byte :=
  beBytes 1 l.length ++ l.flatMap (fun m => beBytes 1 m.origin ++ beBytes 4 m.held ++ beBytes 4 m.oldest)

def gapPayload (g : GapTel) : List Byte := beBytes 1 g.target ++ beBytes 4 g.first ++ beBytes 1 g.count

def presencePayload (p : PresenceTel) : List Byte :=
  beBytes 1 1 ++ beBytes 1 p.line ++ beBytes 1 p.station.code ++ beBytes 4 p.latest ++ beBytes 4 p.floor
  ++ beBytes 4 p.secured ++ beBytes 1 p.timeState.code ++ beBytes 2 p.flags.toNat

def answerPayload (t : AnswerTel) : List Byte :=
  let head (code : Nat) : List Byte := beBytes 1 t.terminal ++ [t.tag] ++ beBytes 1 code
  match t.answer with
  | .record r => head 1 ++ recordHeader r ++ beBytes 1 r.body.length ++ r.body
  | .notHeld o q => head 2 ++ beBytes 1 o ++ beBytes 4 q
  | .done n => head 3 ++ beBytes 2 n
  | .busy => head 4
  | .refused r => head 5 ++ beBytes 1 r.code
  | .condition b => head 6 ++ b
  | .cleared f => head 7 ++ beBytes 2 f.toNat
  | .configResult r off => head 8 ++ beBytes 1 r.code ++ beBytes 2 off

/-- The bytes of a telegram from its key to its check: key, length, payload, CRC-16 high byte first (R119, R120). -/
def frameBytes (cls own : Nat) (payload : List Byte) : List Byte :=
  let covered := beBytes 1 (32 * cls + own) ++ beBytes 1 payload.length ++ payload
  covered ++ beBytes 2 (crc16 covered).toNat

/-- Whether a payload has a length its class permits (R131). -/
def permittedLength (cls : Nat) (p : List Byte) : Bool :=
  match cls with
  | 0 => p.length == 7
  | 1 => p.length == 5
  | 2 =>
    match recordKindOf (field p 0 1) with
    | none => false
    | some k => decide (12 ≤ p.length) && p.length == 12 + field p 11 1 && bodyLengthOk k (p.drop 12)
  | 3 => decide (field p 0 1 ≤ 3) && p.length == 1 + 9 * field p 0 1
  | 4 => p.length == 6
  | 5 =>
    match field p 2 1 with
    | 1 => p.length == 3 + 7
    | 2 => p.length == 3 + 2
    | 3 => p.length == 3
    | 4 => p.length == 3 + 2
    | 5 => decide (1 ≤ field p 5 1) && decide (field p 5 1 ≤ 200) && p.length == 6 + field p 5 1
    | 6 => p.length == 3 + 4
    | _ => false
  | 6 => decide (p.length ≤ 240)
  | 7 => p.length == 18
  | _ => false

/-- Whether a telegram seen on the line is discarded as a receive error: its end mark is missing, its length is not
the length byte's, over 240 or not permitted, or its check does not match (R127). -/
def frameIsError (frame : List Byte) (endMark : Bool) : Bool :=
  let len := field frame 1 1
  let payload := slice frame 2 len
  let good := endMark && decide (len ≤ 240) && frame.length == len + 4
    && field frame (2 + len) 2 == (crc16 (frame.take (2 + len))).toNat
    && permittedLength (field frame 0 1 / 32) payload
  !good

end Sys2Proof.Machine
end

