-- ==== Sys2Proof/Machine/Archive.lean ====
section
/-! DEFINITION. The archive flash: areas, pages, sector directories, reads, write positions, erase-ahead, the retention
test, the outbound record queue's append, and the start of the next operation (chapter 9). -/

namespace Sys2Proof.Machine

/-! ## Areas and pages (R151) -/

def Area.base : Area → Nat
  | .own => Config.ownBase
  | .part i => Config.partBase + Config.partSectors * i

def Area.sectors : Area → Nat
  | .own => Config.ownSectors
  | .part _ => Config.partSectors

def Area.pages (a : Area) : Nat := 16 * a.sectors

/-- The flash address of a page of an area. -/
def pageAddress (a : Area) (page : Nat) : Nat := Config.sectorBytes * a.base + Config.pageBytes * page

/-- The flash address of a sector of an area. -/
def sectorAddress (a : Area) (sector : Nat) : Nat := Config.sectorBytes * (a.base + sector)

/-- The page after a page in ring order. -/
def nextPage (a : Area) (page : Nat) : Nat := (page + 1) % a.pages

/-- The ring of an area. -/
def ringOf (s : State) : Area → Ring
  | .own => s.arch.own
  | .part i => s.arch.parts.getD i {}

def setRing (a : Area) (r : Ring) (s : State) : State :=
  match a with
  | .own => s.setArch { s.arch with own := r }
  | .part i => s.setArch { s.arch with parts := s.arch.parts.set i r }

def setFlash (m : Memory) (s : State) : State := s.setArch { s.arch with flash := m }

def setOp (o : FlashOp) (s : State) : State := s.setArch { s.arch with op := o }

/-- The witnessed origin of a partition. -/
def originAt (s : State) (place : Nat) : Option Origin := s.wit.origins.find? (fun o => o.place == place)

/-- The witnessed origin of a station. -/
def originOf (s : State) (station : Nat) : Option Origin := s.wit.origins.find? (fun o => o.station == station)

/-- Replace the state of the origin of a partition. -/
def setOrigin (o : Origin) (s : State) : State :=
  s.setWit { s.wit with origins := s.wit.origins.map (fun x => if x.place = o.place then o else x) }

/-- A page of an area as its readers take it: in a witness partition a record page of another origin counts as
defective (R135, R154). -/
def pageKindIn (owner : Option Nat) (bytes : List Byte) : PageKind :=
  match classifyPage bytes, owner with
  | .record r, some o => if r.origin = o then .record r else .defective
  | k, _ => k

/-- The origin whose record pages an area holds; any header origin in the own ring (7.7.5). -/
def areaOwner (s : State) : Area → Option Nat
  | .own => none
  | .part i => (originAt s i).map (·.station)

def readPage (s : State) (a : Area) (page : Nat) : PageKind :=
  pageKindIn (areaOwner s a) (s.arch.flash.bytes (pageAddress a page) Config.pageBytes)

/-! ## Sector directories (R154) -/

def dirEntry (r : Ring) (sector : Nat) : DirEntry :=
  match r.dir.find? (fun p => p.1 == sector) with
  | some p => p.2
  | none => {}

/-- Insert into a list kept by rising sector. -/
def insertDir (sector : Nat) (e : DirEntry) : List (Nat × DirEntry) → List (Nat × DirEntry)
  | [] => [(sector, e)]
  | p :: r => if sector ≤ p.1 then (sector, e) :: p :: r else p :: insertDir sector e r

/-- The directory with one entry replaced; an ERASED entry is not listed. -/
def setDir (r : Ring) (sector : Nat) (e : DirEntry) : Ring :=
  let rest := r.dir.filter (fun p => p.1 != sector)
  { r with dir := if e.state = .erased then rest else insertDir sector e rest }

/-- The records of some pages, in page order. -/
def pageRecords (pages : List PageKind) : List Rec :=
  pages.filterMap (fun k => match k with | .record r => some r | _ => none)

/-- The highest sequence number of the record pages among some pages. -/
def highestSeq (pages : List PageKind) : Option Nat := maxList ((pageRecords pages).map (·.seq))

/-- The directory entry that sixteen pages give (R154; log entry 46). -/
def scanSector (pages : List PageKind) : DirEntry :=
  let recs := pageRecords pages
  { state :=
      if pages.all (· == .erased) then .erased
      else if pages.getLastD .erased = .erased then .filling else .full
    firstSeq := recs.head?.map (·.seq)
    firstYear := recs.head?.map (fun r => yearOf r.start)
    lastYear := recs.getLast?.map (fun r => yearOf r.start)
    defective := pages.countP (· == .defective)
    records := recs.length
    highSeq := highestSeq pages }

/-- The sixteen pages of a sector. -/
def sectorPages (s : State) (a : Area) (sector : Nat) : List PageKind :=
  (List.range 16).map (fun i => readPage s a (16 * sector + i))

/-- The directory entry after a program of a page (R154; log entry 46). -/
def dirAfterProgram (e : DirEntry) (page : Nat) (good : Bool) (seq year : Nat) : DirEntry :=
  let state : SectorState := if page % 16 = 15 then .full else .filling
  if good then
    { e with
      state := state, firstSeq := some (e.firstSeq.getD seq), firstYear := some (e.firstYear.getD year)
      lastYear := some year, records := e.records + 1, highSeq := some (max (e.highSeq.getD 0) seq) }
  else { e with state := state, defective := e.defective + 1 }

/-- The sectors that hold a record page, in ring order from the oldest: the order begins at the sector after the one
that holds the write position and ends with that sector (R151, R155). -/
def recordSectors (r : Ring) : List (Nat × DirEntry) :=
  let w := r.writePos / 16
  let held := r.dir.filter (fun p => p.2.firstSeq.isSome)
  held.filter (fun p => w < p.1) ++ held.filter (fun p => p.1 ≤ w)

/-! ## Reads (R155) -/

/-- The held range of an area: its lowest sequence, absent when the range is empty, and its highest. -/
def heldRange (s : State) : Area → Option Nat × Nat
  | .own => ((recordSectors s.arch.own).head?.bind (·.2.firstSeq), s.arch.latest)
  | .part i =>
    match originAt s i with
    | some o => (o.oldest, o.held)
    | none => (none, 0)

/-- The last sector, in ring order from the oldest, whose first sequence is at or below the sequence sought. -/
def sectorFor (r : Ring) (seq : Nat) : Option (Nat × DirEntry) :=
  ((recordSectors r).filter (fun p => decide (p.2.firstSeq.getD 0 ≤ seq))).getLast?

/-- The record of a page, when it bears the sequence. -/
def recordWith (k : PageKind) (seq : Nat) : Option Rec :=
  match k with
  | .record r => if r.seq = seq then some r else none
  | _ => none

/-- A read by sequence number: the record, or none for not held (R155). -/
def readRecord (s : State) (a : Area) (seq : Nat) : Option Rec :=
  match heldRange s a with
  | (none, _) => none
  | (some bottom, top) =>
    if seq < bottom ∨ top < seq then none
    else match sectorFor (ringOf s a) seq with
      | none => none
      | some (sector, e) =>
        if e.defective = 0 then
          let off := seq - e.firstSeq.getD 0
          if off < 16 then recordWith (readPage s a (16 * sector + off)) seq else none
        else (sectorPages s a sector).findSome? (fun k => recordWith k seq)

/-! ## Erase-ahead and retention (R161, R162) -/

/-- The erase target of an area, when it needs an erase-ahead (R161). -/
def eraseNeed (a : Area) (r : Ring) : Option Nat :=
  if r.writePos % 16 = 0 then
    let t := r.writePos / 16
    let u := (t + 1) % a.sectors
    if (dirEntry r t).state ≠ .erased then some t
    else if (dirEntry r u).state ≠ .erased then some u
    else none
  else none

/-- Whether a sector holds a retained year: the later of its first and last year is the year open or one of the N
years before it (R162). -/
def holdsRetained (s : State) (e : DirEntry) : Bool :=
  match s.year.openYear, e.firstYear, e.lastYear with
  | some y, some f, some l => decide (max f l ≤ y) && decide (y ≤ max f l + s.cfg.retention)
  | _, _, _ => false

/-- Whether the own ring needs an erase that the retention forbids. -/
def ownEraseForbidden (s : State) : Bool :=
  match eraseNeed .own s.arch.own with
  | some t => holdsRetained s (dirEntry s.arch.own t)
  | none => false

/-- The retention test: READY becomes RING_FULL, raising ARCHIVE, when the own erase target holds a retained year,
and RING_FULL becomes READY when it no longer does (R162). FAULT is not left. -/
def retentionTest (s : State) : State :=
  match s.arch.state, ownEraseForbidden s with
  | .ready, true => raiseCause .archive (s.setArch { s.arch with state := .ringFull })
  | .ringFull, false => s.setArch { s.arch with state := .ready }
  | _, _ => s

/-- Entering FAULT raises ARCHIVE; FAULT is left at the next cold start (R164). -/
def enterFault (s : State) : State :=
  if s.arch.state = .fault then s else raiseCause .archive (s.setArch { s.arch with state := .fault })

/-! ## The outbound record queue (R156, R157) -/

/-- Change the first entry that meets a test. -/
def modifyFirst {α : Type} (p : α → Bool) (f : α → α) : List α → List α
  | [] => []
  | x :: r => if p x then f x :: r else x :: modifyFirst p f r

/-- Remove the first entry that meets a test. -/
def removeFirst {α : Type} (p : α → Bool) : List α → List α
  | [] => []
  | x :: r => if p x then r else x :: removeFirst p r

/-- The record of an outbound entry, with its sequence number in the header (R157). -/
def OutEntry.toRec (own : Nat) (e : OutEntry) : Rec :=
  { kind := e.kind, origin := own, seq := e.seq.getD 0, start := e.start, body := e.body }

/-- The sequence number of the own record whose first publication is on the line, when one is. -/
def seqOnLine (s : State) : Option Nat :=
  match s.port.onLine, s.port.recordQ with
  | some l, t :: _ => if l.queue = .record ∧ t.backfill = false then some t.record.seq else none
  | _, _ => none

/-- Whether the full-queue rule may remove this WAITING_PUBLISH entry: its telegram is not on the line (R156). -/
def removablePublish (s : State) (e : OutEntry) : Bool :=
  e.state == .waitingPublish && !(e.placed && e.seq == seqOnLine s && e.seq.isSome)

/-- Whether a release has an entry to place (R160). -/
def unplaced (e : OutEntry) : Bool := e.state == .waitingPublish && !e.placed

/-- The release waits while an archived entry is unplaced; it takes a new place in the order of waiting when it
begins to wait (R160, R122). -/
def renewRelease (s : State) : State :=
  if s.arch.outbound.any unplaced then
    match s.arch.releaseTicket with
    | some _ => s
    | none => nextTicket (s.setArch { s.arch with releaseTicket := some s.port.ticket })
  else s.setArch { s.arch with releaseTicket := none }

/-- Make room in a full outbound record queue (R156): the oldest WAITING_PUBLISH entry whose telegram is not on the
line goes, its telegram withdrawn; with no such entry, the oldest WAITING_ARCHIVE entry goes as unarchived. -/
def makeRoom (s : State) : State :=
  match s.arch.outbound.find? (removablePublish s) with
  | some e =>
    let s1 := s.setArch { s.arch with outbound := removeFirst (removablePublish s) s.arch.outbound }
    let s2 := if e.placed then
        s1.setPort { s1.port with
          recordQ := removeFirst (fun t => !t.backfill && t.record.seq == e.seq.getD 0) s1.port.recordQ }
      else s1
    renewRelease (countUp .unpublished 1 s2)
  | none =>
    match s.arch.outbound.find? (fun e => e.state == .waitingArchive) with
    | some e =>
      let s1 := s.setArch { s.arch with
        outbound := removeFirst (fun x => x.state == .waitingArchive) s.arch.outbound
        lastAssigned := if e.seq.isSome then s.arch.lastAssigned - 1 else s.arch.lastAssigned }
      raiseCause .archive (countUp .unarchived 1 s1)
    | none => s

/-- Append a record to the tail of the outbound record queue, making room first when it holds 16 entries (R156). -/
def appendRecord (kind : RecordKind) (start : Nat) (body : List Byte) (s : State) : State :=
  let s1 := if Config.outboundMax ≤ s.arch.outbound.length then makeRoom s else s
  s1.setArch { s1.arch with outbound := s1.arch.outbound ++ [{ kind := kind, start := start, body := body }] }

/-! ## Starting the next operation (R153, R157) -/

/-- Start the program of the oldest WAITING_ARCHIVE entry, assigning its sequence when it holds none (R157). -/
def startOwnProgram (s : State) : State :=
  match s.arch.outbound.find? (fun e => e.state == .waitingArchive) with
  | none => s
  | some e =>
    let seq := e.seq.getD (s.arch.lastAssigned + 1)
    s.setArch { s.arch with
      op := .programming .own
      lastAssigned := if e.seq.isSome then s.arch.lastAssigned else seq
      outbound := modifyFirst (fun x => x.state == .waitingArchive)
        (fun x => { x with state := .programming, seq := some seq }) s.arch.outbound }

/-- The witness work of one partition, when there is any: its erase-ahead, otherwise the program of its origin's head
staged record (R153). -/
def partWork (s : State) (place : Nat) : Option FlashOp :=
  match originAt s place with
  | none => none
  | some o =>
    match eraseNeed (.part place) (ringOf s (.part place)) with
    | some t => some (.erasing (.part place) t)
    | none => if o.staged.isEmpty then none else some (.programming (.part place))

/-- Witness work, round-robin from the partition after the one served last (R153). A partition counts as served when
its operation starts (DESIGN CHOICE: log entry 43). -/
def startWitnessWork (s : State) : State :=
  let order := [(s.arch.roundRobin + 1) % 3, (s.arch.roundRobin + 2) % 3, (s.arch.roundRobin + 3) % 3]
  match order.findSome? (fun p => (partWork s p).map (fun o => (p, o))) with
  | some (p, o) => s.setArch { s.arch with op := o, roundRobin := p }
  | none => s

/-- Start at most one operation: the own erase-ahead, the own program, witness work, in that order (R153). -/
def startByOrder (s : State) : State :=
  if s.arch.state = .fault then s
  else match eraseNeed .own s.arch.own, decide (s.arch.state = .ready) with
    | some t, true => if ownEraseForbidden s then startWitnessWork s else setOp (.erasing .own t) s
    | none, true =>
      if s.arch.outbound.any (fun e => e.state == .waitingArchive) then startOwnProgram s else startWitnessWork s
    | _, false => startWitnessWork s

/-- Whether an abandoned erase may be made again: its target still needs it, and the archive state and the retention allow
it (R161, R162, R164). -/
def eraseMayStart (s : State) (a : Area) (sector : Nat) : Bool :=
  s.arch.state != .fault && eraseNeed a (ringOf s a) == some sector
    && match a with
      | .own => s.arch.state == .ready && !ownEraseForbidden s
      | .part p => (originAt s p).isSome

/-- Start the erase of a sector; a partition is then the one served last (R153). -/
def startErase (a : Area) (sector : Nat) (s : State) : State :=
  s.setArch { s.arch with
    op := .erasing a sector
    roundRobin := match a with
      | .own => s.arch.roundRobin
      | .part p => p }

/-- Start at most one operation at a flash-idle event: the first one after a warm return reissues the abandoned erase
(R165, R178), which goes before the order of R153 (DEDUCED: log entry 42); every other one follows that order. -/
def startOperation (s : State) : State :=
  match s.arch.abandoned with
  | none => startByOrder s
  | some (a, sector) =>
    let s1 := s.setArch { s.arch with abandoned := none }
    if eraseMayStart s1 a sector then startErase a sector s1 else startByOrder s1

/-! ## What an operation leaves on the flash (R152) -/

/-- The bytes of a failed program: marker bytes 0, the rest a free value (R152; log entry 8). -/
def voidBytes (draw : Nat) : List Byte :=
  [0#8, 0#8] ++ (List.range 254).map (fun i => Config.failedProgramByte draw (i + 2))

/-- The flash after a page program that ends good with these bytes, or that fails (R152). -/
def programPage (address : Nat) (bytes : List Byte) (good : Bool) (s : State) : State :=
  if good then setFlash (s.arch.flash.program address bytes) s
  else (setFlash (s.arch.flash.program address (voidBytes s.draws)) s).setDraws (s.draws + 1)

/-- One page of a sector whose erase did not end good: bits may have gone to 1; what is left is erased, the page as it
was, or a page that reads defective (R165; log entry 9). -/
def brokenPage (old mixed : List Byte) : List Byte :=
  match classifyPage mixed with
  | .record _ => old
  | _ => mixed

/-- A sector after an erase that was abandoned (R163, R165; log entry 9). -/
def brokenSector (old : List Byte) (draw : Nat) : List Byte :=
  let mixed := old.zipIdx.map (fun p => p.1 ||| Config.brokenEraseByte draw p.2)
  (List.zipWith brokenPage (chunks Config.pageBytes 16 old) (chunks Config.pageBytes 16 mixed)).flatten

/-- A sector after an erase whose blank check failed: as an abandoned one, but not blank (R152; log entry 9). -/
def failedSector (old : List Byte) (draw : Nat) : List Byte :=
  let b := brokenSector old draw
  if b.all (· == erasedByte) then
    let bit := Config.stuckBit draw % 32768
    b.modify (bit / 8) (fun x => x &&& ~~~(1#8 <<< (bit % 8)))
  else b

/-- The flash with a sector's 4,096 bytes replaced. -/
def putSector (address : Nat) (bytes : List Byte) (s : State) : State :=
  setFlash ((s.arch.flash.erase address (address + Config.sectorBytes)).writeAll address bytes) s

def sectorBytesAt (s : State) (address : Nat) : List Byte := s.arch.flash.bytes address Config.sectorBytes

/-- A good erase: every byte of the sector reads FF (R152). -/
def eraseSector (address : Nat) (s : State) : State :=
  setFlash (s.arch.flash.erase address (address + Config.sectorBytes)) s

/-- An erase abandoned in flight (R163, R176). -/
def abandonErase (address : Nat) (s : State) : State :=
  (putSector address (brokenSector (sectorBytesAt s address) s.draws) s).setDraws (s.draws + 1)

/-- An erase that failed (R152, R163). -/
def failErase (address : Nat) (s : State) : State :=
  (putSector address (failedSector (sectorBytesAt s address) s.draws) s).setDraws (s.draws + 1)

end Sys2Proof.Machine
end

