-- ==== Sys2Proof/Machine/Jobs.lean ====
section
/-! DEFINITION. The work of backfill jobs and retrieval jobs on sequences, the forming of GAPs, floor jumps, and the
retrieval unit's lists (R136, R139, R141, R143, R166 to R170). -/

namespace Sys2Proof.Machine

/-! ## Requests -/

/-- A read request joins the tail of the archive request queue (R153). -/
def addRequest (r : Request) (s : State) : State := s.setArch { s.arch with requests := s.arch.requests ++ [r] }

/-! ## Backfill jobs (R143) -/

/-- Whether backfill jobs are worked: in CATCH_UP and RECORDING. -/
def backfillWorked (s : State) : Bool := s.supply.station == some .catchUp || s.supply.station == some .recording

/-- The head job asks for the read of its next sequence. -/
def startBackfill (s : State) : State :=
  match s.wit.jobs with
  | [] => s.setWit { s.wit with work := .idle }
  | j :: _ => addRequest ⟨.backfill, .own, j.next⟩ (s.setWit { s.wit with work := .reading })

/-- The head job's sequence is placed or skipped: it goes on to the next one, or leaves the queue after its last. -/
def advanceBackfill (s : State) : State :=
  match s.wit.jobs with
  | [] => s
  | j :: r =>
    let jobs := if j.next < j.last then { j with next := j.next + 1 } :: r else r
    startBackfill (s.setWit { s.wit with jobs := jobs })

/-- The answer of the archive controller to the head job's read. -/
def backfillResult (res : Option Rec) (s : State) : State :=
  match res with
  | some r =>
    nextTicket (s.setWit { s.wit with work := .ready { r with origin := s.cfg.own } s.port.ticket })
  | none => advanceBackfill s

/-! ## Retrieval jobs (R168 to R170) -/

/-- The area that holds an origin's records. -/
def areaOf (s : State) (origin : Nat) : Option Area :=
  if origin = s.cfg.own then some .own else (originOf s origin).map (fun o => .part o.place)

/-- The held range of an origin's area (R168). -/
def rangeOf (s : State) (origin : Nat) : Option Nat × Nat :=
  match areaOf s origin with
  | some a => heldRange s a
  | none => (none, 0)

/-- What a job does with its next sequence. -/
inductive JobStep where
  | finish
  | wait
  | below
  | readIt (seq : Nat)
deriving DecidableEq, Repr

/-- The next sequence of a READ_YEAR job: it passes over what lies below the held range (R169). -/
def yearNext (j : Job) (bottom : Option Nat) (top : Nat) : Nat :=
  match bottom with
  | some b => max j.next b
  | none => max j.next (top + 1)

/-- How a job works its next sequence against the held range (R168, R169, R170). -/
def jobStep (j : Job) (bottom : Option Nat) (top : Nat) : JobStep :=
  match j.kind with
  | .readYear _ =>
    let n := yearNext j bottom top
    if (j.last.getD 0) < n ∨ top < n then .finish else .readIt n
  | .read =>
    if (j.last.getD 0) < j.next ∨ top < j.next then .finish
    else match bottom with
      | some b => if j.next < b then .below else .readIt j.next
      | none => .below
  | .follow =>
    if top < j.next then .wait
    else match bottom with
      | some b => if j.next < b then .below else .readIt j.next
      | none => .below

/-- Replace the job of a terminal. -/
def setJob (j : Job) (s : State) : State :=
  s.setRetr { s.retr with jobs := s.retr.jobs.map (fun x => if x.terminal = j.terminal then j else x) }

/-- The job of a terminal. -/
def jobOf (s : State) (terminal : Nat) : Option Job := s.retr.jobs.find? (fun j => j.terminal == terminal)

/-- A job has an answer and begins to wait for a place (R168, R122). -/
def jobReady (j : Job) (a : Answer) (skip : Bool) (s : State) : State :=
  nextTicket (setJob { j with work := .ready a skip s.port.ticket } s)

/-- A job works its next sequence. -/
def workJob (j : Job) (s : State) : State :=
  let (bottom, top) := rangeOf s j.origin
  match jobStep j bottom top with
  | .finish => jobReady j (.done j.sent) false s
  | .wait => setJob { j with work := .waiting } s
  | .below => jobReady j (.notHeld j.origin j.next) true s
  | .readIt n =>
    match areaOf s j.origin with
    | some a => addRequest ⟨.job j.terminal, a, n⟩ (setJob { j with next := n, work := .reading } s)
    | none => setJob { j with work := .waiting } s

/-- Whether a READ_YEAR job answers with this record: a year record of its year (R169). -/
def yearRecord (year : Nat) (r : Rec) : Bool :=
  (r.kind == .yearGeneral || r.kind == .yearSlot) && r.start == yearStart year

/-- A floor jump has emptied the held range of an origin under a read that waits: a jump alone makes oldest held absent
(R139). -/
def emptiedByJump (s : State) (origin : Nat) : Bool := origin != s.cfg.own && (rangeOf s origin).1.isNone

/-- The answer of the archive controller to a job's read (R168, R169). A read not held, of a defective page or of a sector
erased since, is answered NOT_HELD, and the next sequence is s + 1. One that waited while a floor jump emptied the range is
answered as a sequence of the empty range: NOT_HELD once, and the job moves on to the new held mark plus 1 (R168, R170;
DEDUCED: log entry 53). -/
def jobResult (terminal : Nat) (res : Option Rec) (s : State) : State :=
  match jobOf s terminal with
  | none => s
  | some j =>
    match j.kind, res with
    | .readYear y, some r =>
      if yearRecord y r then jobReady j (.record { r with origin := j.origin }) false s
      else workJob { j with next := j.next + 1 } s
    | .readYear _, none => workJob { j with next := j.next + 1 } s
    | _, some r => jobReady j (.record { r with origin := j.origin }) false s
    | _, none => jobReady j (.notHeld j.origin j.next) (emptiedByJump s j.origin) s

/-- A job leaves the list; a read it has in flight is still served and its result discarded (R167, R170). -/
def removeJob (terminal : Nat) (s : State) : State :=
  (s.setRetr { s.retr with jobs := s.retr.jobs.filter (fun j => j.terminal != terminal) }).setArch
    { s.arch with requests := s.arch.requests.map (fun q => if q.who = .job terminal then { q with who := .nobody } else q) }

/-- The answer of a job has been placed: it counts, and the job works its next sequence, or leaves after END (R168). -/
def afterPlaced (j : Job) (a : Answer) (skip : Bool) (s : State) : State :=
  match a with
  | .done _ => removeJob j.terminal s
  | .record _ => workJob { j with next := j.next + 1, sent := j.sent + 1 } s
  | _ =>
    let (bottom, top) := rangeOf s j.origin
    workJob { j with next := if skip then bottom.getD (top + 1) else j.next + 1 } s

/-- A report of a record archived or programmed: the waiting FOLLOW jobs of its origin work their next sequence again
(R170), one after the other in the order of the job list (DESIGN CHOICE: log entry 48). -/
def wakeFollows (origin : Nat) (s : State) : State :=
  (s.retr.jobs.filter (fun j => j.origin == origin && j.kind == .follow && j.work == .waiting)).foldl
    (fun t j => workJob j t) s

/-- An answer joins the pending answer list (R166). -/
def addAnswer (terminal : Nat) (tag : BitVec 8) (b : PendingBody) (s : State) : State :=
  nextTicket (s.setRetr { s.retr with answers := s.retr.answers ++ [⟨terminal, tag, b, s.port.ticket⟩] })

/-- The entries of the pending answer list, a commit in flight holding one for its result (R166, R183). -/
def answersHeld (s : State) : Nat := s.retr.answers.length + (if s.supply.commit = .idle then 0 else 1)

/-! ## Staging slots and GAPs (R136, R141) -/

/-- The number the witness expects next of an origin (R135). -/
def Origin.expected (o : Origin) : Nat := o.held + o.staged.length + 1

/-- Slots of the pool that an origin has borrowed from the shared pool, or holds of its own. -/
def Origin.using (o : Origin) (p : Pool) : Nat := o.staged.countP (fun x => x.pool == p)

/-- The staging pool occupancy (R136). -/
def stagingUsed (s : State) : Nat := (s.wit.origins.map (fun o => o.staged.length)).sum

/-- The free shared slots: 48 less the reservations of every origin, less the shared slots in use (R136). -/
def freeShared (s : State) : Nat :=
  Config.stagingMax - s.wit.origins.length * s.cfg.reserved - (s.wit.origins.map (fun o => o.using .shared)).sum

/-- The free reserved slots of an origin. -/
def freeReserved (s : State) (o : Origin) : Nat := s.cfg.reserved - o.using .reserved

/-- The slots available to an origin (R136). -/
def slotsAvailable (s : State) (o : Origin) : Nat := freeShared s + freeReserved s o

/-- Whether a GAP is to be formed for an origin (R141). -/
def gapWanted (s : State) (o : Origin) : Bool :=
  s.supply.station == some .recording && decide (o.expected ≤ o.known) && o.gap.isNone
    && decide (1 ≤ slotsAvailable s o)

/-- The tickets of the GAPs that wait for room. -/
def gapTickets (s : State) : List Nat :=
  s.wit.origins.filterMap (fun o => o.gap.bind (fun g => match g.phase with | .waiting t => some t | _ => none))

/-- Form the GAP of one origin, and place it, or let it wait for room when the GAP queue is full or others wait
(R141, R122). -/
def formGap (place : Nat) (s : State) : State :=
  match originAt s place with
  | none => s
  | some o =>
    if gapWanted s o then
      let count := min 16 (min (o.known - o.expected + 1) (slotsAvailable s o))
      if s.port.gapQ.length < 2 ∧ gapTickets s = [] then
        (setOrigin { o with gap := some ⟨o.expected, count, .queued⟩ } s).setPort
          { s.port with gapQ := s.port.gapQ ++ [⟨o.station, o.expected, count⟩] }
      else nextTicket (setOrigin { o with gap := some ⟨o.expected, count, .waiting s.port.ticket⟩ } s)
    else s

/-- The witness unit tests the GAP conditions of every origin (R141). GAPs formed in one act are placed, or begin to
wait, in partition order (DESIGN CHOICE: log entry 48). -/
def testGaps (s : State) : State := formGap 2 (formGap 1 (formGap 0 s))

/-- Whether a program of the origin's records is in flight (R139). -/
def programOf (s : State) (place : Nat) : Bool := s.arch.op == .programming (.part place)

/-- The floor jump of an origin, when it is due and no program of its records is in flight (R139). -/
def floorJump (place : Nat) (s : State) : State :=
  match originAt s place with
  | none => s
  | some o =>
    if o.expected < o.floor ∧ programOf s place = false then
      let s1 := countUp .skips (o.floor - 1 - o.held) s
      let s2 := setOrigin { o with held := o.floor - 1, oldest := none, staged := [], gap := none } s1
      wakeFollows o.station s2
    else s

/-- The report of a good program of a record of an origin, whose state now counts it as held (R138, R158): the FOLLOW jobs
that wait for the origin are woken. When a floor jump is due it is made first and wakes them itself, so that each answers
NOT_HELD once for the range that the jump empties (R139, R170; DEDUCED: log entry 52). -/
def reportHeld (o : Origin) (s : State) : State :=
  if o.expected < o.floor then floorJump o.place s else wakeFollows o.station s

/-! ## Witness lag (R149) -/

/-- Whether the lag test is made: ten minutes of elapsed time have passed since the end of SCAN. -/
def lagTestOn (s : State) : Bool :=
  match s.wit.lagHoldoff with
  | none => true
  | some t => decide (10 * Config.ticksPerMinute ≤ since s t)

/-- The witness lag test: a lag of 96 or more raises WITNESS_LAG (R149). -/
def lagTest (s : State) : State :=
  raiseIf (lagTestOn s && decide (0 < s.cfg.quorum) && decide (s.wit.secured + 96 ≤ s.arch.latest)) .witnessLag s

end Sys2Proof.Machine
end

