-- ==== Sys2Proof/Machine/Arbiter.lean ====
section
/-! DEFINITION. The act of a flash-idle event, and what the end of a program or an erase in a ring area does (R138,
R153, R158, R163). -/

namespace Sys2Proof.Machine

/-- Serve the oldest read request: its requester takes the record or the answer not held (R153, R155). -/
def serveOne (s : State) : State :=
  match s.arch.requests with
  | [] => s
  | q :: r =>
    let s1 := s.setArch { s.arch with requests := r }
    let res := readRecord s q.area q.seq
    match q.who with
    | .backfill => backfillResult res s1
    | .job t => jobResult t res s1
    | .nobody => s1

/-- Serve reads until none waits: a read that arrives while they are served is served in the same act (R153). -/
def serveReads : Nat → State → State
  | 0, s => s
  | n + 1, s => if s.arch.requests.isEmpty then s else serveReads n (serveOne s)

/-- A bound on the reads of one act: what waits now and every sequence the jobs may still ask for without an answer. -/
def readBound (s : State) : Nat :=
  s.arch.requests.length + (s.wit.jobs.map (fun j => j.last + 1 - j.next)).sum
    + (s.retr.jobs.map (fun j => j.last.getD 0 + 1 - j.next)).sum + 4

/-- Whether the arbiter starts operations in this station state (R153). -/
def operationsOn (s : State) : Bool :=
  s.supply.station == some .timeUnset || s.supply.station == some .catchUp || s.supply.station == some .recording

/-- The act of a flash-idle event (R153): while no operation is in flight and the part is neither in HOLD nor in
reset, the waiting reads are served, and then at most one operation starts. -/
def flashIdle (s : State) : State :=
  if s.arch.op ≠ .idle ∨ s.supply.station = none ∨ s.supply.station = some .hold then s
  else
    let s1 := serveReads (readBound s) s
    if operationsOn s1 then startOperation s1 else s1

/-! ## The end of a program -/

/-- A failed program: one defective page, and the failure run, which at 3 is a FAULT (R158, R159). -/
def programFailed (s : State) : State :=
  let s1 := countUp .defective 1 (s.setArch { s.arch with failureRun := s.arch.failureRun + 1 })
  if 3 ≤ s1.arch.failureRun then enterFault s1 else s1

/-- The ring of an area after a program of the page at its write position (R151, R154). -/
def ringAfterProgram (a : Area) (good : Bool) (r : Rec) (s : State) : State :=
  let g := ringOf s a
  let page := g.writePos
  let e := dirAfterProgram (dirEntry g (page / 16)) page good r.seq (yearOf r.start)
  setRing a { setDir g (page / 16) e with writePos := nextPage a page } s

/-- The witness unit hears of an own record archived: the year start sequence (R140) and the lag test (R149). -/
def ownArchived (r : Rec) (s : State) : State :=
  let s1 := if s.wit.yearStart = none ∧ s.year.openYear = some (yearOf r.start) then
      s.setWit { s.wit with yearStart := some r.seq }
    else s
  lagTest s1

/-- The end of the own program in flight (R158): good, the record is archived and waits to be published; failed, the
entry waits again with its sequence. -/
def ownProgramEnd (good : Bool) (s : State) : State :=
  match s.arch.outbound.find? (fun e => e.state == .programming) with
  | none => setOp .idle s
  | some e =>
    let r := e.toRec s.cfg.own
    let s1 := programPage (pageAddress .own s.arch.own.writePos) (pageBytesOf r) good s
    let s2 := setOp .idle (ringAfterProgram .own good r s1)
    let mark (x : OutState) : State :=
      s2.setArch { s2.arch with
        outbound := modifyFirst (fun y => y.state == .programming) (fun y => { y with state := x, placed := false })
          s2.arch.outbound }
    if good then
      let s3 := mark .waitingPublish
      let s4 := renewRelease (s3.setArch { s3.arch with latest := r.seq, failureRun := 0 })
      retentionTest (wakeFollows s.cfg.own (ownArchived r s4))
    else retentionTest (programFailed (mark .waitingArchive))

/-- The end of the program in flight in a witness partition (R138, R158): good, the head staged record is held, its slot
returns and the record is reported; failed, it stays at the head. The floor jump (R139) and the GAP conditions (R141) are
tested at either end. -/
def partProgramEnd (place : Nat) (good : Bool) (s : State) : State :=
  match originAt s place with
  | none => setOp .idle s
  | some o =>
    match o.staged with
    | [] => setOp .idle s
    | x :: rest =>
      let a := Area.part place
      let s1 := programPage (pageAddress a (ringOf s a).writePos) (pageBytesOf x.record) good s
      let s2 := setOp .idle (ringAfterProgram a good x.record s1)
      if good then
        let o1 := { o with held := x.record.seq, oldest := some (o.oldest.getD x.record.seq), staged := rest }
        let s3 := setOrigin o1 s2
        let s4 := s3.setArch { s3.arch with failureRun := 0 }
        testGaps (reportHeld o1 s4)
      else testGaps (floorJump place (programFailed s2))

/-- The end of the page program in flight, in any ring area. -/
def programEnd (good : Bool) (s : State) : State :=
  match s.arch.op with
  | .programming .own => ownProgramEnd good s
  | .programming (.part p) => partProgramEnd p good s
  | _ => s

/-! ## The end of an erase -/

/-- The highest sequence number that a sector held: of its record pages, and of those that an abandoned or a failed
erase of it has already taken (R138, R161). -/
def sectorHeld (r : Ring) (sector : Nat) (pages : List PageKind) : Option Nat :=
  match r.broken, highestSeq pages with
  | some (k, n), some h => if k = sector then some (max n h) else some h
  | some (k, n), none => if k = sector then some n else none
  | none, h => h

/-- The sector is about to lose pages without a good erase: what it held is noted (R138, R161; log entry 46). -/
def noteBroken (a : Area) (sector : Nat) (s : State) : State :=
  setRing a { ringOf s a with
    broken := (sectorHeld (ringOf s a) sector (sectorPages s a sector)).map (fun h => (sector, h)) } s

/-- A partition's erased sector raises oldest held to the sequence after the highest it held (R138). -/
def raiseOldest (place : Nat) (highest : Option Nat) (s : State) : State :=
  match originAt s place, highest with
  | some o, some h =>
    match o.oldest with
    | some b => setOrigin { o with oldest := some (max b (h + 1)) } s
    | none => s
  | _, _ => s

/-- The erase failure count belongs to the area's current erase target (R163). -/
def failsOf (r : Ring) (target : Nat) : Nat := if r.failTarget = target then r.eraseFails else 0

/-- The end of the erase in flight in a ring area (R163). -/
def areaEraseEnd (a : Area) (sector : Nat) (good : Bool) (s : State) : State :=
  if good then
    let held := sectorHeld (ringOf s a) sector (sectorPages s a sector)
    let s1 := eraseSector (sectorAddress a sector) s
    let s2 := setOp .idle (setRing a
      { setDir (ringOf s a) sector {} with eraseFails := 0, failTarget := sector, broken := none } s1)
    match a with
    | .own => retentionTest s2
    | .part p => raiseOldest p held s2
  else
    let s1 := failErase (sectorAddress a sector) (noteBroken a sector s)
    let n := failsOf (ringOf s a) sector + 1
    let e := scanSector (sectorPages s1 a sector)
    let s2 := setOp .idle (setRing a { setDir (ringOf s1 a) sector e with eraseFails := n, failTarget := sector } s1)
    if 2 ≤ n then enterFault s2 else s2

/-- The end of the sector erase in flight, in any ring area. -/
def eraseEnd (good : Bool) (s : State) : State :=
  match s.arch.op with
  | .erasing a sector => areaEraseEnd a sector good s
  | _ => s

/-! ## The commands of the archive controller -/

/-- PROGRAM_COMPLETE: the program in flight ends, and a flash-idle event follows (R158, R153). -/
def execProgramComplete (good : Bool) (s : State) : Host.Outcome State Fault Refusal :=
  match s.arch.op with
  | .programming _ => .next (flashIdle (programEnd good s))
  | _ => .next s

/-- ERASE_COMPLETE: the erase in flight ends, and a flash-idle event follows (R163, R153). -/
def execEraseComplete (good : Bool) (s : State) : Host.Outcome State Fault Refusal :=
  match s.arch.op with
  | .erasing _ _ => .next (flashIdle (eraseEnd good s))
  | _ => .next s

/-- Whether releases are made in this station state: not in HOLD, SCAN, UNCONFIGURED, COMMISSION, nor in reset (R160). -/
def releasesOn (s : State) : Bool := operationsOn s

/-- The tickets of the producers of the RECORD queue other than the release, or other than the backfill job. -/
def backfillTicket (s : State) : List Nat :=
  match s.wit.work with
  | .ready _ t => [t]
  | _ => []

def releaseTickets (s : State) : List Nat := s.arch.releaseTicket.toList

/-- Place the telegram of the oldest unplaced archived entry in the RECORD queue (R160). -/
def placeRelease (e : OutEntry) (s : State) : State :=
  let s1 := s.setArch { s.arch with
    outbound := modifyFirst unplaced (fun x => { x with placed := true }) s.arch.outbound
    releaseTicket := none }
  renewRelease (s1.setPort { s1.port with recordQ := s1.port.recordQ ++ [⟨e.toRec s.cfg.own, false⟩] })

/-- RECORD_RELEASE: with room, and when the release has waited longest, the oldest archived own record not yet placed
goes to the RECORD queue with the backfill flag clear (R160, R122). -/
def execRecordRelease (s : State) : Host.Outcome State Fault Refusal :=
  match s.arch.outbound.find? unplaced with
  | none => .next s
  | some e =>
    if releasesOn s ∧ s.port.recordQ.length < 4
        ∧ longestWaiting (s.arch.releaseTicket.getD s.port.ticket) (backfillTicket s) then
      .next (placeRelease e s)
    else .next s

end Sys2Proof.Machine
end

