-- ==== Sys2Proof/Machine/Bus.lean ====
section
/-! DEFINITION. The bus port: what it receives and hands on, its transmitter, its errors and its states (chapter 7). -/

namespace Sys2Proof.Machine

/-! ## Receiving (R121, R127 to R129) -/

/-- The port receives in ACTIVE and SILENT (R121, R127). -/
def receives (s : State) : Bool := s.port.state != .off

/-- A receive error is counted and reaches no block (R127). -/
def receiveErrorEffect (s : State) : State := countUp .rxErrors 1 s

/-- A station clash is discarded, counted, and raises BUS (R128). -/
def clashEffect (s : State) : State := raiseCause .bus (countUp .clashes 1 s)

/-- What the port does with a telegram it receives whole and with a good check: a length that is not permitted makes
it a receive error, the part's own station number a clash; otherwise its block takes it (R127 to R129). A telegram that
has both faults is one receive error and no clash (DESIGN CHOICE: log entry 40). One that comes while the part's own
telegram is on the line, which R127 and R128 exclude, is taken all the same (DESIGN CHOICE: log entry 50). -/
def deliver (sender : BitVec 5) (permitted : Bool) (block : State → State) (s : State) : State :=
  if !receives s then s
  else if !permitted then receiveErrorEffect s
  else if sender.toNat = s.cfg.own then clashEffect s
  else block s

/-- RECEIVE_ERROR: a telegram discarded by R127 is counted (station counter 1). A frame that R127 does not discard is
no receive error. One that comes while the part itself sends is counted all the same (DESIGN CHOICE: log entry 50). -/
def execReceiveError (frame : List Byte) (endMark : Bool) (s : State) : Host.Outcome State Fault Refusal :=
  if receives s ∧ frameIsError frame endMark = true then .next (receiveErrorEffect s) else .next s

/-- STATION_CLASH: in a port state that receives, whatever the telegram's class (R128), and also while the part itself
sends (DESIGN CHOICE: log entry 50). -/
def execStationClash (_cls : BitVec 3) (s : State) : Host.Outcome State Fault Refusal :=
  if receives s then .next (clashEffect s) else .next s

/-! ## The one-entry queues (R122) -/

/-- A newer telegram replaces the entry, or is held aside while the entry is on the line (R122). -/
def OneQueue.place {α : Type} (onLine : Bool) (x : α) (q : OneQueue α) : OneQueue α :=
  if onLine && q.entry.isSome then { q with aside := some x } else { entry := some x, aside := none }

/-- The end of a transmission that did not take the entry away: a telegram held aside becomes the entry (R122). -/
def OneQueue.settle {α : Type} (q : OneQueue α) : OneQueue α :=
  match q.aside with
  | some x => { entry := some x, aside := none }
  | none => q

/-- The entry has been transmitted: it leaves, and a telegram held aside becomes the entry (R122, R124). -/
def OneQueue.sent {α : Type} (q : OneQueue α) : OneQueue α := { entry := q.aside, aside := none }

/-- Whether a queue's telegram is on the line. -/
def isOnLine (p : Port) (q : TxQueue) : Bool :=
  match p.onLine with
  | some l => l.queue == q
  | none => false

/-- The transmission on the line ends without having gone out whole. -/
def Port.lineEnded (p : Port) : Port :=
  { p with onLine := none, timeQ := p.timeQ.settle, markQ := p.markQ.settle, presenceQ := p.presenceQ.settle }

/-- The port turns OFF; a telegram on the line is broken off and stays at the head of its queue (R121). -/
def portOff (s : State) : State := s.setPort { s.port.lineEnded with state := .off }

/-- The port becomes ACTIVE with the error run at 0 (R121, R178). -/
def portActive (s : State) : State := s.setPort { s.port with state := .active, errorRun := 0, activeSince := s.elapsed }

/-- The station state enters one of the five states in which the port works: from OFF the port becomes ACTIVE (R121). -/
def portOn (s : State) : State := if s.port.state = .off then portActive s else s

/-! ## The transmitter (R119, R120, R123 to R125) -/

/-- The payload at the head of a queue, when there is one; a TIME telegram carries the part's plant time (R107). -/
def headPayload (s : State) : TxQueue → Option (List Byte)
  | .time => s.port.timeQ.entry.map (fun r => timePayload (s.tb.plant.getD 0) r)
  | .record => s.port.recordQ.head?.map recordPayload
  | .mark => s.port.markQ.entry.map markPayload
  | .gap => s.port.gapQ.head?.map gapPayload
  | .answer => s.port.answerQ.head?.map answerPayload
  | .presence => s.port.presenceQ.entry.map presencePayload

/-- The lowest-numbered non-empty queue with the bytes of its head (R123). -/
def offer (s : State) : Option OnLine :=
  [TxQueue.time, .record, .mark, .gap, .answer, .presence].findSome? (fun q =>
    (headPayload s q).map (fun p => ⟨q, frameBytes q.classCode s.cfg.own p⟩))

/-- BUS_IDLE: in ACTIVE the transmitter offers the head of the lowest-numbered non-empty queue (R123). The key is
arbitrated at this moment, so the send time of a TIME telegram is the plant time now (R107, R124; log entry 13). -/
def execBusIdle (s : State) : Host.Outcome State Fault Refusal :=
  if s.port.state = .active ∧ s.port.onLine = none then .next (s.setPort { s.port with onLine := offer s }) else .next s

/-- ARBITRATION_LOST: the telegram stays at the head of its queue and the error run is unchanged (R120, R124). -/
def execArbitrationLost (s : State) : Host.Outcome State Fault Refusal :=
  match s.port.onLine with
  | some _ => .next (s.setPort s.port.lineEnded)
  | none => .next s

/-- The GAP of an origin has been transmitted: its 10 s run from now (R141, R124). -/
def gapSent (t : GapTel) (s : State) : State :=
  s.setWit { s.wit with
    origins := s.wit.origins.map (fun o =>
      match o.gap with
      | some g =>
        if o.station = t.target ∧ g.first = t.first ∧ g.phase = .queued then
          { o with gap := some { g with phase := .sent s.elapsed } }
        else o
      | none => o) }

/-- The release of an own record has been transmitted: its entry leaves the outbound record queue (R160). -/
def releaseSent (seq : Nat) (s : State) : State :=
  s.setArch { s.arch with
    outbound := removeFirst (fun e => e.state == .waitingPublish && e.placed && e.seq == some seq) s.arch.outbound }

/-- The telegram of a queue has been transmitted: it leaves its queue and its producer is told (R124). -/
def transmitted (q : TxQueue) (s : State) : State :=
  let p := s.port
  match q with
  | .time => s.setPort { p with timeQ := p.timeQ.sent }
  | .mark => s.setPort { p with markQ := p.markQ.sent }
  | .presence => s.setPort { p with presenceQ := p.presenceQ.sent }
  | .answer => s.setPort { p with answerQ := p.answerQ.drop 1 }
  | .gap =>
    match p.gapQ with
    | t :: r => gapSent t (s.setPort { p with gapQ := r })
    | [] => s
  | .record =>
    match p.recordQ with
    | t :: r =>
      let s1 := s.setPort { p with recordQ := r }
      if t.backfill then s1 else releaseSent t.record.seq s1
    | [] => s

/-- TRANSMIT_COMPLETE: the telegram on the line leaves its queue, the error run becomes 0, and the block that placed it
is told (R124). -/
def execTransmitComplete (s : State) : Host.Outcome State Fault Refusal :=
  match s.port.onLine with
  | some l => .next (transmitted l.queue (s.setPort { s.port with onLine := none, errorRun := 0 }))
  | none => .next s

/-- Entry into SILENT: counted as a transmit give-up, and BUS is raised (R125). -/
def enterSilent (s : State) : State :=
  raiseCause .bus (countUp .giveUps 1 (s.setPort { s.port with state := .silent, silentSince := s.elapsed }))

/-- TRANSMIT_ERROR: the telegram on the line is broken off and stays at the head of its queue; the error run rises, and
at 32 the port enters SILENT (R125). -/
def execTransmitError (s : State) : Host.Outcome State Fault Refusal :=
  match s.port.onLine with
  | some _ =>
    let s1 := s.setPort { s.port.lineEnded with errorRun := s.port.errorRun + 1 }
    .next (if 32 ≤ s1.port.errorRun then enterSilent s1 else s1)
  | none => .next s

/-- SILENT_END: when 1 s of elapsed time has passed in SILENT, the port returns to ACTIVE with the error run at 0
(R126). -/
def execSilentEnd (s : State) : Host.Outcome State Fault Refusal :=
  if s.port.state = .silent ∧ Config.ticksPerSecond ≤ since s s.port.silentSince then
    .next (s.setPort { s.port with state := .active, errorRun := 0 })
  else .next s

end Sys2Proof.Machine
end

