-- ==== Sys2Proof/Machine/Operands.lean ====
section
/-! DEFINITION. The operands of commands as their blocks read them: reading statuses, centi-unit values, plant times,
cause sets. -/

namespace Sys2Proof.Machine

/-- Reading statuses (7.7.3, READING). -/
inductive ReadingStatus where
  | valid | maint | calib | fault | overrange
deriving DecidableEq, Repr

/-- The status of a code; a code that is not listed has none (R9). -/
def readingStatusOf (code : BitVec 8) : Option ReadingStatus :=
  match code.toNat with
  | 0 => some .valid
  | 1 => some .maint
  | 2 => some .calib
  | 3 => some .fault
  | 4 => some .overrange
  | _ => none

/-- The signed 24-bit value of a READING (R130). -/
def readingValue (v : BitVec 24) : Int := v.toInt

/-- A time of whole seconds and ticks, in ticks (R130). -/
def timeTicks (seconds : BitVec 32) (ticks : BitVec 16) : Nat := seconds.toNat * Config.ticksPerSecond + ticks.toNat

/-- The year of a year field, a number less 2000 (R130). -/
def yearField (y : BitVec 8) : Nat := 2000 + y.toNat

end Sys2Proof.Machine
end

