-- ==== Sys2Proof/Machine/Intake.lean ====
section
/-! DEFINITION. The intake unit: matching a reading to a slot and the open-minute accumulators (chapter 1). -/

namespace Sys2Proof.Machine

/-- The expected count E: 60 divided by the sample interval (R7). -/
def expectedCount (sl : Slot) : Nat := 60 / sl.interval

/-- The taken count: the sum of the four status counts (R11). -/
def Acc.taken (a : Acc) : Nat := a.valid + a.maint + a.calib + a.fault

/-- FEED and DISTURB are the binary kinds (chapter 1.1). -/
def isBinary (k : SlotKind) : Bool := k == .feed || k == .disturb

/-- The least value of a slot's permitted range (R12). -/
def rangeLow (sl : Slot) : Int := if sl.kind = .flow then 0 else -(sl.fullScale : Int)

/-- The value itself within the permitted range, else the nearer bound (R12). -/
def enteredValue (sl : Slot) (v : Int) : Int := clampInt (rangeLow sl) sl.fullScale v

/-- A valid sample enters: the sum on an analogue slot, the non-zero count on a binary one (R12, R13). -/
def enterValid (sl : Slot) (a : Acc) (v : Int) (marked : Bool) : Acc :=
  if isBinary sl.kind then
    { a with
      valid := a.valid + 1, overrange := a.overrange + marked.toNat
      nonZero := a.nonZero + (decide (v ≠ 0)).toNat }
  else
    { a with valid := a.valid + 1, overrange := a.overrange + marked.toNat, sum := a.sum + enteredValue sl v }

/-- A taken sample enters the accumulator by its status (R12 to R14). -/
def takeSample (sl : Slot) (a : Acc) (st : ReadingStatus) (v : Int) : Acc :=
  match st with
  | .valid => enterValid sl a v (!isBinary sl.kind && decide (enteredValue sl v ≠ v))
  | .overrange => enterValid sl a v true
  | .maint => { a with maint := a.maint + 1 }
  | .calib => { a with calib := a.calib + 1 }
  | .fault => { a with fault := a.fault + 1 }

/-- A sample of a matched slot: taken below the cap 2E, dropped as excess at it (R11). -/
def sample (sl : Slot) (a : Acc) (st : ReadingStatus) (v : Int) : Acc :=
  if a.taken < 2 * expectedCount sl then takeSample sl a st v
  else { a with excess := satAdd Config.countMax a.excess 1 }

/-- The slot in use that a sender and a source channel match (R10). -/
def matchSlot (c : Settings) (sender channel : Nat) : Option (Nat × Slot) :=
  (slotsInUse c).find? (fun p => p.2.station == sender && p.2.channel == channel)

/-- Whether a line tag lets a matched reading in: 0 or the configured line (R10); above 8 none is (R9). -/
def tagMatches (c : Settings) (tag : Nat) : Bool := decide (tag ≤ 8) && (tag == 0 || tag == c.line)

/-- The intake unit takes a READING or ignores it (R8 to R10). -/
def intakeReading (sender : BitVec 5) (channel tag : BitVec 4) (status : BitVec 8) (value : BitVec 24)
    (s : State) : State :=
  if s.supply.station ≠ some .recording then s
  else match readingStatusOf status, matchSlot s.cfg sender.toNat channel.toNat with
    | some st, some (i, sl) =>
      if tagMatches s.cfg tag.toNat then s.setAccs (s.accs.modify i (fun a => sample sl a st (readingValue value)))
      else s
    | _, _ => s

/-- RECEIVE_READING (R8 to R14). -/
def execReceiveReading (sender : BitVec 5) (channel tag : BitVec 4) (status : BitVec 8) (value : BitVec 24)
    (s : State) : Host.Outcome State Fault Refusal :=
  .next (deliver sender true (intakeReading sender channel tag status value) s)

/-- The accumulators restart at 0 for the slots in use when a minute takes them (R15). -/
def restartAccs (s : State) : State :=
  s.setAccs (s.accs.zipIdx.map (fun p => if (s.cfg.slots.getD p.2 {}).kind = .unused then p.1 else {}))

/-- The samples of the open minute: those set aside at a forward step, while there are such, and the accumulators
otherwise (R15, R113). -/
def openSamples (s : State) : List Acc := s.minutes.setAside.getD s.accs

/-- A minute closed with its samples takes them: the accumulators restart, unless a forward step has set the minute's
samples aside and restarted them then (R15, R113). -/
def takeSamples (s : State) : State :=
  match s.minutes.setAside with
  | some _ => s.setMinutes { s.minutes with setAside := none }
  | none => restartAccs s

/-- A forward step parts the samples: those taken before it are set aside for the minute at T_c, and the accumulators go
on from 0 for the minute that plant time is in (R113; DESIGN CHOICE: log entry 47). -/
def setSamplesAside (s : State) : State :=
  match s.minutes.setAside with
  | some _ => s
  | none => restartAccs (s.setMinutes { s.minutes with setAside := some s.accs })

end Sys2Proof.Machine
end

