-- ==== Sys2Proof/Machine/Minute.lean ====
section
/-! DEFINITION. The minute former: base statuses, minute values and standardization (chapter 2). -/

namespace Sys2Proof.Machine

/-- The valid count that makes a minute VALID: ceil(E / 2) (R23). -/
def validThreshold (e : Nat) : Nat := (e + 1) / 2

/-- The base status of a minute closed with its samples (R23). -/
def baseStatus (e : Nat) (a : Acc) : MinuteStatus :=
  if validThreshold e ≤ a.valid then .valid
  else if a.calib = 0 ∧ a.maint = 0 ∧ a.fault = 0 then .missing
  else if a.maint ≤ a.calib ∧ a.fault ≤ a.calib then .calib
  else if a.fault ≤ a.maint then .maint
  else .fault

/-- The mean of the valid samples, rounded half away from zero (R25). -/
def minuteMean (a : Acc) : Int := roundDiv a.sum a.valid

/-- A VALID minute carries OVERRANGE when the overrange count is 1 or more (R28). -/
def overrangeFlag (a : Acc) : Bool := decide (1 ≤ a.overrange)

/-- The entry of a reference slot for a minute closed with its samples (R23, R25 to R29). -/
def referenceEntry (sl : Slot) (a : Acc) : MinuteEntry :=
  match baseStatus (expectedCount sl) a with
  | .valid =>
    let m := minuteMean a
    match sl.kind with
    | .feed => { status := .valid, flags := { overrange := overrangeFlag a }, value := some (.binary (decide (a.valid ≤ 2 * a.nonZero))) }
    | .disturb => { status := .valid, flags := { overrange := overrangeFlag a }, value := some (.binary (decide (a.valid ≤ 2 * a.nonZero))) }
    | .o2 => { status := .valid, flags := { overrange := overrangeFlag a }, value := some (.analogue (clampInt 0 2100 m)) }
    | .h2o =>
      { status := .valid
        flags := { overrange := overrangeFlag a, h2oClamp := decide (clampInt 0 4000 m ≠ m) }
        value := some (.analogue (clampInt 0 4000 m)) }
    | _ => { status := .valid, flags := { overrange := overrangeFlag a }, value := some (.analogue m) }
  | st => { status := st }

/-- The number of an analogue minute value; a VALID analogue entry has one (R19). -/
def MinuteEntry.number (e : MinuteEntry) : Int :=
  match e.value with
  | some (.analogue v) => v
  | _ => 0

/-- The water vapour value H of a pollutant minute, and whether it is the default and whether it was clamped (R31). -/
def waterVapour (c : Settings) (sl o2 : Slot) (h2o : Option MinuteEntry) : Nat × Bool × Bool :=
  if sl.basis = .wet ∨ o2.basis = .wet then
    match h2o with
    | some e => if e.status = .valid then (e.number.toNat, false, e.flags.h2oClamp) else (c.defaultH2O, true, false)
    | none => (c.defaultH2O, true, false)
  else (0, false, false)

/-- The numerator N of the standardization (R32). -/
def stdNumerator (c : Settings) (sl : Slot) (value : Int) (d : Nat) : Int :=
  value * ((2100 : Int) - c.refO2) * (if sl.basis = .wet then 10000 else d)

/-- Whether the dry-basis oxygen exceeds the O2 cap (R33). -/
def capExceeded (c : Settings) (o2 : Slot) (o : Int) (d : Nat) : Bool :=
  if o2.basis = .wet then decide ((c.o2Cap : Int) * d < 10000 * o) else decide ((c.o2Cap : Int) < o)

/-- The denominator M of the standardization, after the O2 cap (R33). -/
def stdDenominator (c : Settings) (o2 : Slot) (o : Int) (d : Nat) : Nat :=
  if capExceeded c o2 o d then d * (2100 - c.o2Cap)
  else if o2.basis = .wet then (2100 * (d : Int) - 10000 * o).toNat
  else ((d : Int) * (2100 - o)).toNat

/-- The dry value kept for mass, not below 0 (R36). -/
def dryValue (sl : Slot) (value : Int) (d : Nat) : Nat :=
  if sl.basis = .wet then (roundDiv (value * 10000) d).toNat else value.toNat

/-- The entry of a pollutant slot for a minute closed with its samples (R23, R25, R28, R30 to R36). -/
def pollutantEntry (c : Settings) (sl : Slot) (a : Acc) (o2 : Slot) (o2Entry : MinuteEntry)
    (h2o : Option MinuteEntry) : MinuteEntry :=
  match baseStatus (expectedCount sl) a with
  | .valid =>
    let m := minuteMean a
    let (h, subst, clamped) := waterVapour c sl o2 h2o
    let d := 10000 - h
    let flags : MinuteFlags := { overrange := overrangeFlag a, h2oSubst := subst, h2oClamp := clamped }
    if o2Entry.status = .valid then
      let q := roundDiv (stdNumerator c sl m d) (stdDenominator c o2 o2Entry.number d)
      { status := .valid
        flags := { flags with
          o2Clamp := capExceeded c o2 o2Entry.number d
          saturated := decide (clampInt centiMin centiMax q ≠ q) }
        value := some (.analogue m)
        std := some (clampInt centiMin centiMax q)
        dry := some (dryValue sl m d) }
    else
      { status := .reference, flags := flags, value := some (.analogue m), dry := some (dryValue sl m d) }
  | st => { status := st }

/-- The entry of a slot of a kind, from the accumulators, in the reference stage (R21). -/
def kindEntry (s : State) (k : SlotKind) : Option (Slot × MinuteEntry) :=
  (slotOfKind s.cfg k).map (fun p => (p.2, referenceEntry p.2 ((openSamples s).getD p.1 {})))

/-- The minute entries of a minute closed with its samples: the reference stage, and for each pollutant the pollutant
stage that reads the O2 and H2O entries of the same minute (R21). -/
def sampledEntries (s : State) : List (Nat × MinuteEntry) :=
  let o2 := (kindEntry s .o2).getD ({}, { status := .missing })
  let h2o := (kindEntry s .h2o).map (·.2)
  (slotsInUse s.cfg).map (fun p =>
    let a := (openSamples s).getD p.1 {}
    (p.1, if p.2.kind = .pollutant then pollutantEntry s.cfg p.2 a o2.1 o2.2 h2o else referenceEntry p.2 a))

/-- The status that a close kind gives every slot of a minute without samples (R24). -/
def CloseKind.status : CloseKind → MinuteStatus
  | .withSamples => .missing
  | .timegap => .timegap
  | .hold => .hold
  | .powerLoss => .powerLoss

/-- The minute entries of a minute by its close kind (R21, R24). -/
def minuteEntries (k : CloseKind) (s : State) : List (Nat × MinuteEntry) :=
  if k = .withSamples then sampledEntries s
  else (slotsInUse s.cfg).map (fun p => (p.1, { status := k.status }))

/-- The entry of a slot number in a minute. -/
def entryAt (l : List (Nat × MinuteEntry)) (slot : Nat) : Option MinuteEntry := (l.find? (fun p => p.1 == slot)).map (·.2)

/-- The entry of the slot of a kind in a minute. -/
def entryOfKind (c : Settings) (l : List (Nat × MinuteEntry)) (k : SlotKind) : Option MinuteEntry :=
  (slotOfKind c k).bind (fun p => entryAt l p.1)

/-- Whether any pollutant entry of a minute carries a flag (R37). -/
def anyPollutant (c : Settings) (l : List (Nat × MinuteEntry)) (f : MinuteFlags → Bool) : Bool :=
  (pollutants c).any (fun p => match entryAt l p.1 with | some e => f e.flags | none => false)

end Sys2Proof.Machine
end

