-- ==== Sys2Proof/Machine/Line.lean ====
section
/-! DEFINITION. The line state unit: the operating state of a minute, disturbed minutes, the disturbance account and
FSTOP (chapter 3), and the close of one minute (R21, R22). -/

namespace Sys2Proof.Machine

/-- Whether the FURNACE entry is valid and at or above the threshold, valid and below it, or not valid (R40). -/
def furnaceHot (c : Settings) (e : Option MinuteEntry) : Option Bool :=
  match e with
  | some e => if e.status = .valid then some (decide ((c.furnace : Int) ≤ e.number)) else none
  | none => none

/-- The minute value of a VALID binary entry (R29). -/
def assertedOf (e : Option MinuteEntry) : Option Bool :=
  match e with
  | some e =>
    match e.status, e.value with
    | .valid, some (.binary b) => some b
    | _, _ => none
  | none => none

/-- The operating state of a minute closed with its samples (R40). -/
def opStateOf (feed : Option Bool) (hot : Option Bool) : OpState :=
  match feed, hot with
  | some false, some true => .standby
  | some false, _ => .off
  | some true, some true => .firing
  | some true, some false => .coldFiring
  | some true, none => .unknown
  | none, _ => .unknown

/-- The operating state of a minute by its close kind (R40, R41). -/
def minuteOpState (c : Settings) (k : CloseKind) (l : List (Nat × MinuteEntry)) : OpState :=
  if k = .withSamples then opStateOf (assertedOf (entryOfKind c l .feed)) (furnaceHot c (entryOfKind c l .furnace))
  else .noRecord

/-- Whether a state is an operating one (chapter 3.1). -/
def OpState.operating : OpState → Bool
  | .off => false
  | .standby => false
  | .firing => true
  | .coldFiring => true
  | .unknown => true
  | .noRecord => true

/-- Whether a minute is disturbed (R43, R44). -/
def minuteDisturbed (c : Settings) (l : List (Nat × MinuteEntry)) (st : OpState) (run : Nat) : Bool :=
  match st with
  | .off => false
  | .standby => false
  | .noRecord => decide (0 < run)
  | _ => (slotOfKind c .disturb).isSome && assertedOf (entryOfKind c l .disturb) != some false

/-- The account after a classified minute: run length, year disturbance total, longest run (R46). -/
def accountUpdate (disturbed : Bool) (a : LineAccount) : LineAccount :=
  if disturbed then
    let run := satAdd Config.runMax a.run 1
    { a with run := run, yearTotal := a.yearTotal + 1, longest := max a.longest run }
  else { a with run := 0 }

/-- Whether a cap is reached (R47). -/
def capReached (c : Settings) (a : LineAccount) : Bool := decide (c.runCap ≤ a.run) || decide (c.yearCap ≤ a.yearTotal)

/-- The FSTOP decision of a minute: an assertion is counted, raises FEED_STOP and marks the half-hour (R47). -/
def fstopDecision (disturbed : Bool) (s : State) : State :=
  if disturbed then
    if capReached s.cfg s.line && !s.line.fstop then
      let s1 := s.setLine { s.line with fstop := true, fstopInHalfHour := true }
      raiseCause .feedStop (s1.setYear { s1.year with fstops := s1.year.fstops + 1 })
    else s
  else s.setLine { s.line with fstop := false }

/-- The year total at which DISTURB_WARN is raised (R49). -/
def warnThreshold (c : Settings) : Nat := 3 * c.yearCap / 4

/-- DISTURB_WARN, once in the year (R49). -/
def warnDecision (disturbed : Bool) (s : State) : State :=
  if disturbed && decide (s.line.yearTotal = warnThreshold s.cfg) && !s.line.warned then
    raiseCause .disturbWarn (s.setLine { s.line with warned := true })
  else s

/-- COLD_FEED, at the first COLD_FIRING minute of a half-hour (R50). -/
def coldFeedDecision (st : OpState) (s : State) : State :=
  if st = .coldFiring ∧ s.line.coldFed = false then
    raiseCause .coldFeed (s.setLine { s.line with coldFed := true })
  else s

/-- The line state unit takes a minute: the account, FSTOP, DISTURB_WARN and COLD_FEED, in that order (R42). -/
def lineMinute (st : OpState) (disturbed : Bool) (s : State) : State :=
  coldFeedDecision st (warnDecision disturbed (fstopDecision disturbed (s.setLine (accountUpdate disturbed s.line))))

/-- The closed minute as the minute tables keep it (R19, R20, R37, R42). -/
def minuteRow (k : CloseKind) (s : State) : MinuteRow :=
  let l := minuteEntries k s
  let st := minuteOpState s.cfg k l
  { closeKind := k
    opState := st
    disturbed := minuteDisturbed s.cfg l st s.line.run
    h2oSubst := anyPollutant s.cfg l (·.h2oSubst)
    o2Clamped := anyPollutant s.cfg l (·.o2Clamp)
    entries := l }

/-- Close one minute: form its entries, classify it, and take the accumulators when it is closed with its samples
(R15, R21, R42). -/
def closeMinute (k : CloseKind) (s : State) : State :=
  let row := minuteRow k s
  let s1 := lineMinute row.opState row.disturbed s
  let s2 := s1.setMinutes { s1.minutes with rows := s1.minutes.rows ++ [row], last := some row }
  if k = .withSamples then takeSamples s2 else s2

/-- Fill n earlier minutes of the half-hour as POWER_LOSS (R22). -/
def fillMinutes : Nat → State → State
  | 0, s => s
  | n + 1, s => fillMinutes n (closeMinute .powerLoss s)

/-- Close minute `number` of the half-hour, filling the empty entries before it first (R22). -/
def closeNumbered (number : Nat) (k : CloseKind) (s : State) : State :=
  closeMinute k (fillMinutes (number - s.minutes.rows.length) s)

/-- The line state unit at the half-hour close: cold feed given returns to no, and FSTOP in half-hour takes the FSTOP
state (R51). -/
def lineHalfHour (s : State) : State := s.setLine { s.line with coldFed := false, fstopInHalfHour := s.line.fstop }

/-- The line state unit at the year close (R52). -/
def lineYear (s : State) : State := s.setLine { s.line with yearTotal := 0, longest := 0, warned := false }

/-- The account restored at a cold start from the rebuilt run length, year total and longest run (R55). -/
def restoredAccount (c : Settings) (run yearTotal longest : Nat) : LineAccount :=
  let a : LineAccount := { run := run, yearTotal := yearTotal, longest := longest }
  let f := decide (0 < run) && capReached c a
  { a with fstop := f, warned := decide (warnThreshold c ≤ yearTotal), fstopInHalfHour := f }

end Sys2Proof.Machine
end

