-- ==== Sys2Proof/Machine/Year.lean ====
section
/-! DEFINITION. The year tally unit: what each close adds to the tallies, and the year close (chapter 5). -/

namespace Sys2Proof.Machine

/-- The entry of a slot in a HALF_HOUR record. -/
def halfHourEntryAt (h : HalfHour) (slot : Nat) : Option HalfHourEntry := h.entries.find? (fun e => e.slot == slot)

/-- The entry of a slot in a DAY record. -/
def dayEntryAt (d : DayRecord) (slot : Nat) : Option DayEntry := d.entries.find? (fun e => e.slot == slot)

/-- Whether a half-hour counts as B-compliant for a slot (R84). -/
def bCompliant (sl : Slot) (e : HalfHourEntry) : Bool :=
  decide (0 < sl.limitB) && e.status == .valid && decide (e.validated.getD 0 ≤ sl.limitB)

/-- A slot's half-hour added to its year tallies (R84). -/
def yearRowHalfHour (sl : Slot) (e : HalfHourEntry) (r : YearRow) : YearRow :=
  { r with
    validHalfHours := r.validHalfHours + (decide (e.status = .valid)).toNat
    invalidHalfHours := r.invalidHalfHours + (decide (e.status = .invalid)).toNat
    aExceed := r.aExceed + e.aExceeded.toNat
    bCompliant := r.bCompliant + (bCompliant sl e).toNat
    mass := r.mass + e.mass.getD 0
    massSubst := r.massSubst + e.massSubst.toNat }

/-- A slot's day added to its year tallies (R85). -/
def yearRowDay (e : DayEntry) (r : YearRow) : YearRow :=
  { r with
    validDays := r.validDays + (decide (e.status = .valid)).toNat
    invalidDays := r.invalidDays + (decide (e.status = .invalid)).toNat
    idleDays := r.idleDays + (decide (e.status = .notOperating)).toNat
    dayExceed := r.dayExceed + e.exceeded.toNat }

/-- A half-hour added to the year tallies (R84). -/
def yearAddHalfHour (c : Settings) (h : HalfHour) (y : YearUnit) : YearUnit :=
  { y with
    minutes := y.minutes.plus h.counts
    coldFiring := y.coldFiring + h.counts.coldFiring
    rows := y.rows.map (fun r =>
      match halfHourEntryAt h r.slot with
      | some e => yearRowHalfHour (c.slots.getD r.slot {}) e r
      | none => r) }

/-- A day's statuses added to the year tallies (R85). -/
def yearAddDay (d : DayRecord) (y : YearUnit) : YearUnit :=
  { y with
    rows := y.rows.map (fun r =>
      match dayEntryAt d r.slot with
      | some e => yearRowDay e r
      | none => r) }

/-- The station counters are handed to the DAY record, summed into the year, and restart (R87). -/
def handOverCounters (y : YearUnit) : YearUnit := { y with totals := y.totals.plus y.day, day := {} }

/-- The YEAR_GENERAL record of a year (R90). -/
def yearGeneralOf (year : Nat) (s : State) : YearGeneral :=
  { start := yearStart year
    year := year
    minutes := s.year.minutes
    disturbance := s.line.yearTotal
    longest := s.line.longest
    fstops := s.year.fstops
    coldFiring := s.year.coldFiring
    totals := s.year.totals
    secured := s.wit.secured }

/-- The B compliance permille, a floor, when limit B is set and there is a valid half-hour (R91). -/
def bPermille (sl : Slot) (r : YearRow) : Option Nat :=
  if 0 < sl.limitB ∧ 1 ≤ r.validHalfHours then some (1000 * r.bCompliant / r.validHalfHours) else none

/-- The YEAR_SLOT record of a slot (R91). -/
def yearSlotOf (c : Settings) (year : Nat) (r : YearRow) : YearSlot :=
  let sl := c.slots.getD r.slot {}
  { start := yearStart year
    row := r
    permille := bPermille sl r
    bBreach := match bPermille sl r with
      | some p => decide (p < sl.bRequired)
      | none => false
    availabilityBreach := decide (c.yearAllowance < r.invalidDays)
    mass := if (slotOfKind c .flow).isSome then some (roundDivNat r.mass 1000000) else none }

def appendYearSlot (c : Settings) (year : Nat) (s : State) (r : YearRow) : State :=
  appendRecord .yearSlot (yearStart year) (yearSlotBody (yearSlotOf c year r)) s

/-- The tallies at the start of a year (R82, R83, R92). -/
def freshTallies (y : YearUnit) : YearUnit :=
  { y with rows := y.rows.map (fun r => { slot := r.slot }), minutes := {}, fstops := 0, coldFiring := 0, totals := {} }

/-- Every previous mass rate becomes absent (R69). -/
def clearRates (a : Averaging) : Averaging := { a with rows := a.rows.map (fun r => { r with rate := none }) }

/-- The witness unit hears of a year close: the own witness floor moves to the year start sequence (R140). -/
def witnessYearClose (s : State) : State :=
  s.setWit { s.wit with ownFloor := s.wit.yearStart.getD (s.arch.latest + 1), yearStart := none }

/-- The year records are appended: YEAR_GENERAL, then YEAR_SLOT in slot-number order (R89). -/
def appendYearRecords (year : Nat) (s : State) : State :=
  let g := yearGeneralOf year s
  s.year.rows.foldl (appendYearSlot s.cfg year) (appendRecord .yearGeneral g.start (yearGeneralBody g) s)

/-- The state a year close leaves in the units, and its report to the archive controller and the witness unit (R52,
R69, R92, R140, R162). -/
def restartYear (s : State) : State :=
  let s1 := lineYear (s.setYear { freshTallies s.year with openYear := s.year.openYear.map (· + 1) })
  retentionTest (witnessYearClose (s1.setAvg (clearRates s1.avg)))

/-- The year close at a year boundary (R89 to R92). -/
def closeYear (boundary : Nat) (s : State) : State := restartYear (appendYearRecords (yearOf boundary - 1) s)

end Sys2Proof.Machine
end

