-- ==== Sys2Proof/Machine/Average.lean ====
section
/-! DEFINITION. The averaging unit: the half-hour close and the day close (chapter 4). -/

namespace Sys2Proof.Machine

/-! ## The general part of a half-hour (R58 to R60) -/

/-- How many of the rows have an operating state. -/
def countState (rows : List MinuteRow) (st : OpState) : Nat := rows.countP (fun r => r.opState == st)

def minuteCountsOf (rows : List MinuteRow) : MinuteCounts :=
  { off := countState rows .off, standby := countState rows .standby, firing := countState rows .firing
    coldFiring := countState rows .coldFiring, unknown := countState rows .unknown, noRecord := countState rows .noRecord }

/-- The operating minutes m of six counts (R58). -/
def MinuteCounts.operating (c : MinuteCounts) : Nat := c.firing + c.coldFiring + c.unknown + c.noRecord

/-- The minutes whose state is an operating one. -/
def operatingRows (rows : List MinuteRow) : List MinuteRow := rows.filter (fun r => r.opState.operating)

/-- The average of a reference kind over the operating minutes with a VALID entry of it (R60). -/
def referenceAverage (c : Settings) (rows : List MinuteRow) (k : SlotKind) : Option Nat :=
  let vals := (operatingRows rows).filterMap (fun r =>
    match entryOfKind c r.entries k with
    | some e => if e.status = .valid then some e.number.toNat else none
    | none => none)
  if vals.isEmpty then none else some (roundDivNat vals.sum vals.length)

/-! ## A slot entry of a half-hour (R61 to R69) -/

/-- The entries of a slot in the operating minutes. -/
def operatingEntries (rows : List MinuteRow) (slot : Nat) : List MinuteEntry :=
  (operatingRows rows).filterMap (fun r => entryAt r.entries slot)

/-- The status of a slot: NOT_OPERATING below 15 operating minutes, VALID at two thirds of them (R58, R61, R62). -/
def halfHourStatus (m v : Nat) : PeriodStatus :=
  if m < 15 then .notOperating else if 2 * m ≤ 3 * v then .valid else .invalid

/-- The uncertainty allowance U (R64). -/
def allowance (sl : Slot) : Nat := roundDivNat (sl.dailyLimit * sl.confidence) 1000

/-- The validated value V (R64). -/
def validatedValue (sl : Slot) (raw : Int) : Nat := (raw - allowance sl).toNat

/-- The invalid statuses in the order that settles ties (R66). -/
def causeOrder : List MinuteStatus := [.calib, .maint, .reference, .fault, .missing, .timegap, .hold, .powerLoss]

/-- The most frequent of some statuses, the earliest of those that share the greatest count (R66). -/
def mostFrequent (entries : List MinuteEntry) : List MinuteStatus → Option MinuteStatus
  | [] => none
  | st :: r =>
    match mostFrequent entries r with
    | none => some st
    | some best =>
      if entries.countP (fun e => e.status == best) ≤ entries.countP (fun e => e.status == st) then some st else some best

/-- The rates of the pairs of a slot: operating minutes with a dry value and a VALID FLOW entry (R68). -/
def pairRates (c : Settings) (rows : List MinuteRow) (slot : Nat) : List Nat :=
  (operatingRows rows).filterMap (fun r =>
    match (entryAt r.entries slot).bind (·.dry), entryOfKind c r.entries .flow with
    | some d, some f => if f.status = .valid then some (d * f.number.toNat) else none
    | _, _ => none)

/-- The mass of a slot, its mean mass rate, MASS_SUBST and MASS_NONE (R68, R69). -/
def massOf (flowUsed : Bool) (m : Nat) (rates : List Nat) (previous : Option Nat) : Option Nat × Option Nat × Bool × Bool :=
  if !flowUsed || m == 0 then (none, none, false, false)
  else if rates.isEmpty then
    if m < 15 then (some 0, none, false, false)
    else match previous with
      | some r => (some (roundDivNat (r * m) 6000), none, true, false)
      | none => (some 0, none, false, true)
  else
    (some (roundDivNat (rates.sum * m) (rates.length * 6000)), some (roundDivNat rates.sum rates.length), false, false)

/-- The slot entry of a half-hour (R61 to R70). -/
def halfHourEntry (c : Settings) (rows : List MinuteRow) (previous : Option Nat) (slot : Nat) (sl : Slot) : HalfHourEntry :=
  let m := (minuteCountsOf rows).operating
  let es := operatingEntries rows slot
  let valid := es.filter (fun e => e.status == .valid)
  let v := valid.length
  let st := halfHourStatus m v
  let raw := roundDiv (valid.map (fun e => e.std.getD 0)).sum v
  let value := validatedValue sl raw
  let (mass, rate, subst, none_) := massOf (slotOfKind c .flow).isSome m (pairRates c rows slot) previous
  { slot := slot
    status := st
    cause := if st = .invalid then mostFrequent es causeOrder else none
    validMinutes := v
    raw := if st = .valid then some raw else none
    validated := if st = .valid then some value else none
    mass := mass
    rate := rate
    aExceeded := st == .valid && decide (0 < sl.limitA) && decide (sl.limitA < value)
    bExceeded := st == .valid && decide (0 < sl.limitB) && decide (sl.limitB < value)
    saturated := valid.any (fun e => e.flags.saturated)
    massSubst := subst
    massNone := none_ }

/-- The averaging row of a slot. -/
def avgRowAt (a : Averaging) (slot : Nat) : AvgRow := (a.rows.find? (fun r => r.slot == slot)).getD { slot := slot }

/-- The HALF_HOUR record of the half-hour that begins at `start` (R57 to R70). -/
def halfHourRecord (start : Nat) (s : State) : HalfHour :=
  let rows := s.minutes.rows
  { start := start
    counts := minuteCountsOf rows
    disturbed := rows.countP (·.disturbed)
    runAtClose := s.line.run
    h2oSubst := rows.countP (·.h2oSubst)
    o2Clamped := rows.countP (·.o2Clamped)
    o2Avg := referenceAverage s.cfg rows .o2
    h2oAvg := referenceAverage s.cfg rows .h2o
    fstop := s.line.fstopInHalfHour
    entries := (pollutants s.cfg).map (fun p => halfHourEntry s.cfg rows (avgRowAt s.avg p.1).rate p.1 p.2) }

/-! ## What the half-hour close updates -/

/-- A slot's half-hour added to its day row (R75). -/
def dayRowHalfHour (e : HalfHourEntry) (d : DayRow) : DayRow :=
  match e.status with
  | .notOperating => d
  | .invalid => { d with operating := d.operating + 1, invalid := d.invalid + 1 }
  | .valid =>
    { d with
      operating := d.operating + 1, valid := d.valid + 1, sum := d.sum + e.validated.getD 0
      aExceed := d.aExceed + e.aExceeded.toNat }

/-- The channel-loss counter after a half-hour (R67). -/
def lossAfter (st : PeriodStatus) (n : Nat) : Nat :=
  match st with
  | .valid => 0
  | .invalid => satAdd Config.countMax n 1
  | .notOperating => n

/-- An averaging row after a half-hour: channel loss, previous mass rate and day row (R67, R69, R75). -/
def avgRowHalfHour (e : HalfHourEntry) (r : AvgRow) : AvgRow :=
  { r with
    day := dayRowHalfHour e r.day, loss := lossAfter e.status r.loss
    rate := match e.rate with
      | some q => some q
      | none => r.rate }

/-- Whether a half-hour raises CHANNEL_LOSS for a slot: INVALID, and the counter stands at 3 or more (R67). -/
def lossRaised (e : HalfHourEntry) (r : AvgRow) : Bool := e.status == .invalid && decide (3 ≤ lossAfter e.status r.loss)

/-- The last half-hour results (R72). -/
def lastResults (h : HalfHour) : LastHalfHour :=
  { start := h.start, entries := h.entries.map (fun e => ⟨e.slot, e.status, e.validated⟩) }

/-- The half-hour close at a boundary (R57, R51): the record, the causes LIMIT and CHANNEL_LOSS, the averaging rows,
the hand-over to the year tally unit, the last results, the append, and the emptied minute tables. -/
def closeHalfHour (boundary : Nat) (s : State) : State :=
  let h := halfHourRecord (boundary - 1800) s
  let lost := h.entries.any (fun e => lossRaised e (avgRowAt s.avg e.slot))
  let s1 := raiseIf lost .channelLoss (raiseIf (h.entries.any (·.aExceeded)) .limit (lineHalfHour s))
  let s2 := s1.setAvg
    { rows := s1.avg.rows.map (fun r =>
        match halfHourEntryAt h r.slot with
        | some e => avgRowHalfHour e r
        | none => r)
      last := some (lastResults h) }
  let s3 := s2.setYear (yearAddHalfHour s2.cfg h s2.year)
  appendRecord .halfHour h.start (halfHourBody h) (s3.setMinutes { s3.minutes with rows := [] })

/-! ## The day close (R76 to R79) -/

/-- The day status of a slot (R77). -/
def dayStatus (c : Settings) (d : DayRow) : PeriodStatus :=
  if d.operating = 0 then .notOperating
  else if 1 ≤ d.valid ∧ d.invalid ≤ c.dayAllowance then .valid
  else .invalid

/-- The day entry of a slot (R77 to R79). -/
def dayEntry (c : Settings) (slot : Nat) (sl : Slot) (d : DayRow) : DayEntry :=
  let st := dayStatus c d
  let average := roundDivNat d.sum d.valid
  { slot := slot
    status := st
    average := if st = .valid then some average else none
    valid := d.valid
    invalid := d.invalid
    aExceed := d.aExceed
    exceeded := st == .valid && decide (0 < sl.dailyLimit) && decide (sl.dailyLimit < average) }

/-- The DAY record of the day that begins at `start` (R79). -/
def dayRecord (start : Nat) (s : State) : DayRecord :=
  { start := start
    operating := (s.avg.rows.head?.map (·.day.operating)).getD 0
    counters := s.year.day
    entries := (pollutants s.cfg).map (fun p => dayEntry s.cfg p.1 p.2 (avgRowAt s.avg p.1).day) }

/-- Every field of every row of the day table becomes 0 (R79). -/
def clearDays (a : Averaging) : Averaging := { a with rows := a.rows.map (fun r => { r with day := {} }) }

/-- The day close at a boundary (R76 to R79, R85, R87). -/
def closeDay (boundary : Nat) (s : State) : State :=
  let d := dayRecord (boundary - 86400) s
  let s1 := raiseIf (d.entries.any (·.exceeded)) .limit s
  let s2 := s1.setYear (handOverCounters (yearAddDay d s1.year))
  let s3 := appendRecord .day d.start (dayBody d) s2
  s3.setAvg (clearDays s3.avg)

end Sys2Proof.Machine
end

