-- ==== Sys2Proof/Machine/Rebuild.lean ====
section
/-! DEFINITION. What SCAN reads back from the flash: directories, write positions, sequence numbers, witness marks, and
the rebuilt year tallies, day table, mass rates and disturbance account (chapters 5.4 and 9.7). -/

namespace Sys2Proof.Machine

/-! ## The areas as the flash holds them -/

/-- A rising list without its repeats. -/
def dedupAdjacent : List Nat → List Nat
  | [] => []
  | x :: r =>
    match dedupAdjacent r with
    | y :: t => if x = y then y :: t else x :: y :: t
    | [] => [x]

/-- The sectors of an area in which some byte does not read FF; every other sector is ERASED (R154). -/
def listedSectors (m : Memory) (a : Area) : List Nat :=
  dedupAdjacent (m.filterMap (fun c =>
    let k := c.1 / Config.sectorBytes
    if a.base ≤ k ∧ k < a.base + a.sectors then some (k - a.base) else none))

/-- The sector directory of an area, built from its pages (R154). -/
def scanDirectory (s : State) (a : Area) : List (Nat × DirEntry) :=
  (listedSectors s.arch.flash a).filterMap (fun k =>
    let e := scanSector (sectorPages s a k)
    if e.state = .erased then none else some (k, e))

/-- The record pages of an area with their places, page by page. -/
def areaRecords (s : State) (a : Area) : List (Nat × Rec) :=
  (listedSectors s.arch.flash a).flatMap (fun k =>
    (List.range 16).filterMap (fun i =>
      match readPage s a (16 * k + i) with
      | .record r => some (16 * k + i, r)
      | _ => none))

/-- The record page of the highest sequence. -/
def newestOf (l : List (Nat × Rec)) : Option (Nat × Rec) :=
  l.foldl (fun m x => match m with
    | none => some x
    | some y => if y.2.seq ≤ x.2.seq then some x else some y) none

/-- The write position of an area after SCAN: the page after its newest record page when every later page of that
sector reads erased, the first page of the following sector otherwise (R165). -/
def scanWritePos (s : State) (a : Area) : Nat :=
  match newestOf (areaRecords s a) with
  | none => 0
  | some (p, _) =>
    let later := (List.range (15 - p % 16)).map (fun i => readPage s a (p + 1 + i))
    if later.all (· == .erased) then nextPage a p else (16 * (p / 16) + 16) % a.pages

/-- The defective pages that run on from a page in ring order whose marker bytes are not both 0 (R157). -/
def publishedRun (s : State) : Nat → Nat → Nat
  | 0, _ => 0
  | n + 1, page =>
    match readPage s .own page with
    | .defective =>
      let b := s.arch.flash.bytes (pageAddress .own page) 2
      (if b = [0#8, 0#8] then 0 else 1) + publishedRun s n (nextPage .own page)
    | _ => 0

/-- The last assigned number after a cold start (R157). -/
def scanLastAssigned (s : State) : Nat :=
  match newestOf (areaRecords s .own) with
  | none => 0
  | some (p, r) => r.seq + publishedRun s Area.own.pages (nextPage .own p)

/-- The latest archived own sequence after a cold start (R165). -/
def scanLatest (s : State) : Nat :=
  match newestOf (areaRecords s .own) with
  | none => 0
  | some (_, r) => r.seq

/-- The lowest number of the unbroken run of sequence numbers that ends at `top` (R135). -/
def runBottom (seqs : List Nat) : Nat → Nat → Nat
  | 0, top => top
  | n + 1, top => if 0 < top ∧ seqs.contains (top - 1) then runBottom seqs n (top - 1) else top

/-- The witness state of an origin restored from its partition (R135). -/
def restoreOrigin (s : State) (o : Origin) : Origin :=
  let seqs := (areaRecords s (.part o.place)).map (fun p => p.2.seq)
  match maxList seqs with
  | none => { place := o.place, station := o.station }
  | some h => { place := o.place, station := o.station, held := h, oldest := some (runBottom seqs seqs.length h) }

/-- A ring as SCAN finds it. -/
def scanRing (s : State) (a : Area) : Ring := { writePos := scanWritePos s a, dir := scanDirectory s a }

/-- SCAN's reading of the flash: directories, write positions, last assigned and latest archived numbers, and the held
marks of the witnessed origins; a partition that is not used keeps no directory (R134, R135, R154, R157, R165). -/
def scanFlash (s : State) : State :=
  let parts := (List.range 3).map (fun i => if (originAt s i).isSome then scanRing s (.part i) else {})
  let origins := s.wit.origins.map (restoreOrigin s)
  (s.setArch { s.arch with
    own := scanRing s .own, parts := parts, lastAssigned := scanLastAssigned s, latest := scanLatest s }).setWit
    { s.wit with origins := origins }

/-! ## The own records (R94) -/

/-- The readable own records of the ring. -/
def ownRecords (s : State) : List Rec := (areaRecords s .own).map (·.2)

/-- The end of the period of a record (R94). -/
def periodEnd (r : Rec) : Nat :=
  match r.kind with
  | .halfHour => r.start + 1800
  | .day => r.start + 86400
  | .yearGeneral => yearStart (yearOf r.start + 1)
  | .yearSlot => yearStart (yearOf r.start + 1)

/-- The resume point: the latest period end among the readable own records (R94). -/
def resumePoint (recs : List Rec) : Option Nat := maxList (recs.map periodEnd)

/-- The HALF_HOUR records of a year. -/
def halfHoursOf (recs : List Rec) (year : Nat) : List HalfHour :=
  (recs.filter (fun r => r.kind == .halfHour && yearOf r.start == year)).map (fun r => halfHourOf r.start r.body)

/-- The DAY records of a year. -/
def daysOf (recs : List Rec) (year : Nat) : List DayRecord :=
  (recs.filter (fun r => r.kind == .day && yearOf r.start == year)).map (fun r => dayOf r.start r.body)

/-- Whether the ring holds the YEAR_GENERAL record of a year. -/
def yearClosed (recs : List Rec) (year : Nat) : Bool := recs.any (fun r => r.kind == .yearGeneral && yearOf r.start == year)

/-- Whether the ring holds the DAY record of the day that begins at `start`. -/
def dayClosed (recs : List Rec) (start : Nat) : Bool := recs.any (fun r => r.kind == .day && dayStart r.start == start)

/-- Whether the ring holds the YEAR_SLOT record of a slot for a year. -/
def yearSlotClosed (recs : List Rec) (year slot : Nat) : Bool :=
  recs.any (fun r => r.kind == .yearSlot && yearOf r.start == year && field r.body 0 1 == slot)

/-! ## The rebuilt values (R95 to R97) -/

/-- The FSTOP assertions by estimate: series of consecutive half-hours whose FSTOP asserted flag is set (R95). -/
def fstopSeries (hs : List HalfHour) : Nat :=
  let starts := (hs.filter (·.fstop)).map (·.start)
  starts.countP (fun t => !(decide (1800 ≤ t) && starts.contains (t - 1800)))

/-- The year tallies from the records of a year (R95). -/
def tallyYear (c : Settings) (hs : List HalfHour) (ds : List DayRecord) (y : YearUnit) : YearUnit :=
  let y1 := hs.foldl (fun u h => yearAddHalfHour c h u) (freshTallies y)
  let y2 := ds.foldl (fun u d => { yearAddDay d u with totals := u.totals.plus d.counters }) y1
  { y2 with fstops := fstopSeries hs }

/-- A record of the rebuild day added to a slot's day row: a slot that an operating record does not name counts as
invalid there (R97). -/
def dayRowRebuild (slot : Nat) (d : DayRow) (h : HalfHour) : DayRow :=
  match halfHourEntryAt h slot with
  | some e => dayRowHalfHour e d
  | none =>
    if 15 ≤ h.counts.operating then { d with operating := d.operating + 1, invalid := d.invalid + 1 } else d

/-- The mean mass rate of a slot in the latest record that carries one (R97). -/
def latestRate (hs : List HalfHour) (slot : Nat) : Option Nat :=
  (hs.foldl (fun (m : Option (Nat × Nat)) h =>
    match (halfHourEntryAt h slot).bind (·.rate), m with
    | some q, none => some (h.start, q)
    | some q, some (t, p) => if t ≤ h.start then some (h.start, q) else some (t, p)
    | none, m => m) none).map (·.2)

/-- The rebuild of the year tallies, the averaging rows and the disturbance account from the own records, for a resume
point (R95 to R97, R55). -/
def rebuildFrom (recs : List Rec) (resume : Nat) (s : State) : State :=
  let half := resume - 1800
  let year := yearOf half
  let day := dayStart half
  let closed := yearClosed recs year
  let hs := if closed then [] else halfHoursOf recs year
  let ds := if closed then [] else daysOf recs year
  let today := if closed || dayClosed recs day then [] else hs.filter (fun h => dayStart h.start == day)
  let run := ((recs.find? (fun r => r.kind == .halfHour && r.start == half)).map
    (fun r => (halfHourOf r.start r.body).runAtClose)).getD 0
  let total := (hs.map (·.disturbed)).sum
  let longest := (maxList (hs.map (fun h => max h.runAtClose h.disturbed))).getD 0
  let s1 := s.setYear (tallyYear s.cfg hs ds s.year)
  let s2 := s1.setAvg { s1.avg with
    rows := s1.avg.rows.map (fun r =>
      { r with day := today.foldl (dayRowRebuild r.slot) {}, rate := latestRate hs r.slot }) }
  s2.setLine (restoredAccount s.cfg run total longest)

/-! ## Pending closes and the own witness floor (R98, R140) -/

/-- Whether a time is 1 January 00:00. -/
def isYearStart (t : Nat) : Bool := yearStart (yearOf t) == t

/-- The YEAR_SLOT records that the ring lacks of a closed year, from tallies rebuilt with the YEAR_GENERAL record
disregarded; then the tallies are 0 (R98). -/
def missingYearSlots (recs : List Rec) (year : Nat) (s : State) : State :=
  let y := tallyYear s.cfg (halfHoursOf recs year) (daysOf recs year) s.year
  let s1 := (y.rows.filter (fun r => !yearSlotClosed recs year r.slot)).foldl (appendYearSlot s.cfg year) s
  s1.setYear (freshTallies s1.year)

/-- The day and year closes that the resume point leaves pending (R98). -/
def pendingCloses (recs : List Rec) (resume : Nat) (s : State) : State :=
  let half := resume - 1800
  let year := yearOf half
  let closed := yearClosed recs year
  let s1 := if resume % 86400 = 0 ∧ dayClosed recs (dayStart half) = false ∧ closed = false then closeDay resume s else s
  if isYearStart resume then
    if closed then missingYearSlots recs year s1 else closeYear resume s1
  else s1

/-- The own witness floor and the year start sequence for an open year Y (R140). -/
def findFloor (recs : List Rec) (latest : Nat) (year : Nat) : Nat × Option Nat :=
  (((minList ((recs.filter (fun r => decide (year ≤ yearOf r.start + 1))).map (·.seq))).getD (latest + 1)),
    minList ((recs.filter (fun r => decide (year ≤ yearOf r.start))).map (·.seq)))

/-- Set the open year, and find the own witness floor and the year start sequence for it (R140, R162). -/
def openYearAt (recs : List Rec) (year : Nat) (s : State) : State :=
  let (floor, start) := findFloor recs s.arch.latest year
  (s.setYear { s.year with openYear := some year }).setWit { s.wit with ownFloor := floor, yearStart := start }

/-- Starting values, when the first half-hour to be closed does not begin at the resume point (R99). The own witness
floor and the year start sequence are found from the own pages in the same act, also while a flash operation is in
flight (DESIGN CHOICE: log entry 49). -/
def startingValues (half : Nat) (s : State) : State :=
  let s1 := s.setYear (freshTallies s.year)
  let s2 := s1.setAvg { s1.avg with rows := s1.avg.rows.map (fun r => { r with day := {}, rate := none }) }
  let s3 := s2.setLine { s2.line with run := 0, yearTotal := 0, longest := 0, fstop := false, warned := false }
  retentionTest (openYearAt (ownRecords s3) (yearOf half) s3)

/-- The comparison of the first half-hour to be closed with the resume point, once after a cold start (R99). -/
def compareResume (half : Nat) (s : State) : State :=
  if s.year.compareDue then
    let s1 := s.setYear { s.year with compareDue := false }
    if s.year.resume = some half then s1 else startingValues half s1
  else s

end Sys2Proof.Machine
end

