-- ==== Sys2Proof/Machine/Timebase.lean ====
section
/-! DEFINITION. The timebase: the tick, plant time, agreement rounds and steps, establishment, the closing of a minute,
catch-up and its end (chapter 6). -/

namespace Sys2Proof.Machine

/-! ## Due minutes and the stations the timebase asks for -/

/-- Whether a minute is due: plant time is at or after T_c + 60 s (R103). -/
def minuteDue (t : Timebase) : Bool :=
  match t.plant, t.closed with
  | some p, some c => decide ((c + 60) * Config.ticksPerSecond ≤ p)
  | _, _ => false

/-- Whether two or more minutes are due (R106). -/
def twoDue (t : Timebase) : Bool :=
  match t.plant, t.closed with
  | some p, some c => decide ((c + 120) * Config.ticksPerSecond ≤ p)
  | _, _ => false

/-- CATCH_UP or RECORDING. -/
def running (s : State) : Bool := s.supply.station == some .catchUp || s.supply.station == some .recording

/-- RUNNING or FROZEN. -/
def timeKnown (s : State) : Bool := s.tb.state != .unset

/-- FROZEN passes to RUNNING when plant time reaches T_c + 60 s; the state is kept through HOLD (R102), and in reset the
timebase does not act (R179). -/
def thaw (s : State) : State :=
  if s.tb.state = .frozen ∧ minuteDue s.tb = true ∧ s.supply.station ≠ some .hold ∧ inReset s = false then
    s.setTb { s.tb with state := .running }
  else s

/-- A catch-up begins when two or more minutes are due at once (R106). -/
def beginCatchUp (s : State) : State :=
  if running s ∧ s.tb.state = .running ∧ twoDue s.tb = true then s.setTb { s.tb with catchUp := true } else s

/-! ## Counting time (R101, R108) -/

/-- The actions of a whole second that plant time passes (R107, R111, R145). -/
def duesOf (own second : Nat) : Dues :=
  { time := second % 10 == own % 10, presence := second % 60 == 2 * own % 60, round := second % 60 == 30 }

/-- Plant time counts one tick, staying at the upper end; a whole second passed makes its actions due, unless a
correction of a round has put it back after they were taken (R101, R108). Only counting makes actions due: a step that
lands exactly on a whole second takes none of them (DESIGN CHOICE: log entry 39). -/
def countPlant (own : Nat) (t : Timebase) (p : Nat) : Timebase :=
  if Config.plantTimeEnd ≤ p then { t with dues := {} }
  else
    let q := p + 1
    if q % Config.ticksPerSecond = 0 then
      let sec := q / Config.ticksPerSecond
      if t.taken = some sec then { t with plant := some q, dues := {}, taken := none }
      else { t with plant := some q, dues := duesOf own sec, taken := none }
    else { t with plant := some q, dues := {} }

/-- Without a plant time, PRESENCE falls due every 60 s of elapsed time from the moment the port became ACTIVE (R145). -/
def elapsedDues (s : State) : Dues :=
  let n := since s s.port.activeSince
  { presence := receives s && decide (0 < n) && n % Config.ticksPerMinute == 0 }

/-- One tick of 1/1024 s: elapsed time and plant time count (R101, R141; log entry 1). -/
def tick (s : State) : State :=
  let s1 := s.setElapsed (s.elapsed + 1)
  let s2 := match s1.tb.plant with
    | some p => s1.setTb (countPlant s1.cfg.own s1.tb p)
    | none => s1.setTb { s1.tb with dues := elapsedDues s1 }
  beginCatchUp (thaw s2)

/-! ## The end of a catch-up and the entry into RECORDING (R105, R106, R181) -/

/-- RECORDING begins: the sampled minute is the later of T_c and the minute plant time is in, output is permitted, and
the witness unit tests its GAP conditions (R48, R105, R141, R181). -/
def enterRecording (s : State) : State :=
  let s1 := s.setSupply { s.supply with station := some .recording, output := true }
  testGaps (s1.setTb { s1.tb with sampled := some (max (s1.tb.closed.getD 0) (minuteOfTicks (s1.tb.plant.getD 0))) })

/-- A catch-up ends when no minute is due: the gap list is emptied, and CATCH_UP passes to RECORDING (R106). -/
def endCatchUp (s : State) : State :=
  if s.tb.catchUp = true ∧ minuteDue s.tb = false then
    let s1 := s.setTb { s.tb with gaps := [], catchUp := false }
    if s1.supply.station = some .catchUp then enterRecording s1 else s1
  else s

/-- An entry joins the gap list, unless it would carry the same kind as the entry before it (R105). -/
def addGap (fromTime : Nat) (k : CloseKind) (l : List GapEntry) : List GapEntry :=
  match l.getLast? with
  | some e => if e.kind = k then l else l ++ [⟨fromTime, k⟩]
  | none => [⟨fromTime, k⟩]

/-- T_c, the gap list and the timebase state on entering CATCH_UP after a cold start (R116). -/
def resumeTimebase (resume : Option Nat) (t : Timebase) : Timebase :=
  let p := t.plant.getD 0
  let fresh : Timebase :=
    { t with closed := some (minuteOfTicks p), gaps := [⟨minuteOfTicks p, .powerLoss⟩], state := .running, sampled := none }
  match resume with
  | none => fresh
  | some r =>
    let t1 : Timebase := { t with closed := some r, gaps := [⟨r, .powerLoss⟩], sampled := none }
    if p < r * Config.ticksPerSecond then { t1 with state := .frozen }
    else if r - 1800 < yearStart (yearOf (secondsOf p) - 1) then fresh
    else { t1 with state := .running }

/-- CATCH_UP is entered after a cold start (R116, R175); a catch-up without a due minute ends at once (R106). -/
def enterCatchUp (s : State) : State :=
  let s1 := portOn (s.setSupply { s.supply with station := some .catchUp })
  endCatchUp (s1.setTb { resumeTimebase s1.year.resume s1.tb with catchUp := true })

/-! ## Offsets (R109, R110) -/

/-- A newer offset of a station replaces the older one (R109). -/
def storeOffset (e : OffsetEntry) (l : List OffsetEntry) : List OffsetEntry :=
  l.filter (fun x => x.station != e.station) ++ [e]

/-- An entry after plant time has changed by c ticks (R110). -/
def shiftEntry (c : Int) (e : OffsetEntry) : OffsetEntry := { e with offset := e.offset - c, receipt := e.receipt + c }

/-- Plant time changed by c ticks, and the stored offsets and receipt times with it (R110). -/
def shiftTime (c : Int) (t : Timebase) : Timebase :=
  { t with
    plant := t.plant.map (fun p => ((p : Int) + c).toNat)
    peers := t.peers.map (shiftEntry c)
    reference := t.reference.map (shiftEntry c) }

/-- An entry is fresh when its receipt time lies within the last 60 s of plant time (R109). -/
def freshEntry (plant : Nat) (e : OffsetEntry) : Bool :=
  decide (e.receipt ≤ plant) && decide ((plant : Int) ≤ e.receipt + Config.ticksPerMinute)

/-! ## Agreement rounds (R111, R112) -/

/-- The target of a round, and whether it is a reference round (R111). -/
def roundTarget (t : Timebase) : Option (Int × Bool) :=
  let p := t.plant.getD 0
  match t.reference.filter (freshEntry p) with
  | some e => some (e.offset, true)
  | none =>
    match (t.peers.filter (freshEntry p)).map (·.offset) with
    | [] => none
    | l => (lowerMiddle (0 :: l)).map (fun x => (x, false))

/-- Whether a step is refused: over 24 hours, or to a plant time outside its range (R112). -/
def stepRefused (t : Timebase) (c : Int) : Bool :=
  decide (Config.ticksPerDay < c.natAbs) || decide ((t.plant.getD 0 : Int) + c < 0)
    || decide ((Config.plantTimeEnd : Int) < (t.plant.getD 0 : Int) + c)

/-- A correction of at most 256 ticks; the second it falls on is not taken again (R108, R111). -/
def correct (c : Int) (t : Timebase) : Timebase :=
  { shiftTime c t with taken := if c < 0 then t.plant.map secondsOf else t.taken }

/-- A step applied or refused is one clock step and raises CLOCK (R112). -/
def reportStep (s : State) : State := raiseCause .clock (countUp .clockSteps 1 s)

/-- A forward step (R113): a step that makes a minute due begins a catch-up with a TIMEGAP entry, and ends a freeze. -/
def forwardStep (t : Timebase) : Timebase :=
  if minuteDue t then
    { t with gaps := addGap (t.closed.getD 0 + 60) .timegap t.gaps, catchUp := true, state := .running }
  else t

/-- A backward step (R114): plant time before T_c makes the timebase FROZEN. -/
def backwardStep (t : Timebase) : Timebase :=
  if t.plant.getD 0 < t.closed.getD 0 * Config.ticksPerSecond then { t with state := .frozen } else t

/-- A step by c ticks, unless it is refused (R112 to R114); the step count becomes 0. A forward step that makes a minute
due sets the samples of the minute at T_c aside (R113). The whole second that a step lands
on is not passed by it, and its actions are not taken (R108; DESIGN CHOICE: log entry 39). -/
def applyStep (c : Int) (s : State) : State :=
  let t := { s.tb with stepCount := 0 }
  if stepRefused t c then reportStep (s.setTb t)
  else
    let t1 := shiftTime c t
    let s1 := if 0 ≤ c ∧ minuteDue t1 = true then setSamplesAside s else s
    reportStep (s1.setTb (if 0 ≤ c then forwardStep t1 else backwardStep t1))

/-- The step count of a peer round whose target is 2,048 ticks or more (R112). -/
def countedSteps (t : Timebase) (c : Int) : Nat :=
  if 0 < t.stepCount ∧ t.stepNegative = decide (c < 0) then t.stepCount + 1 else 1

/-- 256 ticks in the target's direction (R111). -/
def quarter (c : Int) : Int := if c < 0 then -256 else 256

/-- What a round does with its target (R111, R112). -/
def roundAction (c : Int) (reference : Bool) (s : State) : State :=
  if c.natAbs ≤ 256 then s.setTb (correct c { s.tb with stepCount := 0 })
  else if c.natAbs ≤ 2047 then s.setTb (correct (quarter c) { s.tb with stepCount := 0 })
  else if reference then applyStep c s
  else
    let n := countedSteps s.tb c
    if 3 ≤ n then applyStep c s
    else s.setTb (correct (quarter c) { s.tb with stepCount := n, stepNegative := decide (c < 0) })

/-- One agreement round (R111): without a fresh entry there is no correction and the step count becomes 0. -/
def agreementRound (s : State) : State :=
  match roundTarget s.tb with
  | some (c, reference) => roundAction c reference s
  | none => s.setTb { s.tb with stepCount := 0 }

/-- AGREEMENT_ROUND: when plant time passes second 30, in RECORDING, RUNNING or FROZEN, with no catch-up in progress
(R108, R111). -/
def execAgreementRound (s : State) : Host.Outcome State Fault Refusal :=
  if s.tb.dues.round = true ∧ s.supply.station = some .recording ∧ timeKnown s = true ∧ s.tb.catchUp = false then
    .next (agreementRound (s.setTb { s.tb with dues := { s.tb.dues with round := false } }))
  else .next s

/-! ## TIME telegrams (R107, R109, R115) -/

/-- TIME_SEND: when plant time passes a second of the part's series, RUNNING or FROZEN, in CATCH_UP or RECORDING, a TIME
telegram with the reference flag clear is placed (R107). -/
def execTimeSend (s : State) : Host.Outcome State Fault Refusal :=
  if s.tb.dues.time = true ∧ running s = true ∧ timeKnown s = true then
    let s1 := s.setTb { s.tb with dues := { s.tb.dues with time := false } }
    .next (s1.setPort { s1.port with timeQ := s1.port.timeQ.place (isOnLine s1.port .time) false })
  else .next s

/-- A time is adopted from UNSET: RUNNING, the stored times and the window dropped, the validity flag set, the step
count 0, and CATCH_UP entered, in which the flash has its first idle event (R115, R116, R153). -/
def adopt (time : Nat) (s : State) : State :=
  let s1 := s.setTb { s.tb with
    plant := some (min Config.plantTimeEnd time), state := .running, stored := [], window := none, stepCount := 0 }
  flashIdle (enterCatchUp (s1.setSupply { s1.supply with clockValid := true }))

/-- A TIME telegram in TIME_UNSET (R115). -/
def collectTime (sender time : Nat) (reference : Bool) (s : State) : State :=
  match stationKind s.cfg sender with
  | .terminal => if reference then adopt (time + 2) s else s
  | .recorder =>
    s.setTb { s.tb with
      stored := s.tb.stored.filter (fun x => x.station != sender) ++ [⟨sender, time + 2, s.elapsed⟩]
      window := some (s.tb.window.getD s.elapsed) }
  | _ => s

/-- A TIME telegram in CATCH_UP or RECORDING: the offset is the send time plus 2 ticks, less the part's own plant time
(R109). -/
def takeOffset (sender time : Nat) (reference : Bool) (s : State) : State :=
  let own := s.tb.plant.getD 0
  let e : OffsetEntry := ⟨sender, (time : Int) + 2 - own, own⟩
  match stationKind s.cfg sender with
  | .recorder => s.setTb { s.tb with peers := storeOffset e s.tb.peers }
  | .terminal => if reference then s.setTb { s.tb with reference := some e } else s
  | _ => s

/-- The timebase takes a TIME telegram in, or not (R109, R115). -/
def takeTime (sender : BitVec 5) (seconds : BitVec 32) (ticks : BitVec 16) (reference : Bool) (s : State) : State :=
  let time := timeTicks seconds ticks
  if Config.plantTimeEnd < time then s
  else if s.supply.station = some .timeUnset then collectTime sender.toNat time reference s
  else if running s ∧ timeKnown s then takeOffset sender.toNat time reference s
  else s

/-- RECEIVE_TIME (R109, R115). -/
def execReceiveTime (sender : BitVec 5) (seconds : BitVec 32) (ticks : BitVec 16) (reference : Bool) (s : State) :
    Host.Outcome State Fault Refusal :=
  .next (deliver sender true (takeTime sender seconds ticks reference) s)

/-- The present time of a stored sender: its stored time and the ticks since its receipt (R115). -/
def presentTime (s : State) (x : StoredTime) : Int := (x.time : Int) + since s x.at_

/-- ESTABLISHMENT_WINDOW_END: 20 s of the free count after the first stored time, the middle of the present times is
adopted (R115). -/
def execEstablishmentWindowEnd (s : State) : Host.Outcome State Fault Refusal :=
  match s.tb.window, lowerMiddle (s.tb.stored.map (presentTime s)) with
  | some w, some t =>
    if s.supply.station = some .timeUnset ∧ 20 * Config.ticksPerSecond ≤ since s w then
      .next (adopt t.toNat s)
    else .next s
  | _, _ => .next s

/-! ## The closing (R103 to R106) -/

/-- The close kind of a minute (R105). -/
def closeKind (t : Timebase) (minute : Nat) : CloseKind :=
  if t.sampled = some minute then .withSamples
  else match (t.gaps.filter (fun e => decide (e.fromTime ≤ minute))).getLast? with
    | some e => e.kind
    | none => .withSamples

/-- The room a boundary needs in the outbound record queue, by the end of the open minute (R106). -/
def roomNeeded (boundary : Nat) : Nat :=
  if boundary % 1800 ≠ 0 then 0
  else if boundary % 86400 ≠ 0 then 1
  else if isYearStart boundary then 13 else 2

/-- Whether a boundary has the room it needs: asked only in a catch-up, and not in RING_FULL or FAULT (R106). -/
def roomFor (s : State) (boundary : Nat) : Bool :=
  !s.tb.catchUp || s.arch.state != .ready
    || decide (s.arch.outbound.length + roomNeeded boundary ≤ Config.outboundMax)

/-- The minute that plant time was in when HOLD was entered: the HOLD entry of the gap list begins at its end (R117). -/
def heldMinute (t : Timebase) : Option Nat :=
  (t.gaps.find? (fun e => e.kind == .hold)).map (fun e => e.fromTime - 60)

/-- The sampled minute after the sampled minute has closed: in RECORDING the minute that plant time is in, or T_c if later,
and absent otherwise (R105). When the close takes samples that a forward step set aside, HOLD having come before it, the
accumulators still hold those of the minute at HOLD entry, which then closes with them (R17, R117; DESIGN CHOICE: log
entry 55). -/
def nextSampled (minute : Nat) (s : State) : Option Nat :=
  if s.supply.station = some .recording then some (max (minute + 60) (minuteOfTicks (s.tb.plant.getD 0)))
  else if s.minutes.setAside.isSome then heldMinute s.tb
  else none

/-- Stage 1: the minute beginning at `minute` is closed, T_c moves to its end, and the sampled minute with it (R21,
R104, R105). -/
def minuteStage (minute : Nat) (s : State) : State :=
  let s1 := closeNumbered (minute % 1800 / 60) (closeKind s.tb minute) s
  s1.setTb { s1.tb with
    closed := some (minute + 60)
    sampled := if s.tb.sampled = some minute then nextSampled minute s else s.tb.sampled }

/-- Stages 2 to 4, each when its boundary falls at the end of the minute closed (R104). -/
def periodStages (boundary : Nat) (s : State) : State :=
  let s1 := if boundary % 1800 = 0 then closeHalfHour boundary s else s
  let s2 := if boundary % 86400 = 0 then closeDay boundary s1 else s1
  if isYearStart boundary then closeYear boundary s2 else s2

/-- One whole closing of the minute beginning at `minute` (R99, R104). -/
def closing (minute : Nat) (s : State) : State :=
  periodStages (minute + 60) (minuteStage minute (compareResume (halfHourStart minute) s))

/-- MINUTE_BOUNDARY: when the open minute is due in RUNNING, in CATCH_UP or RECORDING, and the room of a catch-up
suffices, its closing runs; then the flash has work, and a catch-up without a due minute ends (R103, R104, R106). -/
def execMinuteBoundary (s : State) : Host.Outcome State Fault Refusal :=
  match s.tb.closed with
  | none => .next s
  | some c =>
    if running s ∧ s.tb.state = .running ∧ minuteDue s.tb ∧ roomFor s (c + 60) then
      .next (endCatchUp (flashIdle (closing c s)))
    else .next s

end Sys2Proof.Machine
end

