-- ==== Sys2Proof/Machine/Witness.lean ====
section
/-! DEFINITION. The witness unit: RECORD, MARK, GAP and PRESENCE taken in, PRESENCE and MARK announced, backfill and
GAP telegrams placed, and its expiries (chapter 8). -/

namespace Sys2Proof.Machine

/-! ## RECORD (R136, R137) -/

/-- The pool that lends the next slot to an origin: the shared pool first, then its own reservation (R136). -/
def poolFor (s : State) (o : Origin) : Option Pool :=
  if 0 < freeShared s then some .shared else if 0 < freeReserved s o then some .reserved else none

/-- A GAP whose range the expected number has passed is answered, and ends (R141). -/
def endAnswered (o : Origin) : Origin :=
  match o.gap with
  | some g => if g.first + g.count ≤ o.expected then { o with gap := none } else o
  | none => o

/-- The record is ACCEPTED: it joins the tail of the staged list, and the flash has work (R137, R138, R153). -/
def acceptRecord (o : Origin) (r : Rec) (p : Pool) (s : State) : State :=
  flashIdle (testGaps (setOrigin (endAnswered { o with staged := o.staged ++ [⟨r, p⟩] }) s))

/-- The record is REFUSED: one witness refusal (R137, station counter 4). -/
def refuseRecord (s : State) : State := testGaps (countUp .refusals 1 s)

/-- The record whose number is the expected one: REFUSED in FAULT or without a slot, ACCEPTED otherwise (R137). -/
def expectedRecord (o : Origin) (r : Rec) (s : State) : State :=
  match decide (s.arch.state = .fault), poolFor s o with
  | false, some p => acceptRecord o r p s
  | _, _ => refuseRecord s

/-- A RECORD of a witnessed origin: the known latest follows it, then the case of R137. -/
def witnessRecord (o : Origin) (r : Rec) (s : State) : State :=
  let o1 := { o with known := max o.known r.seq }
  let s1 := setOrigin o1 s
  if r.seq = o1.expected then expectedRecord o1 r s1 else testGaps s1

/-- The record that a RECORD telegram carries, when its kind is listed. -/
def recordOf (head : RecordHead) (body : List Byte) : Option Rec :=
  (recordKindOf head.kind.toNat).map (fun k =>
    { kind := k, origin := head.origin.toNat, seq := head.seq.toNat, start := head.start.toNat, body := body })

/-- Whether a RECORD has the length its kind permits (R131). -/
def recordPermitted (head : RecordHead) (body : List Byte) : Bool :=
  match recordKindOf head.kind.toNat with
  | some k => bodyLengthOk k body
  | none => false

/-- The witness unit takes a RECORD in, in RECORDING, of a witnessed origin that sent it itself (R137). -/
def takeRecord (sender : BitVec 5) (head : RecordHead) (body : List Byte) (s : State) : State :=
  match recordOf head body, originOf s sender.toNat with
  | some r, some o =>
    if s.supply.station = some .recording ∧ head.origin.toNat = sender.toNat then witnessRecord o r s else s
  | _, _ => s

/-- RECEIVE_RECORD (R137). -/
def execReceiveRecord (sender : BitVec 5) (head : RecordHead) (body : List Byte) (s : State) :
    Host.Outcome State Fault Refusal :=
  .next (deliver sender (recordPermitted head body) (takeRecord sender head body) s)

/-! ## MARK (R147 to R149) -/

/-- The witness mark table without the entries that are 10 minutes old or more (R147). -/
def youngMarks (s : State) : List WitnessMark :=
  s.wit.marks.filter (fun m => decide (since s m.at_ < 10 * Config.ticksPerMinute))

/-- The table after a report of a station: its entry replaced, or added while the table holds fewer than 7 (R147). -/
def markTable (m : WitnessMark) (l : List WitnessMark) : List WitnessMark :=
  if l.any (fun x => x.station == m.station) then l.map (fun x => if x.station = m.station then m else x)
  else if l.length < 7 then l ++ [m] else l

/-- Whether a report finds an entry or a place in the table (R147). -/
def markTaken (station : Nat) (l : List WitnessMark) : Bool :=
  l.any (fun x => x.station == station) || decide (l.length < 7)

/-- The k-th highest of some marks, equal marks counted each time (R148). -/
def kthHighest (k : Nat) (marks : List Nat) : Option Nat :=
  ((sortInts (marks.map Int.ofNat)).reverse[k - 1]?).map Int.toNat

/-- The secured mark after a report (R148). -/
def securedAfter (k latest secured : Nat) (marks : List Nat) : Nat :=
  if k = 0 then secured
  else match kthHighest k marks with
    | some m => max secured (min m latest)
    | none => secured

/-- The secured mark is updated, and the lag is tested (R148, R149). -/
def updateSecured (s : State) : State :=
  lagTest (s.setWit { s.wit with
    secured := securedAfter s.cfg.quorum s.arch.latest s.wit.secured (s.wit.marks.map (·.mark)) })

/-- A report of a RECORDER station on the part's own records (R147). -/
def ownMark (station mark : Nat) (s : State) : State :=
  let young := youngMarks s
  let s1 := s.setWit { s.wit with marks := markTable ⟨station, mark, s.elapsed⟩ young }
  if markTaken station young then updateSecured s1 else s1

/-- The witness unit takes a MARK in, in CATCH_UP or RECORDING, from a RECORDER station, when an entry names the part
(R147; log entry 31). -/
def takeMark (sender : BitVec 5) (entries : List MarkEntry) (s : State) : State :=
  if running s ∧ stationKind s.cfg sender.toNat = .recorder then
    match entries.find? (fun e => e.origin.toNat == s.cfg.own) with
    | some e => ownMark sender.toNat e.held.toNat s
    | none => s
  else s

/-- RECEIVE_MARK (R147 to R149); a MARK of more than 3 entries has a bad length (R131). -/
def execReceiveMark (sender : BitVec 5) (entries : List MarkEntry) (s : State) : Host.Outcome State Fault Refusal :=
  .next (deliver sender (decide (entries.length ≤ 3)) (takeMark sender entries) s)

/-! ## GAP (R142) -/

/-- The range of a GAP, clipped to the latest archived own sequence; none when the GAP is ignored (R142). -/
def gapRange (first count latest : Nat) : Option Backfill :=
  let last := min (first + count - 1) latest
  if first = 0 ∨ count = 0 ∨ 16 < count ∨ last < first then none else some ⟨first, last⟩

/-- Whether a range lies wholly inside what a job has still to place (R142). -/
def covers (j r : Backfill) : Bool := decide (j.next ≤ r.next) && decide (r.last ≤ j.last)

/-- A new job joins the queue; the first one of an empty queue is worked at once (R142, R143). -/
def joinBackfill (r : Backfill) (s : State) : State :=
  let s1 := s.setWit { s.wit with jobs := s.wit.jobs ++ [r] }
  if s.wit.jobs.isEmpty then flashIdle (startBackfill s1) else s1

/-- The witness unit takes a GAP in: absorbed, queued or dropped (R142). -/
def takeGap (target : BitVec 8) (first : BitVec 32) (count : BitVec 8) (s : State) : State :=
  if s.supply.station = some .recording ∧ target.toNat = s.cfg.own then
    match gapRange first.toNat count.toNat s.arch.latest with
    | some r => if s.wit.jobs.any (covers · r) then s else if s.wit.jobs.length < 4 then joinBackfill r s else s
    | none => s
  else s

/-- RECEIVE_GAP (R142). -/
def execReceiveGap (sender : BitVec 5) (target : BitVec 8) (first : BitVec 32) (count : BitVec 8) (s : State) :
    Host.Outcome State Fault Refusal :=
  .next (deliver sender true (takeGap target first count) s)

/-! ## PRESENCE taken in (R139, R170) -/

/-- The witness unit takes a PRESENCE in: known latest and floor follow it, then the floor jump and the GAP conditions
are tested (R139, R141). -/
def witnessPresence (sender : BitVec 5) (p : PresencePayload) (s : State) : State :=
  match originOf s sender.toNat with
  | some o =>
    if running s then
      flashIdle (testGaps (floorJump o.place
        (setOrigin { o with known := p.latest.toNat, floor := p.floor.toNat } s)))
    else s
  | none => s

/-- The silence count of the sender's job returns to 0 (R170). -/
def heardPresence (sender : BitVec 5) (s : State) : State :=
  s.setRetr { s.retr with
    jobs := s.retr.jobs.map (fun j => if j.terminal = sender.toNat then { j with heardAt := s.elapsed } else j) }

/-- RECEIVE_PRESENCE: to the retrieval unit and to the witness unit (R129, R139, R170). -/
def execReceivePresence (sender : BitVec 5) (payload : PresencePayload) (s : State) : Host.Outcome State Fault Refusal :=
  .next (deliver sender true (fun t => witnessPresence sender payload (heardPresence sender t)) s)

/-! ## PRESENCE and MARK placed (R145, R146) -/

/-- The PRESENCE telegram as the fields stand (R145). -/
def presenceNow (s : State) (st : Station) : PresenceTel :=
  { line := s.cfg.line
    station := st
    latest := s.arch.latest
    floor := s.wit.ownFloor
    secured := s.wit.secured
    timeState := s.tb.state
    flags := s.retr.flags }

/-- The MARK entry of a witnessed origin; without a witness state nothing of it is held (R146; log entry 17). -/
def markNow (s : State) (station : Nat) : MarkOut :=
  match originOf s station with
  | some o => ⟨station, o.held, o.oldest.getD 0⟩
  | none => ⟨station, 0, 0⟩

/-- Place a PRESENCE, and with it a MARK when the witness set is not empty (R145, R146, R122). -/
def placePresence (st : Station) (s : State) : State :=
  let p := s.port
  let p1 := { p with presenceQ := p.presenceQ.place (isOnLine p .presence) (presenceNow s st) }
  let set := witnessed s.cfg
  if set.isEmpty then s.setPort p1
  else s.setPort { p1 with markQ := p.markQ.place (isOnLine p .mark) (set.map (fun w => markNow s w.2)) }

/-- PRESENCE_SEND: once a minute, while the port is not OFF (R145, R146, R108). -/
def execPresenceSend (s : State) : Host.Outcome State Fault Refusal :=
  match s.supply.station with
  | some st =>
    if s.tb.dues.presence = true ∧ receives s = true then
      .next (placePresence st (s.setTb { s.tb with dues := { s.tb.dues with presence := false } }))
    else .next s
  | none => .next s

/-! ## Backfill and GAP telegrams placed (R122, R141, R143) -/

/-- The backfill telegram joins the RECORD queue, and the job goes on (R143). -/
def placeBackfill (r : Rec) (s : State) : State :=
  flashIdle (advanceBackfill (s.setPort { s.port with recordQ := s.port.recordQ ++ [⟨r, true⟩] }))

/-- BACKFILL_PLACE: in CATCH_UP or RECORDING, with room in the RECORD queue and when the job has waited longest (R143,
R122). -/
def execBackfillPlace (s : State) : Host.Outcome State Fault Refusal :=
  match s.wit.work with
  | .ready r t =>
    if backfillWorked s ∧ s.port.recordQ.length < 4 ∧ longestWaiting t (releaseTickets s) then .next (placeBackfill r s)
    else .next s
  | _ => .next s

/-- Whether telegrams are placed in this station state: not in HOLD nor in reset (R150, R179). -/
def placesTelegrams (s : State) : Bool := s.supply.station.isSome && s.supply.station != some .hold

/-- The GAP of an origin that waits for room, with its ticket. -/
def waitingGap (o : Origin) : Option (Gap × Nat) :=
  match o.gap with
  | some g => match g.phase with
    | .waiting t => some (g, t)
    | _ => none
  | none => none

/-- A waiting GAP joins the GAP queue (R141). -/
def placeGap (o : Origin) (g : Gap) (s : State) : State :=
  (setOrigin { o with gap := some { g with phase := .queued } } s).setPort
    { s.port with gapQ := s.port.gapQ ++ [⟨o.station, g.first, g.count⟩] }

/-- GAP_PLACE: with room in the GAP queue, when this origin's GAP has waited longest (R141, R122). -/
def execGapPlace (origin : BitVec 5) (s : State) : Host.Outcome State Fault Refusal :=
  match originOf s origin.toNat with
  | some o =>
    match waitingGap o with
    | some (g, t) =>
      if placesTelegrams s ∧ s.port.gapQ.length < 2 ∧ longestWaiting t (gapTickets s) then .next (placeGap o g s)
      else .next s
    | none => .next s
  | none => .next s

/-! ## Expiries (R141, R147, R149) -/

/-- The elapsed time at which the GAP of an origin was transmitted. -/
def gapSentAt (o : Origin) : Option Nat :=
  match o.gap with
  | some g => match g.phase with
    | .sent t => some t
    | _ => none
  | none => none

/-- Whether the GAP of an origin is 10 s old since its transmission (R141). -/
def gapExpired (s : State) (o : Origin) : Bool :=
  match gapSentAt o with
  | some t => decide (10 * Config.ticksPerSecond ≤ since s t)
  | none => false

/-- GAP_EXPIRY: 10 s of elapsed time after its transmission the GAP ends, and the conditions are tested again (R141); not
in reset (R179; log entry 29). -/
def execGapExpiry (origin : BitVec 5) (s : State) : Host.Outcome State Fault Refusal :=
  match originOf s origin.toNat with
  | some o => if inReset s = false ∧ gapExpired s o = true then .next (testGaps (setOrigin { o with gap := none } s)) else .next s
  | none => .next s

/-- MARK_ENTRY_EXPIRY: an entry that is 10 minutes old or more is removed (R147); not in reset (R179; log entry 29). -/
def execMarkEntryExpiry (station : BitVec 5) (s : State) : Host.Outcome State Fault Refusal :=
  if inReset s then .next s
  else .next (s.setWit { s.wit with
    marks := s.wit.marks.filter (fun m =>
      !(decide (m.station = station.toNat) && decide (10 * Config.ticksPerMinute ≤ since s m.at_))) })

/-- WITNESS_LAG_HOLDOFF_END: ten minutes after the end of SCAN the lag test begins to be made (R149; log entry 15); not
in reset (R179; log entry 29). -/
def execWitnessLagHoldoffEnd (s : State) : Host.Outcome State Fault Refusal :=
  if inReset s = false ∧ lagTestOn s = true then .next (s.setWit { s.wit with lagHoldoff := none }) else .next s

end Sys2Proof.Machine
end

