-- ==== Sys2Proof/Machine/Retrieval.lean ====
section
/-! DEFINITION. The retrieval unit: queries taken, jobs admitted and their answers placed, the CONDITION snapshot,
CLEAR_ATTENTION (chapter 10). -/

namespace Sys2Proof.Machine

/-! ## Taking a query (R166) -/

/-- READ, READ_YEAR and CLEAR_ATTENTION are taken in TIME_UNSET and RECORDING (R166). -/
def takesReads (s : State) : Bool := s.supply.station == some .timeUnset || s.supply.station == some .recording

/-- CONFIG_BLOCK and CONFIG_COMMIT are taken in COMMISSION (R166). -/
def takesConfig (s : State) : Bool := s.supply.station == some .commission

/-- A query reaches the retrieval unit when its target is the part; it is dropped while the pending answer list holds 4
entries, answered REFUSED(STATE) where its kind is not taken, and otherwise acted on (R129, R166). -/
def query (head : QueryHead) (permitted taken : Bool) (act : State → State) (s : State) : State :=
  deliver head.terminal permitted (fun t =>
    if head.target.toNat ≠ t.cfg.own then t
    else if 4 ≤ answersHeld t then t
    else if taken then act t
    else addAnswer head.terminal.toNat head.tag (.refused .state) t) s

/-! ## Admitting jobs (R167, R169) -/

/-- A job joins the list and works its first sequence; its read may be served at once (R167, R168, R153). -/
def startJob (j : Job) (s : State) : State :=
  flashIdle (workJob j (s.setRetr { s.retr with jobs := s.retr.jobs ++ [j] }))

/-- The admission of a job: REFUSED(ORIGIN), replacement of the terminal's job, BUSY, or a new job (R167). -/
def admitJob (j : Job) (s : State) : State :=
  if areaOf s j.origin = none then addAnswer j.terminal j.tag (.refused .origin) s
  else if (jobOf s j.terminal).isSome then startJob j (removeJob j.terminal s)
  else if 2 ≤ s.retr.jobs.length then addAnswer j.terminal j.tag .busy s
  else startJob j s

/-- The job that a READ makes: FOLLOW for a count of 0, else READ with the count clamped to 4,096 (R167). -/
def readJob (head : QueryHead) (origin : BitVec 8) (first : BitVec 32) (count : BitVec 16) (now : Nat) : Job :=
  { terminal := head.terminal.toNat
    tag := head.tag
    origin := origin.toNat
    kind := if count.toNat = 0 then .follow else .read
    next := first.toNat
    last := if count.toNat = 0 then none else some (first.toNat + min 4096 count.toNat - 1)
    heardAt := now }

/-- READ (R166 to R168). -/
def execRead (head : QueryHead) (origin : BitVec 8) (first : BitVec 32) (count : BitVec 16) (s : State) :
    Host.Outcome State Fault Refusal :=
  .next (query head true (takesReads s) (admitJob (readJob head origin first count s.elapsed)) s)

/-- The directory entries of the sectors that hold a record page, from S back to the oldest, S being the last whose
first year is Y or earlier (R169). -/
def sectorsUpTo (year : Nat) (l : List (Nat × DirEntry)) : List DirEntry :=
  (l.map (·.2)).reverse.dropWhile (fun e => decide (year < e.firstYear.getD 0))

/-- The first sequence of the range, moved back over the sectors before S, one whole sector at a time, until those
taken hold 10 record pages or the oldest has been taken (R169). -/
def rangeStart (taken first : Nat) : List DirEntry → Nat
  | [] => first
  | e :: r => if taken < 10 then rangeStart (taken + e.records) (e.firstSeq.getD first) r else first

/-- The range of a READ_YEAR in an area, from its sector directory: up to the highest sequence that S holds; none when
the year records are not held (R169; log entry 46). -/
def yearRange (year : Nat) (l : List (Nat × DirEntry)) : Option (Nat × Nat) :=
  match sectorsUpTo year l with
  | [] => none
  | e :: before =>
    if e.lastYear.getD 0 < year then none
    else some (rangeStart 0 (e.firstSeq.getD 0) before, e.highSeq.getD 0)

/-- The range of a READ_YEAR for an origin. -/
def yearRangeOf (s : State) (origin year : Nat) : Option (Nat × Nat) :=
  match areaOf s origin with
  | some a => yearRange year (recordSectors (ringOf s a))
  | none => none

/-- The job that a READ_YEAR makes; without a range it has no sequence to work (R169). -/
def yearJob (head : QueryHead) (origin year : BitVec 8) (s : State) : Job :=
  let range := (yearRangeOf s origin.toNat (yearField year)).getD (1, 0)
  { terminal := head.terminal.toNat
    tag := head.tag
    origin := origin.toNat
    kind := .readYear (yearField year)
    next := range.1
    last := some range.2
    heardAt := s.elapsed }

/-- READ_YEAR (R166, R167, R169). -/
def execReadYear (head : QueryHead) (origin year : BitVec 8) (s : State) : Host.Outcome State Fault Refusal :=
  .next (query head true (takesReads s) (admitJob (yearJob head origin year s)) s)

/-! ## CONDITION and CLEAR_ATTENTION (R171, R172) -/

/-- CONDITION: one pending answer; its snapshot is formed when it is placed (R166, R171). -/
def execCondition (head : QueryHead) (s : State) : Host.Outcome State Fault Refusal :=
  .next (query head true true (addAnswer head.terminal.toNat head.tag .condition) s)

/-- The named flags are cleared, and a CLEARED answer carries the flags just after (R172). -/
def clearAttention (head : QueryHead) (causes : BitVec 16) (s : State) : State :=
  let flags := clearFlags s.retr.flags causes
  addAnswer head.terminal.toNat head.tag (.cleared flags) (s.setRetr { s.retr with flags := flags })

/-- CLEAR_ATTENTION (R166, R172). -/
def execClearAttention (head : QueryHead) (causes : BitVec 16) (s : State) : Host.Outcome State Fault Refusal :=
  .next (query head true (takesReads s) (clearAttention head causes) s)

/-- The bytes of a signed 3-byte value of a minute. -/
def MinuteValue.bytes : MinuteValue → List Byte
  | .analogue v => be3Signed v
  | .binary b => beBytes 3 b.toNat

/-- A current minute entry (7.7.3): the slot's entry in the last closed minute, and its open-minute counts (R18, R39). -/
def minuteEntryBytes (slot : Nat) (a : Acc) (e : Option MinuteEntry) : List Byte :=
  let f := (e.map (·.flags)).getD {}
  let value := e.bind (·.value)
  let std := e.bind (·.std)
  beBytes 1 (slot + 16 * ((e.map (·.status.code)).getD 0))
  ++ beBytes 1 (flagByte [f.overrange, f.h2oSubst, f.o2Clamp, f.h2oClamp, f.saturated, value.isSome, std.isSome])
  ++ beBytes 1 a.taken ++ beBytes 1 a.valid ++ beBytes 2 a.excess
  ++ (value.map MinuteValue.bytes).getD [] ++ (std.map be3Signed).getD []

/-- An entry of the last half-hour results in the snapshot (R72, 7.7.3). Bits 6 and 7, mass and mean mass rate present,
are 0: the results hold no mass (DESIGN CHOICE: log entry 41). -/
def lastEntryBytes (e : LastEntry) : List Byte := beBytes 1 (e.slot + 16 * e.status.code) ++ beBytes 3 (e.validated.getD 0)

/-- The slots in use that a snapshot shows: none in UNCONFIGURED and COMMISSION (R171). -/
def shownSlots (s : State) : List (Nat × Slot) :=
  if s.supply.station = some .unconfigured ∨ s.supply.station = some .commission then [] else slotsInUse s.cfg

/-- The CONDITION snapshot as the part stands (R171, 7.7.3). -/
def snapshot (s : State) : List Byte :=
  let p := if s.tb.state = .unset then 0 else s.tb.plant.getD 0
  let station := (s.supply.station.map Station.code).getD 0
  let slots := shownSlots s
  let entry (i : Nat) : Option MinuteEntry := s.minutes.last.bind (fun r => entryAt r.entries i)
  beBytes 4 (secondsOf p) ++ beBytes 2 (p % Config.ticksPerSecond)
  ++ beBytes 1 (station + 8 * s.tb.state.code + 32 * s.arch.state.code + 128 * s.line.fstop.toNat)
  ++ beBytes 3 s.line.run ++ beBytes 3 s.line.yearTotal ++ beBytes 2 s.retr.flags.toNat
  ++ beBytes 1 s.arch.outbound.length ++ beBytes 1 (stagingUsed s)
  ++ beBytes 1 ((s.minutes.last.map (·.opState.code)).getD 0 + 8 * slots.length)
  ++ beBytes 4 ((s.avg.last.map (·.start)).getD 0) ++ beBytes 1 ((s.avg.last.map (·.entries.length)).getD 0)
  ++ ((s.avg.last.map (·.entries)).getD []).flatMap lastEntryBytes
  ++ slots.flatMap (fun q => minuteEntryBytes q.1 (s.accs.getD q.1 {}) (entry q.1))

/-! ## Placing answers (R122, R166, R168) -/

/-- The answer that a pending entry becomes when it is placed. -/
def PendingBody.answer (b : PendingBody) (s : State) : Answer :=
  match b with
  | .busy => .busy
  | .refused r => .refused r
  | .condition => .condition (snapshot s)
  | .cleared f => .cleared f
  | .configResult r off => .configResult r off

/-- An answer joins the ANSWER queue. -/
def placeAnswer (t : AnswerTel) (s : State) : State := s.setPort { s.port with answerQ := s.port.answerQ ++ [t] }

/-- The tickets of the jobs that wait with an answer, other than that of one terminal. -/
def jobTickets (s : State) (except : Option Nat) : List Nat :=
  s.retr.jobs.filterMap (fun j =>
    match j.work with
    | .ready _ _ t => if except = some j.terminal then none else some t
    | _ => none)

/-- PENDING_ANSWER_PLACE: with room in the ANSWER queue, the oldest pending answer is placed when it has waited longest
(R166, R122). -/
def execPendingAnswerPlace (s : State) : Host.Outcome State Fault Refusal :=
  match s.retr.answers with
  | [] => .next s
  | a :: r =>
    if placesTelegrams s ∧ s.port.answerQ.length < 4 ∧ longestWaiting a.ticket (jobTickets s none) then
      .next (placeAnswer ⟨a.terminal, a.tag, a.body.answer s⟩ (s.setRetr { s.retr with answers := r }))
    else .next s

/-- Whether jobs are worked: in TIME_UNSET, CATCH_UP and RECORDING (R167). -/
def jobsWorked (s : State) : Bool := operationsOn s

/-- JOB_ANSWER_PLACE: with room in the ANSWER queue, the job's answer is placed when it has waited longest, and the job
works its next sequence or ends (R168, R122). -/
def execJobAnswerPlace (terminal : BitVec 5) (s : State) : Host.Outcome State Fault Refusal :=
  match jobOf s terminal.toNat with
  | none => .next s
  | some j =>
    match j.work with
    | .ready a skip t =>
      if jobsWorked s ∧ s.port.answerQ.length < 4
          ∧ longestWaiting t (s.retr.answers.map (·.ticket) ++ jobTickets s (some j.terminal)) then
        .next (flashIdle (afterPlaced j a skip (placeAnswer ⟨j.terminal, j.tag, a⟩ s)))
      else .next s
    | _ => .next s

/-- Whether a job has heard no PRESENCE of its terminal for 5 minutes of elapsed time (R170). -/
def jobSilent (s : State) (j : Job) : Bool := decide (5 * Config.ticksPerMinute ≤ since s j.heardAt)

/-- JOB_SILENCE_EXPIRY: a job whose terminal has been silent for 5 minutes leaves the list without an answer (R170). -/
def execJobSilenceExpiry (terminal : BitVec 5) (s : State) : Host.Outcome State Fault Refusal :=
  match jobOf s terminal.toNat with
  | none => .next s
  | some j => if jobsWorked s ∧ jobSilent s j then .next (removeJob j.terminal s) else .next s

end Sys2Proof.Machine
end

