-- ==== Sys2Proof/Machine/Supply.lean ====
section
/-! DEFINITION. The supply unit: COMMISSION and its commit, the supply-fail event, HOLD, the warm return, RESET and the
cold start (chapter 11). -/

namespace Sys2Proof.Machine

/-! ## COMMISSION (R182, R183) -/

def setStaging (b : List Byte) (s : State) : State := s.setSupply { s.supply with staging := b }

/-- Bytes put over others from a place on. -/
def overwrite (b : List Byte) (off : Nat) (data : List Byte) : List Byte :=
  b.take off ++ data ++ b.drop (off + data.length)

/-- The answer of a configuration query. -/
def configAnswer (head : QueryHead) (r : ConfigResult) (off : Nat) (s : State) : State :=
  addAnswer head.terminal.toNat head.tag (.configResult r off) s

/-- A CONFIG_BLOCK that R166 takes: BUSY, written with OK, or RANGE with the block's offset (R182). -/
def configBlock (head : QueryHead) (offset : BitVec 16) (data : List Byte) (s : State) : State :=
  if s.supply.commit ≠ .idle then addAnswer head.terminal.toNat head.tag .busy s
  else if offset.toNat + data.length ≤ Config.imageBytes then
    configAnswer head .ok 0 (setStaging (overwrite s.supply.staging offset.toNat data) s)
  else configAnswer head .range offset.toNat s

/-- CONFIG_BLOCK; a data length of 0 or over 200 is a bad length (R131, R166, R182). -/
def execConfigBlock (head : QueryHead) (offset : BitVec 16) (data : List Byte) (s : State) :
    Host.Outcome State Fault Refusal :=
  .next (query head (decide (1 ≤ data.length) && decide (data.length ≤ 200)) (takesConfig s)
    (configBlock head offset data) s)

/-- The staging image with the marker, the length and the check written into it (R183). -/
def stampedImage (b : List Byte) (length check : Nat) : List Byte :=
  overwrite b 0 ([0x3C#8, 0x5A#8] ++ beBytes 2 length ++ beBytes 2 check)

/-- The writing of a commit begins with the erase of sector 0 (R183). -/
def startCommit (head : QueryHead) (length check : BitVec 16) (s : State) : State :=
  setOp .commitErase (s.setSupply { s.supply with
    staging := stampedImage s.supply.staging length.toNat check.toNat
    commit := .inFlight head.terminal.toNat head.tag })

/-- Whether the length and the check of a commit fit the staging image (R183). -/
def commitCheckHolds (b : List Byte) (length check : BitVec 16) : Bool :=
  decide (416 ≤ length.toNat) && decide (length.toNat ≤ 1024) && check == crc16 (slice b 8 (length.toNat - 8))

/-- A CONFIG_COMMIT that R166 takes: BUSY, CHECK_FAILED, RANGE, or the writing begins (R183). -/
def configCommit (head : QueryHead) (length check : BitVec 16) (s : State) : State :=
  if s.supply.commit ≠ .idle then addAnswer head.terminal.toNat head.tag .busy s
  else if commitCheckHolds s.supply.staging length check = false then configAnswer head .checkFailed 0 s
  else match imageError s.supply.staging with
    | some off => configAnswer head .range off s
    | none => startCommit head length check s

/-- CONFIG_COMMIT (R166, R183). -/
def execConfigCommit (head : QueryHead) (length check : BitVec 16) (s : State) : Host.Outcome State Fault Refusal :=
  .next (query head true (takesConfig s) (configCommit head length check) s)

/-- The bytes of sector 0 that the image fills. -/
def storedImage (s : State) : List Byte := s.arch.flash.bytes 0 Config.imageBytes

/-- Sector 0 is left with an image whose check fails (R183; log entry 12). -/
def voidImage (s : State) : State :=
  if imageCheckHolds (storedImage s) then setFlash (s.arch.flash.program 0 [0#8, 0#8]) s else s

/-- The commit ends with its result: the commit state returns to IDLE and its answer joins the list (R183). -/
def finishCommit (r : ConfigResult) (s : State) : State :=
  match s.supply.commit with
  | .inFlight terminal tag =>
    addAnswer terminal tag (.configResult r 0) (setOp .idle (s.setSupply { s.supply with commit := .idle }))
  | .idle => setOp .idle s

/-- The bytes of a page of the staging image. -/
def imagePage (s : State) (page : Nat) : List Byte :=
  slice s.supply.staging (Config.pageBytes * page) Config.pageBytes

/-- The program of a page of the image ends, good or not (R152, R183). A failed one is one defective page (R86, station
counter 8), which the failure run does not count (R183). It leaves 0 in bytes 0 and 1 of its page, on pages 1 to 3 too,
though no page of the image has a page marker (7.7.6; DESIGN CHOICE: log entry 51). -/
def programImagePage (page : Nat) (good : Bool) (s : State) : State :=
  let s1 := programPage (Config.pageBytes * page) (imagePage s page) good s
  if good then s1 else countUp .defective 1 s1

/-- COMMIT_FLASH_COMPLETE: after a good erase or page the next page is written; a failure ends the commit with
FLASH_FAILED, and the fourth good page ends it with OK (R183). -/
def execCommitFlashComplete (good : Bool) (s : State) : Host.Outcome State Fault Refusal :=
  match s.arch.op with
  | .commitErase =>
    .next (if good then setOp (.commitPage 0) (eraseSector 0 s) else finishCommit .flashFailed (voidImage (failErase 0 s)))
  | .commitPage p =>
    let s1 := programImagePage p good s
    .next (if good then (if p < 3 then setOp (.commitPage (p + 1)) s1 else finishCommit .ok s1)
      else finishCommit .flashFailed (voidImage s1))
  | _ => .next s

/-! ## What a supply fall or a RESET does to the operation in flight (R176, R179) -/

/-- An abandoned erase is noted with its target, which still needs it (R165, R176). -/
def noteAbandoned (a : Area) (sector : Nat) (s : State) : State :=
  s.setArch { s.arch with abandoned := some (a, sector) }

/-- A page program in flight completes and is acted on; an erase in flight is abandoned; a commit is cut off with
sector 0 left an image whose check fails (R176, R179, R183; log entry 12). -/
def cutFlash (programGood : Bool) (s : State) : State :=
  match s.arch.op with
  | .idle => s
  | .programming _ => programEnd programGood s
  | .erasing a sector => setOp .idle (abandonErase (sectorAddress a sector) (noteBroken a sector (noteAbandoned a sector s)))
  | .commitErase => setOp .idle (voidImage (abandonErase 0 s))
  | .commitPage p => setOp .idle (voidImage (programImagePage p programGood s))

/-- The supply unit's part of a loss: the outputs are released, and no commit is in flight any more. -/
def cutSupply (s : State) : State := s.setSupply { s.supply with output := false, commit := .idle }

/-! ## The supply-fail event and HOLD (R117, R176, R177) -/

/-- The from-time of the HOLD entry that a warm return adds: the end of the minute that plant time is in, or T_c + 60 s
when FROZEN (R117). -/
def holdFromNow (t : Timebase) : Nat :=
  if t.state = .frozen then t.closed.getD 0 + 60 else minuteOfTicks (t.plant.getD 0) + 60

/-- The timebase at the supply-fail event: the HOLD entry's from-time is fixed, and the stored peer times and the
establishment window are dropped (R117, R115). -/
def holdTimebase (t : Timebase) : Timebase := { t with holdFrom := holdFromNow t, stored := [], window := none }

/-- HOLD is entered from a station state: the retained-RAM check is written, and the state left is noted (R176). -/
def enterHold (st : Station) (s : State) : State :=
  s.setSupply { s.supply with
    station := some .hold, heldFrom := some st, sense := false, resetInHold := false, ramIntact := true }

/-- SUPPLY_FAIL: taken in every station state other than HOLD; in reset a fall is no supply-fail event (R176, R179). -/
def execSupplyFail (programGood : Bool) (s : State) : Host.Outcome State Fault Refusal :=
  match s.supply.station with
  | none => .next s
  | some .hold => .next s
  | some st =>
    let s1 := portOff (cutSupply (cutFlash programGood s))
    .next (enterHold st (s1.setTb (holdTimebase s1.tb)))

/-- SUPPLY_SENSE_RISE: the supply sense becomes good, and the 100 ms start (R177). -/
def execSupplySenseRise (s : State) : Host.Outcome State Fault Refusal :=
  if s.supply.sense then .next s
  else .next (s.setSupply { s.supply with sense := true, goodSince := s.elapsed })

/-- HOLD or reset: the states in which a fall of the supply sense is no supply-fail event (R177, R179). -/
def awaitsSupply (s : State) : Bool := s.supply.station == none || s.supply.station == some .hold

/-- SUPPLY_SENSE_BOUNCE: a fall in HOLD or in reset, after which the 100 ms start again at the next rise (R177, R179). -/
def execSupplySenseBounce (s : State) : Host.Outcome State Fault Refusal :=
  if awaitsSupply s ∧ s.supply.sense then .next (s.setSupply { s.supply with sense := false }) else .next s

/-- Whether the supply has been good for 100 ms and the restart delay of 50 ms has then passed; elapsed time counts
1/1024 s (R177; log entry 23). -/
def supplyBack (s : State) : Bool := s.supply.sense && decide (150 * Config.ticksPerSecond ≤ 1000 * since s s.supply.goodSince)

/-- Whether a return is warm (R177). -/
def warmReturn (p : Supply) : Bool :=
  p.ramIntact && !p.resetInHold
    && (p.heldFrom == some .timeUnset || p.heldFrom == some .catchUp || p.heldFrom == some .recording)

/-- The jobs that have been silent for 5 minutes through the hold end at once (R170). -/
def dropSilentJobs (s : State) : State :=
  ((s.retr.jobs.filter (jobSilent s)).map (·.terminal)).foldl (fun t n => removeJob n t) s

/-- The witness table entries and the GAPs that have aged through the hold go (R147, R150). -/
def dropAged (s : State) : State :=
  s.setWit { s.wit with
    marks := youngMarks s
    origins := s.wit.origins.map (fun o => if gapExpired s o then { o with gap := none } else o) }

/-- The station state, the port and the timebase after a warm return (R117, R126, R178). -/
def warmState (s : State) : State :=
  if s.supply.heldFrom = some .timeUnset then
    portActive (s.setSupply { s.supply with station := some .timeUnset, heldFrom := none })
  else
    let s1 := portActive (s.setSupply { s.supply with station := some .catchUp, heldFrom := none, output := true })
    thaw (s1.setTb { s1.tb with gaps := addGap s1.tb.holdFrom .hold s1.tb.gaps, catchUp := true })

/-- SUPPLY_RETURN: once the good interval and the restart delay have passed in HOLD, a warm return, or reset and a cold
start (R177, R178). After a warm return the retention is tested, the flash has its first idle event, and a catch-up
without a due minute ends (R161, R165, R106). -/
def execSupplyReturn (s : State) : Host.Outcome State Fault Refusal :=
  if s.supply.station = some .hold ∧ supplyBack s then
    if warmReturn s.supply then
      .next (endCatchUp (flashIdle (retentionTest (dropAged (dropSilentJobs (warmState s))))))
    else .next (s.setSupply { s.supply with station := none, heldFrom := none })
  else .next s

/-- BACKUP_CELL_RAN_OUT: in HOLD or in reset, the retained-RAM check no longer holds, and the backup domain loses its
plant time and clears its validity flag (R101, R177, R179). -/
def execBackupCellRanOut (s : State) : Host.Outcome State Fault Refusal :=
  if awaitsSupply s then
    .next ((s.setSupply { s.supply with ramIntact := false, clockValid := false }).setTb
      { s.tb with plant := none, state := .unset })
  else .next s

/-! ## RESET and the cold start (R179, R180) -/

/-- RESET_ASSERT: a program in flight completes, an erase is abandoned, the outputs are released, the port goes OFF, and
the part is in reset (R179; log entry 11). -/
def execResetAssert (programGood : Bool) (s : State) : Host.Outcome State Fault Refusal :=
  if s.supply.resetLine then .next s
  else
    let s1 := portOff (cutSupply (cutFlash programGood s))
    .next (s1.setSupply { s1.supply with
      station := none, heldFrom := none, resetLine := true
      resetInHold := s.supply.resetInHold || s.supply.station == some .hold })

/-- RESET_RELEASE: the restart delay runs from here (R179). -/
def execResetRelease (s : State) : Host.Outcome State Fault Refusal :=
  if s.supply.resetLine then .next (s.setSupply { s.supply with resetLine := false, releasedAt := s.elapsed })
  else .next s

/-- Whether a cold start begins: in reset, RESET released, the supply good, and the restart delay passed (R177, R179;
log entry 23). The supply counts as good after the 100 ms of R177, and the 50 ms run from the later of their end and the
release of RESET (DESIGN CHOICE: log entry 44). -/
def coldStartDue (s : State) : Bool :=
  s.supply.station == none && !s.supply.resetLine && s.supply.sense
    && decide (max (1000 * s.supply.goodSince + 100 * Config.ticksPerSecond) (1000 * s.supply.releasedAt)
      + 50 * Config.ticksPerSecond ≤ 1000 * s.elapsed)

/-- The timebase at a cold start: plant time from the backup domain when its flag is set, and then RUNNING; UNSET
otherwise (R101, R179). -/
def coldTimebase (valid : Bool) (plant : Option Nat) : Timebase := if valid then { plant := plant, state := .running } else {}

/-- All RAM at its cold-start values; the flash, the backup domain and the inputs stay (R179, R121, R173). The staging
image, which is lost here (R182), then holds no bytes (DESIGN CHOICE: log entry 45). -/
def coldRam (cfg : Settings) (s : State) : State :=
  { State.reset with
    supply := { s.supply with
      station := none, heldFrom := none, resetInHold := false, ramIntact := false, output := false, staging := []
      commit := .idle }
    cfg := cfg
    arch := { flash := s.arch.flash }
    tb := coldTimebase s.supply.clockValid s.tb.plant
    elapsed := s.elapsed
    draws := s.draws
    pending := s.pending }

/-- The configuration in use after the load: the image's settings when it is valid (R179). -/
def loadedSettings (image : List Byte) : Settings :=
  if imageValid image then settingsOf image else fallbackSettings image

/-- COMMISSION: the staging image is what sector 0 reads, and the validity flag is cleared (R179, R182). -/
def startCommission (image : List Byte) (s : State) : State :=
  portOn (s.setSupply { s.supply with station := some .commission, staging := image, clockValid := false })

/-- UNCONFIGURED (R179). -/
def startUnconfigured (s : State) : State := portOn (s.setSupply { s.supply with station := some .unconfigured })

/-- The recording rows of a valid configuration at their starting values: one for each pollutant slot, and one witness
state for each witnessed origin (R67, R82, R135). -/
def formRows (s : State) : State :=
  let s1 := s.setAvg { rows := (pollutants s.cfg).map (fun p => { slot := p.1 }) }
  let s2 := s1.setYear { rows := (pollutants s.cfg).map (fun p => { slot := p.1 }) }
  s2.setWit { origins := (witnessed s.cfg).map (fun w => { place := w.1, station := w.2 }) }

/-- SCAN's rebuild from the own records: the resume point, the tallies, the pending closes, the floor (R94 to R98,
R140). -/
def scanRecords (recs : List Rec) (s : State) : State :=
  let resume := resumePoint recs
  let s1 := s.setYear { s.year with resume := resume, compareDue := true }
  match resume with
  | some r => openYearAt recs (yearOf r) (pendingCloses recs r (rebuildFrom recs r s1))
  | none => s1.setWit { s1.wit with ownFloor := s1.arch.latest + 1 }

/-- SCAN, up to its end: the flash is read, the state is rebuilt, and the retention is tested (R180). -/
def scan (s : State) : State :=
  let s1 := scanFlash (formRows (s.setSupply { s.supply with station := some .scan }))
  let s2 := retentionTest (scanRecords (ownRecords s1) s1)
  s2.setWit { s2.wit with lagHoldoff := some s2.elapsed }

/-- The end of SCAN: CATCH_UP with a plant time, TIME_UNSET without (R180, R175). -/
def endScan (s : State) : State :=
  if s.supply.clockValid then enterCatchUp s
  else portOn (s.setSupply { s.supply with station := some .timeUnset })

/-- The cold start with the stored image and the level of SVC (R179, R180; log entry 19). -/
def coldStart (svc : Bool) (s : State) : State :=
  let image := storedImage s
  let s1 := coldRam (loadedSettings image) s
  if svc then startCommission image s1
  else if imageValid image then flashIdle (endScan (scan s1))
  else startUnconfigured s1

/-- COLD_START (R179, R180). -/
def execColdStart (svc : Bool) (s : State) : Host.Outcome State Fault Refusal :=
  if coldStartDue s then .next (coldStart svc s) else .next s

end Sys2Proof.Machine
end

