-- ==== Sys2Proof/Machine/Dispatch.lean ====
section
/-! DEFINITION. One arm per command: the meaning it calls. -/

namespace Sys2Proof.Machine

/-- The effect of a command on everything but the queue of waiting commands. -/
def exec (i : Instr) (s : State) : Host.Outcome State Fault Refusal :=
  match i with
  | .receiveReading sender channel tag status value => Sys2Proof.Machine.execReceiveReading sender channel tag status value s
  | .receiveTime sender seconds ticks reference => Sys2Proof.Machine.execReceiveTime sender seconds ticks reference s
  | .establishmentWindowEnd => Sys2Proof.Machine.execEstablishmentWindowEnd s
  | .receiveRecord sender head body => Sys2Proof.Machine.execReceiveRecord sender head body s
  | .receiveMark sender entries => Sys2Proof.Machine.execReceiveMark sender entries s
  | .receiveGap sender target first count => Sys2Proof.Machine.execReceiveGap sender target first count s
  | .receivePresence sender payload => Sys2Proof.Machine.execReceivePresence sender payload s
  | .receiveError frame endMark => Sys2Proof.Machine.execReceiveError frame endMark s
  | .stationClash cls => Sys2Proof.Machine.execStationClash cls s
  | .read head origin first count => Sys2Proof.Machine.execRead head origin first count s
  | .readYear head origin year => Sys2Proof.Machine.execReadYear head origin year s
  | .condition head => Sys2Proof.Machine.execCondition head s
  | .clearAttention head causes => Sys2Proof.Machine.execClearAttention head causes s
  | .configBlock head offset data => Sys2Proof.Machine.execConfigBlock head offset data s
  | .configCommit head length check => Sys2Proof.Machine.execConfigCommit head length check s
  | .commitFlashComplete good => Sys2Proof.Machine.execCommitFlashComplete good s
  | .busIdle => Sys2Proof.Machine.execBusIdle s
  | .arbitrationLost => Sys2Proof.Machine.execArbitrationLost s
  | .transmitComplete => Sys2Proof.Machine.execTransmitComplete s
  | .transmitError => Sys2Proof.Machine.execTransmitError s
  | .silentEnd => Sys2Proof.Machine.execSilentEnd s
  | .timeSend => Sys2Proof.Machine.execTimeSend s
  | .presenceSend => Sys2Proof.Machine.execPresenceSend s
  | .agreementRound => Sys2Proof.Machine.execAgreementRound s
  | .minuteBoundary => Sys2Proof.Machine.execMinuteBoundary s
  | .programComplete good => Sys2Proof.Machine.execProgramComplete good s
  | .eraseComplete good => Sys2Proof.Machine.execEraseComplete good s
  | .recordRelease => Sys2Proof.Machine.execRecordRelease s
  | .backfillPlace => Sys2Proof.Machine.execBackfillPlace s
  | .gapPlace origin => Sys2Proof.Machine.execGapPlace origin s
  | .pendingAnswerPlace => Sys2Proof.Machine.execPendingAnswerPlace s
  | .jobAnswerPlace terminal => Sys2Proof.Machine.execJobAnswerPlace terminal s
  | .gapExpiry origin => Sys2Proof.Machine.execGapExpiry origin s
  | .markEntryExpiry station => Sys2Proof.Machine.execMarkEntryExpiry station s
  | .witnessLagHoldoffEnd => Sys2Proof.Machine.execWitnessLagHoldoffEnd s
  | .jobSilenceExpiry terminal => Sys2Proof.Machine.execJobSilenceExpiry terminal s
  | .supplyFail programGood => Sys2Proof.Machine.execSupplyFail programGood s
  | .supplySenseRise => Sys2Proof.Machine.execSupplySenseRise s
  | .supplySenseBounce => Sys2Proof.Machine.execSupplySenseBounce s
  | .supplyReturn => Sys2Proof.Machine.execSupplyReturn s
  | .resetAssert programGood => Sys2Proof.Machine.execResetAssert programGood s
  | .resetRelease => Sys2Proof.Machine.execResetRelease s
  | .coldStart svc => Sys2Proof.Machine.execColdStart svc s
  | .backupCellRanOut => Sys2Proof.Machine.execBackupCellRanOut s

end Sys2Proof.Machine
end

