-- ==== Sys2Proof/Machine/Telegram.lean ====
section
/-! DEFINITION. Received telegrams as bytes: the payload that each command of a telegram stands for, the command that a
received frame stands for, and how a frame joins the queue (7.5, 7.7.2, 7.7.3). -/

namespace Sys2Proof.Machine

/-! ## The payload of a command (R130, 7.7.3) -/

/-- The head of a QUERY: target recorder, query tag, query kind. -/
def queryHeadBytes (head : QueryHead) (kind : Nat) : List Byte := [head.target, head.tag] ++ beBytes 1 kind

/-- A received record's header and body, as the archive holds them. -/
def receivedRecordBytes (head : RecordHead) (body : List Byte) : List Byte :=
  [head.kind, head.origin] ++ beBytes 4 head.seq.toNat ++ beBytes 4 head.start.toNat ++ beBytes 1 head.backfill.toNat
  ++ beBytes 1 body.length ++ body

def presenceBytes (p : PresencePayload) : List Byte :=
  [p.kind, p.line, p.station] ++ beBytes 4 p.latest.toNat ++ beBytes 4 p.floor.toNat ++ beBytes 4 p.secured.toNat
  ++ [p.timeState] ++ beBytes 2 p.flags.toNat

/-- The class and the payload of a command that is a telegram (R120, R130, 7.7.3); none of the others. -/
def telegramBytes : Instr → Option (Nat × List Byte)
  | .receiveTime _ seconds ticks reference =>
    some (0, beBytes 4 seconds.toNat ++ beBytes 2 ticks.toNat ++ beBytes 1 reference.toNat)
  | .receiveReading _ channel tag status value =>
    some (1, beBytes 1 (16 * channel.toNat + tag.toNat) ++ [status] ++ beBytes 3 value.toNat)
  | .receiveRecord _ head body => some (2, receivedRecordBytes head body)
  | .receiveMark _ entries =>
    some (3, beBytes 1 entries.length
      ++ entries.flatMap (fun e => [e.origin] ++ beBytes 4 e.held.toNat ++ beBytes 4 e.oldest.toNat))
  | .receiveGap _ target first count => some (4, [target] ++ beBytes 4 first.toNat ++ [count])
  | .read head origin first count =>
    some (5, queryHeadBytes head 1 ++ [origin] ++ beBytes 4 first.toNat ++ beBytes 2 count.toNat)
  | .readYear head origin year => some (5, queryHeadBytes head 2 ++ [origin, year])
  | .condition head => some (5, queryHeadBytes head 3)
  | .clearAttention head causes => some (5, queryHeadBytes head 4 ++ beBytes 2 causes.toNat)
  | .configBlock head offset data =>
    some (5, queryHeadBytes head 5 ++ beBytes 2 offset.toNat ++ beBytes 1 data.length ++ data)
  | .configCommit head length check =>
    some (5, queryHeadBytes head 6 ++ beBytes 2 length.toNat ++ beBytes 2 check.toNat)
  | .receivePresence _ payload => some (7, presenceBytes payload)
  | .establishmentWindowEnd => none
  | .receiveError _ _ => none
  | .stationClash _ => none
  | .commitFlashComplete _ => none
  | .busIdle => none
  | .arbitrationLost => none
  | .transmitComplete => none
  | .transmitError => none
  | .silentEnd => none
  | .timeSend => none
  | .presenceSend => none
  | .agreementRound => none
  | .minuteBoundary => none
  | .programComplete _ => none
  | .eraseComplete _ => none
  | .recordRelease => none
  | .backfillPlace => none
  | .gapPlace _ => none
  | .pendingAnswerPlace => none
  | .jobAnswerPlace _ => none
  | .gapExpiry _ => none
  | .markEntryExpiry _ => none
  | .witnessLagHoldoffEnd => none
  | .jobSilenceExpiry _ => none
  | .supplyFail _ => none
  | .supplySenseRise => none
  | .supplySenseBounce => none
  | .supplyReturn => none
  | .resetAssert _ => none
  | .resetRelease => none
  | .coldStart _ => none
  | .backupCellRanOut => none

/-- The frame of a command that is a telegram, from its key to its check (R119, R120). -/
def telegramFrame (i : Instr) : Option (List Byte) :=
  match i.sender, telegramBytes i with
  | some sender, some (cls, payload) => some (frameBytes cls sender.toNat payload)
  | _, _ => none

/-! ## The command of a received frame (R127 to R130, 7.7.3) -/

/-- The number in `len` bytes at place `off`, as a field of `w` bits. -/
def fieldBits (w : Nat) (p : List Byte) (off len : Nat) : BitVec w := BitVec.ofNat w (field p off len)

/-- The two bytes of the attention flags or of a cause set: bits 0 to 8 are named, and the others are ignored (R130). -/
def flagField (p : List Byte) (off : Nat) : BitVec 16 := BitVec.ofNat 16 (field p off 2 % 512)

def timeOf (sender : BitVec 5) (p : List Byte) : Instr :=
  .receiveTime sender (fieldBits 32 p 0 4) (fieldBits 16 p 4 2) (bitOf (field p 6 1) 0)

/-- READING: the source channel in bits 7 to 4 of byte 0 and the line tag in bits 3 to 0. -/
def readingOf (sender : BitVec 5) (p : List Byte) : Instr :=
  .receiveReading sender (BitVec.ofNat 4 (field p 0 1 / 16)) (BitVec.ofNat 4 (field p 0 1)) (fieldBits 8 p 1 1)
    (fieldBits 24 p 2 3)

/-- RECORD: the record header of 7.7.4, the backfill flag in bit 0, and the body after its length. -/
def recordTelegramOf (sender : BitVec 5) (p : List Byte) : Instr :=
  .receiveRecord sender
    { kind := fieldBits 8 p 0 1, origin := fieldBits 8 p 1 1, seq := fieldBits 32 p 2 4, start := fieldBits 32 p 6 4
      backfill := bitOf (field p 10 1) 0 }
    (p.drop 12)

def markEntryOf (b : List Byte) : MarkEntry :=
  { origin := fieldBits 8 b 0 1, held := fieldBits 32 b 1 4, oldest := fieldBits 32 b 5 4 }

def markOf (sender : BitVec 5) (p : List Byte) : Instr :=
  .receiveMark sender ((chunks 9 (field p 0 1) (p.drop 1)).map markEntryOf)

def gapTelegramOf (sender : BitVec 5) (p : List Byte) : Instr :=
  .receiveGap sender (fieldBits 8 p 0 1) (fieldBits 32 p 1 4) (fieldBits 8 p 5 1)

/-- QUERY: the fields of its kind after target, tag and kind; a kind that is not listed is no query (R131). -/
def queryOf (sender : BitVec 5) (p : List Byte) : Option Instr :=
  let head : QueryHead := ⟨sender, fieldBits 8 p 0 1, fieldBits 8 p 1 1⟩
  match field p 2 1 with
  | 1 => some (.read head (fieldBits 8 p 3 1) (fieldBits 32 p 4 4) (fieldBits 16 p 8 2))
  | 2 => some (.readYear head (fieldBits 8 p 3 1) (fieldBits 8 p 4 1))
  | 3 => some (.condition head)
  | 4 => some (.clearAttention head (flagField p 3))
  | 5 => some (.configBlock head (fieldBits 16 p 3 2) (p.drop 6))
  | 6 => some (.configCommit head (fieldBits 16 p 3 2) (fieldBits 16 p 5 2))
  | _ => none

def presenceTelegramOf (sender : BitVec 5) (p : List Byte) : Instr :=
  .receivePresence sender
    { kind := fieldBits 8 p 0 1, line := fieldBits 8 p 1 1, station := fieldBits 8 p 2 1, latest := fieldBits 32 p 3 4
      floor := fieldBits 32 p 7 4, secured := fieldBits 32 p 11 4, timeState := fieldBits 8 p 15 1
      flags := flagField p 16 }

/-- The command of a telegram by its class (R129); an ANSWER is delivered to no block. -/
def telegramOf (cls : Nat) (sender : BitVec 5) (p : List Byte) : Option Instr :=
  match cls with
  | 0 => some (timeOf sender p)
  | 1 => some (readingOf sender p)
  | 2 => some (recordTelegramOf sender p)
  | 3 => some (markOf sender p)
  | 4 => some (gapTelegramOf sender p)
  | 5 => queryOf sender p
  | 7 => some (presenceTelegramOf sender p)
  | _ => none

/-- The payload of a frame, as its length byte gives it. -/
def framePayload (frame : List Byte) : List Byte := slice frame 2 (field frame 1 1)

/-- The command that a frame on the line stands for, when the part is not sending it: a receive error when R127 discards
it, which goes before R128 (DESIGN CHOICE: log entry 40); a station clash when its key carries the part's own number
(R128); and otherwise the telegram of its class (R129). A key of station 0, which no station has, is taken like any other
(DESIGN CHOICE: log entry 56). -/
def commandOfFrame (own : Nat) (frame : List Byte) (endMark : Bool) : Option Instr :=
  let key := field frame 0 1
  if frameIsError frame endMark then some (.receiveError frame endMark)
  else if key % 32 = own then some (.stationClash (BitVec.ofNat 3 (key / 32)))
  else telegramOf (key / 32) (BitVec.ofNat 5 key) (framePayload frame)

/-- A frame has ended on the line: its command, when it stands for one, joins the queue behind those of the frames that
ended before it (R129). -/
def State.hear (frame : List Byte) (endMark : Bool) (s : State) : State :=
  s.setPending (s.pending ++ (commandOfFrame s.cfg.own frame endMark).toList)

end Sys2Proof.Machine
end

