-- ==== Sys2Proof/WellFormed.lean ====
section
/-! DEFINITION. Which commands are well formed: what a telegram or an event of this part can carry. -/

namespace Sys2Proof

/-- A station number on the bus: 1 to 31 (R120). -/
def stationWf (st : BitVec 5) : Bool := decide (1 ≤ st.toNat)

/-- A send time has ticks of 0 to 1,023 (R130). -/
def ticksWf (ticks : BitVec 16) : Bool := decide (ticks.toNat ≤ 1023)

/-- A record has a listed kind and the body length of that kind (R131). -/
def recordWf (head : RecordHead) (body : List Byte) : Bool :=
  match Machine.recordKindOf head.kind.toNat with
  | some k => Machine.bodyLengthOk k body
  | none => false

/-- A MARK holds at most 3 entries (R131). -/
def markWf (entries : List MarkEntry) : Bool := decide (entries.length ≤ 3)

/-- A CONFIG_BLOCK carries 1 to 200 bytes of data (R182). -/
def blockWf (data : List Byte) : Bool := decide (1 ≤ data.length) && decide (data.length ≤ 200)

/-- The well-formed commands. -/
def Instr.wf : Instr → Bool
  | .receiveReading sd _ _ _ _ => stationWf sd
  | .receiveTime sd _ ticks _ => stationWf sd && ticksWf ticks
  | .establishmentWindowEnd => true
  | .receiveRecord sd head body => stationWf sd && recordWf head body
  | .receiveMark sd entries => stationWf sd && markWf entries
  | .receiveGap sd _ _ _ => stationWf sd
  | .receivePresence sd _ => stationWf sd
  | .receiveError frame endMark => Machine.frameIsError frame endMark
  | .stationClash _ => true
  | .read head _ _ _ => stationWf head.terminal
  | .readYear head _ _ => stationWf head.terminal
  | .condition head => stationWf head.terminal
  | .clearAttention head _ => stationWf head.terminal
  | .configBlock head _ data => stationWf head.terminal && blockWf data
  | .configCommit head _ _ => stationWf head.terminal
  | .commitFlashComplete _ => true
  | .busIdle => true
  | .arbitrationLost => true
  | .transmitComplete => true
  | .transmitError => true
  | .silentEnd => true
  | .timeSend => true
  | .presenceSend => true
  | .agreementRound => true
  | .minuteBoundary => true
  | .programComplete _ => true
  | .eraseComplete _ => true
  | .recordRelease => true
  | .backfillPlace => true
  | .gapPlace origin => stationWf origin
  | .pendingAnswerPlace => true
  | .jobAnswerPlace terminal => stationWf terminal
  | .gapExpiry origin => stationWf origin
  | .markEntryExpiry station => stationWf station
  | .witnessLagHoldoffEnd => true
  | .jobSilenceExpiry terminal => stationWf terminal
  | .supplyFail _ => true
  | .supplySenseRise => true
  | .supplySenseBounce => true
  | .supplyReturn => true
  | .resetAssert _ => true
  | .resetRelease => true
  | .coldStart _ => true
  | .backupCellRanOut => true

end Sys2Proof
end

