-- ==== Sys2Proof/Safety.lean ====
section
/-! DEFINITION. What the statements speak of: when a telegram or a query reaches its block, and the properties that
every step keeps. -/

namespace Sys2Proof.Machine

/-! ## When a command reaches its block -/

/-- The port receives, and the sender is not the part's own number: a telegram of permitted length is delivered (R121,
R128, R129), also while the part itself sends, which is the model's choice (log entry 50). -/
def Hears (s : State) (sender : BitVec 5) : Prop := s.port.state ≠ .off ∧ sender.toNat ≠ s.cfg.own

/-- A query to the part finds room in the pending answer list (R129, R166). -/
def TakesQuery (s : State) (head : QueryHead) : Prop :=
  Hears s head.terminal ∧ head.target.toNat = s.cfg.own ∧ answersHeld s < 4

/-- A reading is a sample of slot i, which is `sl` (R8, R10). -/
def SampleOf (s : State) (sender : BitVec 5) (channel tag : BitVec 4) (i : Nat) (sl : Slot) : Prop :=
  Hears s sender ∧ s.supply.station = some .recording ∧ matchSlot s.cfg sender.toNat channel.toNat = some (i, sl)
    ∧ tag.toNat ≤ 8 ∧ (tag.toNat = 0 ∨ tag.toNat = s.cfg.line)

/-- The accumulator of slot i has not reached its cap of twice the expected count (R7, R11). -/
def BelowCap (s : State) (i : Nat) (sl : Slot) : Prop :=
  ∃ a, s.accs[i]? = some a ∧ a.valid + a.maint + a.calib + a.fault < 2 * (60 / sl.interval)

/-- CATCH_UP or RECORDING. -/
def CatchingUpOrRecording (s : State) : Prop :=
  s.supply.station = some .catchUp ∨ s.supply.station = some .recording

/-- m is the k-th highest of the marks, equal marks counted each time they occur (R148). -/
def IsKthHighest (k m : Nat) (l : List Nat) : Prop :=
  m ∈ l ∧ l.countP (fun x => decide (m < x)) < k ∧ k ≤ l.countP (fun x => decide (m ≤ x))

/-- q is n divided by d, rounded half away from zero: its magnitude is the whole part of (2 |n| + d) / (2 d), and it
takes the sign of n (Conventions, Rounding; R34). -/
def RoundsTo (n : Int) (d : Nat) (q : Int) : Prop :=
  q.natAbs = (2 * n.natAbs + d) / (2 * d) ∧ (n < 0 → q ≤ 0) ∧ (0 ≤ n → 0 ≤ q)

/-! ## Changes of plant time (R110 to R114) -/

/-- Plant time has moved by d ticks, and every stored offset and receipt time with it (R110). -/
def MovedBy (s t : State) (d : Int) : Prop :=
  t.tb.plant = s.tb.plant.map (fun p => ((p : Int) + d).toNat)
  ∧ t.tb.peers = s.tb.peers.map (fun x => { x with offset := x.offset - d, receipt := x.receipt + d })
  ∧ t.tb.reference = s.tb.reference.map (fun x => { x with offset := x.offset - d, receipt := x.receipt + d })

/-- Timebase state, gap list and catch-up are as they were. -/
def SameClosing (s t : State) : Prop :=
  t.tb.state = s.tb.state ∧ t.tb.gaps = s.tb.gaps ∧ t.tb.catchUp = s.tb.catchUp

/-- A correction by d ticks from plant time p: nothing is counted or raised, and no minute falls due by it (R111). A
backward one puts the second it falls on back, whose actions are then not taken again (R108). -/
def CorrectedBy (s t : State) (p : Nat) (d : Int) : Prop :=
  MovedBy s t d ∧ SameClosing s t ∧ t.retr = s.retr ∧ t.year = s.year ∧ t.accs = s.accs ∧ t.minutes = s.minutes
  ∧ t.tb.taken = if d < 0 then some (p / 1024) else s.tb.taken

/-- The samples of the open minute are set aside, and the accumulators of the slots in use go on from 0 for the minute that
plant time is in (R113, in the model's own field: log entry 47). -/
def SamplesParted (s t : State) : Prop :=
  t.minutes = { s.minutes with setAside := some (s.minutes.setAside.getD s.accs) }
  ∧ (s.minutes.setAside ≠ none → t.accs = s.accs)
  ∧ (s.minutes.setAside = none → t.accs.length = s.accs.length ∧ ∀ i, i < s.accs.length →
      t.accs[i]? = if (s.cfg.slots.getD i {}).kind = .unused then s.accs[i]? else some {})

/-- The gap list with an entry of a kind, which is not added after one of its own kind (R105). -/
def gapsWith (fromTime : Nat) (k : CloseKind) (l : List GapEntry) : List GapEntry :=
  if l.getLast?.map (·.kind) = some k then l else l ++ [⟨fromTime, k⟩]

/-- A step by d ticks from plant time p, or its refusal: either is one clock step and raises CLOCK, and the step count is
0 (R112). A step over 24 hours or out of the range of plant time is refused and moves nothing. One that makes a minute
due begins a catch-up with a TIMEGAP entry, ends a freeze, and parts the samples (R113); one back before T_c freezes the
timebase (R114). -/
def SteppedOrRefused (s t : State) (p : Nat) (d : Int) : Prop :=
  t.retr = { s.retr with flags := s.retr.flags ||| 0x80#9 }
  ∧ t.year = { s.year with day := { s.year.day with clockSteps := min 4294967295 (s.year.day.clockSteps + 1) } }
  ∧ t.tb.stepCount = 0 ∧ t.tb.taken = s.tb.taken
  ∧ (88473600 < d.natAbs ∨ (p : Int) + d < 0 ∨ (Config.plantTimeEnd : Int) < p + d →
      t.tb.plant = some p ∧ t.tb.peers = s.tb.peers ∧ t.tb.reference = s.tb.reference ∧ SameClosing s t
        ∧ t.accs = s.accs ∧ t.minutes = s.minutes)
  ∧ (d.natAbs ≤ 88473600 → 0 ≤ (p : Int) + d → (p : Int) + d ≤ Config.plantTimeEnd →
      MovedBy s t d ∧ ∀ c, s.tb.closed = some c →
        (0 < d → ((c : Int) + 60) * 1024 ≤ p + d →
          t.tb.state = .running ∧ t.tb.catchUp = true ∧ t.tb.gaps = gapsWith (c + 60) .timegap s.tb.gaps
            ∧ SamplesParted s t)
        ∧ (0 < d → (p : Int) + d < ((c : Int) + 60) * 1024 → SameClosing s t)
        ∧ (d < 0 ∨ (p : Int) + d < ((c : Int) + 60) * 1024 → t.accs = s.accs ∧ t.minutes = s.minutes)
        ∧ (d < 0 → (p : Int) + d < (c : Int) * 1024 →
          t.tb.state = .frozen ∧ t.tb.gaps = s.tb.gaps ∧ t.tb.catchUp = s.tb.catchUp)
        ∧ (d < 0 → (c : Int) * 1024 ≤ p + d → SameClosing s t))

/-! ## Entering CATCH_UP after a cold start (R106, R116) -/

/-- The catch-up has ended with the open minute c: RECORDING, with the later of it and the minute that plant time p is in
as the sampled minute, the gap list empty (R105, R106). -/
def CaughtUp (c p : Nat) (t : State) : Prop :=
  t.supply.station = some .recording ∧ t.supply.output = true ∧ t.tb.closed = some c ∧ t.tb.gaps = []
    ∧ t.tb.catchUp = false ∧ t.tb.sampled = some (max c (p / 61440 * 60))

/-- What entering CATCH_UP at plant time p makes of a resume point (R116): from a resume point not later than p whose
half-hour begins in the year of p or the year before, T_c is that point, and the minutes due from there on are closed as
POWER_LOSS in a catch-up, which ends at once when none is due; a later resume point is T_c in a freeze; and without a
resume point, or with an older one, T_c is the start of the minute that p is in. -/
def EntersCatchUp (resume : Option Nat) (p : Nat) (t : State) : Prop :=
  (resume = none → t.tb.state = .running ∧ CaughtUp (p / 61440 * 60) p t)
  ∧ ∀ r, resume = some r →
    (p < r * 1024 → t.tb.state = .frozen ∧ CaughtUp r p t)
    ∧ (r * 1024 ≤ p → r - 1800 < yearStart (yearOf (p / 1024) - 1) →
        t.tb.state = .running ∧ CaughtUp (p / 61440 * 60) p t)
    ∧ (r * 1024 ≤ p → yearStart (yearOf (p / 1024) - 1) ≤ r - 1800 → t.tb.state = .running
        ∧ (p < (r + 60) * 1024 → CaughtUp r p t)
        ∧ ((r + 60) * 1024 ≤ p → t.supply.station = some .catchUp ∧ t.tb.closed = some r
          ∧ t.tb.gaps = [⟨r, .powerLoss⟩] ∧ t.tb.catchUp = true ∧ t.tb.sampled = none))

/-! ## What SCAN rebuilds from the own records (R95 to R97) -/

/-- The entries of a slot in some HALF_HOUR records. -/
def slotHalfHours (hs : List HalfHour) (slot : Nat) : List HalfHourEntry :=
  hs.filterMap (fun h => h.entries.find? (fun e => e.slot == slot))

/-- The entries of a slot in some DAY records. -/
def slotDays (ds : List DayRecord) (slot : Nat) : List DayEntry :=
  ds.filterMap (fun d => d.entries.find? (fun e => e.slot == slot))

/-- The year tallies of a slot are the sums of its entries in the year's records (R95). -/
def RowRebuilt (c : Settings) (hs : List HalfHour) (ds : List DayRecord) (r : YearRow) : Prop :=
  let es := slotHalfHours hs r.slot
  let limitB := (c.slots.getD r.slot {}).limitB
  r.validHalfHours = es.countP (fun e => decide (e.status = .valid))
  ∧ r.invalidHalfHours = es.countP (fun e => decide (e.status = .invalid))
  ∧ r.aExceed = es.countP (·.aExceeded) ∧ r.massSubst = es.countP (·.massSubst)
  ∧ r.bCompliant = es.countP (fun e => decide (0 < limitB ∧ e.status = .valid ∧ e.validated.getD 0 ≤ limitB))
  ∧ r.mass = (es.map (fun e => e.mass.getD 0)).sum
  ∧ r.validDays = (slotDays ds r.slot).countP (fun e => decide (e.status = .valid))
  ∧ r.invalidDays = (slotDays ds r.slot).countP (fun e => decide (e.status = .invalid))
  ∧ r.idleDays = (slotDays ds r.slot).countP (fun e => decide (e.status = .notOperating))
  ∧ r.dayExceed = (slotDays ds r.slot).countP (·.exceeded)

/-- The day row of a slot from the HALF_HOUR records of the rebuild day: each with 15 operating minutes or more counts as
an operating half-hour, and as an invalid one where it does not name the slot (R97). -/
def DayRowRebuilt (today : List HalfHour) (slot : Nat) (d : DayRow) : Prop :=
  let es := slotHalfHours today slot
  let unnamed := today.countP (fun h => (h.entries.find? (fun e => e.slot == slot)).isNone
    && decide (15 ≤ h.counts.firing + h.counts.coldFiring + h.counts.unknown + h.counts.noRecord))
  d.operating = es.countP (fun e => decide (e.status ≠ .notOperating)) + unnamed
  ∧ d.valid = es.countP (fun e => decide (e.status = .valid))
  ∧ d.invalid = es.countP (fun e => decide (e.status = .invalid)) + unnamed
  ∧ d.sum = (es.map (fun e => if e.status = .valid then e.validated.getD 0 else 0)).sum
  ∧ d.aExceed = es.countP (fun e => decide (e.status = .valid) && e.aExceeded)

/-- The state that SCAN rebuilds for a resume point r, from the records of the rebuild year, which counts as without any
when the ring holds its YEAR_GENERAL record (R95 to R97, R55): the year tallies and the FSTOP assertions, estimated by the
series of half-hours; the account; the day table and the previous mass rates. -/
def RebuiltAt (recs : List Rec) (r : Nat) (u : State) : Prop :=
  let half := r - 1800
  let year := yearOf half
  let closed := yearClosed recs year
  let hs := if closed then [] else halfHoursOf recs year
  let ds := if closed then [] else daysOf recs year
  let today := if closed || dayClosed recs (dayStart half) then [] else hs.filter (fun h => dayStart h.start == dayStart half)
  let asserted := (hs.filter (·.fstop)).map (·.start)
  let run := ((recs.find? (fun x => x.kind == .halfHour && x.start == half)).map
    (fun x => (halfHourOf x.start x.body).runAtClose)).getD 0
  let total := (hs.map (·.disturbed)).sum
  let capped := u.cfg.runCap ≤ run ∨ u.cfg.yearCap ≤ total
  (u.year.rows.map (·.slot) = (pollutants u.cfg).map (·.1) ∧ ∀ x ∈ u.year.rows, RowRebuilt u.cfg hs ds x)
  ∧ u.year.minutes = {
      off := (hs.map (·.counts.off)).sum, standby := (hs.map (·.counts.standby)).sum
      firing := (hs.map (·.counts.firing)).sum, coldFiring := (hs.map (·.counts.coldFiring)).sum
      unknown := (hs.map (·.counts.unknown)).sum, noRecord := (hs.map (·.counts.noRecord)).sum }
  ∧ u.year.coldFiring = (hs.map (·.counts.coldFiring)).sum
  ∧ u.year.fstops = asserted.countP (fun x : Nat => decide (x < 1800 ∨ x - 1800 ∉ asserted))
  ∧ (∀ i, i < 9 → u.year.totals.toList.getD i 0
      = min 4294967295 (ds.map (fun d => d.counters.toList.getD i 0)).sum)
  ∧ u.year.day = {}
  ∧ u.line.run = run ∧ u.line.yearTotal = total
  ∧ (∀ h ∈ hs, h.runAtClose ≤ u.line.longest ∧ h.disturbed ≤ u.line.longest)
  ∧ (u.line.longest = 0 ∨ ∃ h ∈ hs, u.line.longest = max h.runAtClose h.disturbed)
  ∧ (u.line.fstop = true ↔ 0 < run ∧ capped) ∧ u.line.fstopInHalfHour = u.line.fstop ∧ u.line.coldFed = false
  ∧ (u.line.warned = true ↔ 3 * u.cfg.yearCap / 4 ≤ total)
  ∧ (u.avg.rows.map (·.slot) = (pollutants u.cfg).map (·.1) ∧ u.avg.last = none
    ∧ ∀ x ∈ u.avg.rows, x.loss = 0 ∧ DayRowRebuilt today x.slot x.day
      ∧ (x.rate = none ↔ ∀ e ∈ slotHalfHours hs x.slot, e.rate = none)
      ∧ (∀ q, x.rate = some q → ∃ h ∈ hs, (∃ e, h.entries.find? (fun e => e.slot == x.slot) = some e ∧ e.rate = some q)
          ∧ ∀ g ∈ hs, (∃ e, g.entries.find? (fun e => e.slot == x.slot) = some e ∧ e.rate.isSome = true) →
              g.start ≤ h.start))
  ∧ u.arch.outbound = []

/-- What SCAN finds of one area: each sector's directory entry from its sixteen pages (R154), and the write position at
the first page without a record page, else after the page of the highest sequence when every later page of its sector
reads erased, and at the first page of the following sector otherwise (R165). -/
def AreaScanned (a : Area) (t : State) : Prop :=
  (∀ k, k < a.sectors → dirEntry (ringOf t a) k = scanSector (sectorPages t a k))
  ∧ ((∀ p x, p < a.pages → readPage t a p ≠ .record x) → (ringOf t a).writePos = 0)
  ∧ ∀ p x, p < a.pages → readPage t a p = .record x →
    (∀ q y, q < a.pages → q ≠ p → readPage t a q = .record y → y.seq < x.seq) →
      ((∀ q, p < q → q / 16 = p / 16 → readPage t a q = .erased) → (ringOf t a).writePos = (p + 1) % a.pages)
      ∧ ((∃ q, p < q ∧ q / 16 = p / 16 ∧ readPage t a q ≠ .erased) →
          (ringOf t a).writePos = (16 * (p / 16) + 16) % a.pages)

/-- The last assigned number that SCAN finds: 0 without a record page; else the highest sequence, raised by one for each page
of the run of defective pages after it whose two marker bytes are not both 0 (R157). -/
def LastAssignedFound (t : State) (n : Nat) : Prop :=
  ((∀ p x, p < 114672 → readPage t .own p ≠ .record x) → n = 0)
  ∧ ∀ p x, p < 114672 → readPage t .own p = .record x →
    (∀ q y, q < 114672 → q ≠ p → readPage t .own q = .record y → y.seq < x.seq) →
    ∀ k, k < 114672 → (∀ i, i < k → readPage t .own ((p + 1 + i) % 114672) = .defective) →
      readPage t .own ((p + 1 + k) % 114672) ≠ .defective →
      n = x.seq + (List.range k).countP (fun i =>
        t.arch.flash.bytes (pageAddress .own ((p + 1 + i) % 114672)) 2 != [0, 0])

/-- The own witness floor and the year start sequence found for a year: the lowest sequence of the own records that begin
in the year before or later, else the latest archived one plus 1; and the lowest of those that begin in the year or later
(R140). -/
def OwnFloorFound (recs : List Rec) (year : Nat) (t : State) : Prop :=
  (∀ x ∈ recs, year ≤ yearOf x.start + 1 → t.wit.ownFloor ≤ x.seq)
  ∧ ((∃ x ∈ recs, year ≤ yearOf x.start + 1 ∧ x.seq = t.wit.ownFloor)
    ∨ ((∀ x ∈ recs, yearOf x.start + 1 < year) ∧ t.wit.ownFloor = t.arch.latest + 1))
  ∧ (t.wit.yearStart = none ↔ ∀ x ∈ recs, yearOf x.start < year)
  ∧ ∀ q, t.wit.yearStart = some q → (∃ x ∈ recs, year ≤ yearOf x.start ∧ x.seq = q)
    ∧ ∀ x ∈ recs, year ≤ yearOf x.start → q ≤ x.seq

/-! ## What a flash-idle event starts (R153, R157, R161, R162) -/

/-- A ring area needs an erase-ahead of a sector: its write position is at the first page of a sector that is not ERASED,
which is then the target, or the sector after it in ring order is not (R161). -/
def EraseNeeded (a : Area) (r : Ring) (target : Nat) : Prop :=
  let here := r.writePos / 16
  let after := (here + 1) % a.sectors
  r.writePos % 16 = 0
  ∧ (((dirEntry r here).state ≠ .erased ∧ target = here)
    ∨ ((dirEntry r here).state = .erased ∧ (dirEntry r after).state ≠ .erased ∧ target = after))

/-- A sector of the own ring holds a retained year: the later of its two years is the year open or one of the N before it
(R162). -/
def Retained (s : State) (sector : Nat) : Prop :=
  ∃ y f l, s.year.openYear = some y ∧ (dirEntry s.arch.own sector).firstYear = some f
    ∧ (dirEntry s.arch.own sector).lastYear = some l ∧ max f l ≤ y ∧ y ≤ max f l + s.cfg.retention

/-- The own ring needs an erase that the retention does not allow (R162). -/
def OwnEraseBarred (s : State) : Prop := ∃ k, EraseNeeded .own s.arch.own k ∧ Retained s k

/-- The retention test: RING_FULL is entered, raising ARCHIVE, when the own ring's erase is barred, and left when it is not
(R162). -/
def RetentionTested (s t : State) : Prop :=
  (s.arch.state = .ready → OwnEraseBarred s →
    t = (s.setArch { s.arch with state := .ringFull }).setRetr { s.retr with flags := s.retr.flags ||| 0x40#9 })
  ∧ (s.arch.state = .ringFull → ¬ OwnEraseBarred s → t = s.setArch { s.arch with state := .ready })
  ∧ (s.arch.state = .fault ∨ (s.arch.state = .ready ∧ ¬ OwnEraseBarred s)
    ∨ (s.arch.state = .ringFull ∧ OwnEraseBarred s) → t = s)

/-- The work of a witness partition: its erase-ahead when one is needed, else the program of the head staged record of its
origin (R153). -/
def PartWork (s : State) (place : Nat) (o : FlashOp) : Prop :=
  ∃ w, originAt s place = some w
    ∧ ((∃ k, EraseNeeded (.part place) (ringOf s (.part place)) k ∧ o = .erasing (.part place) k)
      ∨ ((∀ k, ¬ EraseNeeded (.part place) (ringOf s (.part place)) k) ∧ w.staged ≠ []
        ∧ o = .programming (.part place)))

/-- Witness work, round-robin from the partition after the one served last (R153). -/
def WitnessWorkStarted (s t : State) : Prop :=
  (∀ i o, i < 3 → PartWork s ((s.arch.roundRobin + 1 + i) % 3) o →
    (∀ j, j < i → ∀ x, ¬ PartWork s ((s.arch.roundRobin + 1 + j) % 3) x) →
    t = s.setArch { s.arch with op := o, roundRobin := (s.arch.roundRobin + 1 + i) % 3 })
  ∧ ((∀ p, p < 3 → ∀ x, ¬ PartWork s p x) → t = s)

/-- The operation that R153 starts by its order: in READY the own erase-ahead when it is needed and allowed; then, with
none needed, the program of the oldest WAITING_ARCHIVE entry, which takes the last assigned number plus 1 unless it has
one; then witness work. In RING_FULL only witness work, in FAULT nothing (R153, R157, R164). -/
def WorkStarted (s t : State) : Prop :=
  (s.arch.state = .fault → t = s)
  ∧ (s.arch.state = .ringFull → WitnessWorkStarted s t)
  ∧ (s.arch.state = .ready →
    (∀ k, EraseNeeded .own s.arch.own k → ¬ Retained s k → t = s.setArch { s.arch with op := .erasing .own k })
    ∧ (OwnEraseBarred s → WitnessWorkStarted s t)
    ∧ ((∀ k, ¬ EraseNeeded .own s.arch.own k) →
      ((∀ e ∈ s.arch.outbound, e.state ≠ .waitingArchive) → WitnessWorkStarted s t)
      ∧ ∀ older e younger, s.arch.outbound = older ++ e :: younger → e.state = .waitingArchive →
        (∀ x ∈ older, x.state ≠ .waitingArchive) →
        let q := e.seq.getD (s.arch.lastAssigned + 1)
        t = s.setArch { s.arch with
          op := .programming .own
          lastAssigned := if e.seq = none then q else s.arch.lastAssigned
          outbound := older ++ { e with state := .programming, seq := some q } :: younger }))

/-- An erase of a sector may start: the area needs it (R161), a partition is used by an origin, the own ring is READY and its
target holds no retained year (R162), and the archive is not in FAULT (R164). -/
def EraseMayStart (s : State) (a : Area) (k : Nat) : Prop :=
  s.arch.state ≠ .fault ∧ EraseNeeded a (ringOf s a) k
  ∧ (a = .own → s.arch.state = .ready ∧ ¬ Retained s k) ∧ ∀ p, a = .part p → originAt s p ≠ none

/-- The one operation that a flash-idle event starts. The first such event after a warm return reissues the erase that the
supply-fail event abandoned (R165, R178), before the order of R153 (log entry 42), unless it may not start; every other event
follows that order. -/
def OperationStarted (s t : State) : Prop :=
  (∀ a k, s.arch.abandoned = some (a, k) → EraseMayStart s a k →
    t = s.setArch { s.arch with
      op := .erasing a k, abandoned := none
      roundRobin := match a with | .own => s.arch.roundRobin | .part p => p })
  ∧ ((∀ a k, s.arch.abandoned = some (a, k) → ¬ EraseMayStart s a k) →
    WorkStarted (s.setArch { s.arch with abandoned := none }) t)

/-- What a program's end does to its ring: the write position moves on, and the directory entry of the page's sector
follows: good, with the record's sequence number and year; failed, with one more defective page (R151, R154; the record
count and the highest sequence are the model's own fields, log entry 46). -/
def DirectoryFollows (good : Bool) (a : Area) (r : Rec) (s t : State) : Prop :=
  let w := (ringOf s a).writePos
  let e := dirEntry (ringOf s a) (w / 16)
  let filled : SectorState := if w % 16 = 15 then .full else .filling
  (ringOf t a).writePos = (w + 1) % a.pages
  ∧ (∀ k, k ≠ w / 16 → dirEntry (ringOf t a) k = dirEntry (ringOf s a) k)
  ∧ dirEntry (ringOf t a) (w / 16) = if good then
      { e with
        state := filled, firstSeq := some (e.firstSeq.getD r.seq), firstYear := some (e.firstYear.getD (yearOf r.start))
        lastYear := some (yearOf r.start), records := e.records + 1, highSeq := some (max (e.highSeq.getD 0) r.seq) }
    else { e with state := filled, defective := e.defective + 1 }

/-! ## The append to the outbound record queue (R156) -/

/-- A record is appended to the outbound record queue. Below 16 entries it joins the tail in WAITING_ARCHIVE, without a
number, and nothing else changes. Of 16 or more, the oldest WAITING_PUBLISH entry whose telegram is not on the line leaves
first, one unpublished record, its placed telegram withdrawn from the RECORD queue; without such an entry the oldest
WAITING_ARCHIVE entry leaves, one unarchived record that raises ARCHIVE, and the last assigned number falls back by 1 when
it held one. Where the release of an own record waits in the order of R122 follows the entries left unplaced (log entry
14). -/
def RecordAppended (kind : RecordKind) (start : Nat) (body : List Byte) (s t : State) : Prop :=
  let appended (l : List OutEntry) : List OutEntry := l ++ [{ kind := kind, start := start, body := body }]
  (s.arch.outbound.length < 16 → t = s.setArch { s.arch with outbound := appended s.arch.outbound })
  ∧ (16 ≤ s.arch.outbound.length → ∀ older e younger, s.arch.outbound = older ++ e :: younger →
    (removablePublish s e = true → (∀ x ∈ older, removablePublish s x = false) →
      t = (((s.setArch t.arch).setPort t.port).setYear t.year)
      ∧ t.arch = { s.arch with outbound := appended (older ++ younger), releaseTicket := t.arch.releaseTicket }
      ∧ t.year = { s.year with day := { s.year.day with unpublished := min 4294967295 (s.year.day.unpublished + 1) } }
      ∧ t.port = { s.port with recordQ := t.port.recordQ, ticket := t.port.ticket }
      ∧ (let stands (x : RecordTel) : Prop := x.backfill = false ∧ e.seq = some x.record.seq
        (e.placed = false → t.port.recordQ = s.port.recordQ)
        ∧ (e.seq ≠ none → (∀ x ∈ s.port.recordQ, ¬ stands x) → t.port.recordQ = s.port.recordQ)
        ∧ (e.placed = true → ∀ first x rest, s.port.recordQ = first ++ x :: rest → stands x →
            (∀ y ∈ first, ¬ stands y) → t.port.recordQ = first ++ rest))
      ∧ (let waits := ∃ x ∈ older ++ younger, x.state = .waitingPublish ∧ x.placed = false
        (¬ waits → t.arch.releaseTicket = none ∧ t.port.ticket = s.port.ticket)
        ∧ (waits → ∀ n, s.arch.releaseTicket = some n →
            t.arch.releaseTicket = some n ∧ t.port.ticket = s.port.ticket)
        ∧ (waits → s.arch.releaseTicket = none →
            t.arch.releaseTicket = some s.port.ticket ∧ t.port.ticket = s.port.ticket + 1)))
    ∧ (e.state = .waitingArchive → (∀ x ∈ s.arch.outbound, removablePublish s x = false) →
      (∀ x ∈ older, x.state ≠ .waitingArchive) →
      t = ((s.setArch { s.arch with
          outbound := appended (older ++ younger)
          lastAssigned := if e.seq = none then s.arch.lastAssigned else s.arch.lastAssigned - 1 }).setYear
        { s.year with day := { s.year.day with unarchived := min 4294967295 (s.year.day.unarchived + 1) } }).setRetr
        { s.retr with flags := s.retr.flags ||| 0x40#9 }))

/-- Some records are appended one after the other, each as R156 says. -/
def RecordsAppended : List (RecordKind × Nat × List Byte) → State → State → Prop
  | [], s, t => t = s
  | x :: rest, s, t => ∃ u, RecordAppended x.1 x.2.1 x.2.2 s u ∧ RecordsAppended rest u t

/-! ## How a retrieval job works its sequences (R168 to R170) -/

/-- The state with the job of its terminal as it now is. -/
def withJob (j : Job) (s : State) : State :=
  s.setRetr { s.retr with jobs := s.retr.jobs.map (fun x => if x.terminal = j.terminal then j else x) }

/-- The job has an answer and waits for a place, behind the ticket it takes (R168; tickets: log entry 14). -/
def Waits (j : Job) (a : Answer) (skip : Bool) (s t : State) : Prop :=
  t = (withJob { j with work := .ready a skip s.port.ticket } s).setPort { s.port with ticket := s.port.ticket + 1 }

/-- The job asks the archive controller for a sequence of its origin's area (R168). -/
def AsksFor (j : Job) (n : Nat) (s t : State) : Prop :=
  ∀ a, areaOf s j.origin = some a →
    t = (withJob { j with next := n, work := .reading } s).setArch { s.arch with
      requests := s.arch.requests ++ [⟨.job j.terminal, a, n⟩] }

/-- A job works its next sequence against the held range of its origin, of a bottom, absent when it is empty, and a top. A
READ past its last sequence or above the top is answered END, and a FOLLOW above the top waits; at or below the top a
sequence below the bottom is answered NOT_HELD, after which the next one is the bottom or the top plus 1, and one in the
range is asked for (R168, R170). A READ_YEAR passes over what is not held, and ends with END (R169). -/
def WorksOn (j : Job) (s t : State) : Prop :=
  let bottom := (rangeOf s j.origin).1
  let top := (rangeOf s j.origin).2
  (∀ l, j.kind = .read → j.last = some l → l < j.next ∨ top < j.next → Waits j (.done j.sent) false s t)
  ∧ (j.kind = .follow → top < j.next → t = withJob { j with work := .waiting } s)
  ∧ ((j.kind = .read ∧ ∃ l, j.last = some l ∧ j.next ≤ l) ∨ j.kind = .follow → j.next ≤ top →
      ((∀ b, bottom = some b → j.next < b) → Waits j (.notHeld j.origin j.next) true s t)
      ∧ ∀ b, bottom = some b → b ≤ j.next → AsksFor j j.next s t)
  ∧ ∀ y l, j.kind = .readYear y → j.last = some l →
      let n := max j.next (bottom.getD (top + 1))
      (l < n ∨ top < n → Waits j (.done j.sent) false s t) ∧ (n ≤ l → n ≤ top → AsksFor j n s t)

/-- A report of an origin's record wakes the FOLLOW jobs of the origin that wait, each working its next sequence again
(R170), in the order of the job list (log entry 48). -/
def FollowsWoken (origin : Nat) (s t : State) : Prop :=
  let l := s.retr.jobs.filter (fun j => decide (j.origin = origin ∧ j.kind = .follow ∧ j.work = .waiting))
  (l = [] → t = s) ∧ (∀ j, l = [j] → WorksOn j s t) ∧ ∀ i j, l = [i, j] → ∃ u, WorksOn i s u ∧ WorksOn j u t

/-- The oldest waiting read is served (R153, R155): that of a job that has left is discarded; a READ or FOLLOW job answers
RECORD with its own origin, or NOT_HELD, which stands for all of the range when a floor jump has emptied it meanwhile (R170;
how that is told from a defective page and an erased sector: log entry 53); a READ_YEAR job answers RECORD with a year
record of its year, and passes over every other one and every one not held (R168, R169). -/
def ReadServed (s t : State) : Prop :=
  ∀ q rest, s.arch.requests = q :: rest →
    let u := s.setArch { s.arch with requests := rest }
    let res := readRecord s q.area q.seq
    (q.who = .nobody → t = u)
    ∧ ∀ n j, q.who = .job n → jobOf s n = some j →
      ((∀ y, j.kind ≠ .readYear y) →
        (∀ r, res = some r → Waits j (.record { r with origin := j.origin }) false u t)
        ∧ (res = none → ∃ jumped : Bool, (jumped = true ↔ j.origin ≠ s.cfg.own ∧ (rangeOf s j.origin).1 = none)
          ∧ Waits j (.notHeld j.origin j.next) jumped u t))
      ∧ ∀ y, j.kind = .readYear y →
        let wanted (r : Rec) : Prop := (r.kind = .yearGeneral ∨ r.kind = .yearSlot) ∧ r.start = yearStart y
        (∀ r, res = some r → wanted r → Waits j (.record { r with origin := j.origin }) false u t)
        ∧ ((∀ r, res = some r → ¬ wanted r) → WorksOn { j with next := j.next + 1 } u t)

/-- The archive flash is in its canonical form: addresses rising, no erased byte listed. -/
def FlashCanonical (s : State) : Prop := s.arch.flash.wf = true

/-! ## The test of an origin's GAP conditions (R141) -/

/-- A GAP of the origin waits for room in the GAP queue (R141). -/
def WaitsForRoom (o : Origin) : Prop := ∃ g n, o.gap = some g ∧ g.phase = .waiting n

/-- The conditions are tested for an origin o without a GAP, in RECORDING, that now expects number e, with this known
latest and these slots available, and `gap` is what comes of it: no GAP, or one of e on with the least of 16, known - e + 1
and the slots as its count. It joins the GAP queue, or takes a ticket and waits, which it does when the queue is full or
another GAP waits already (R122, R141); GAPs formed in one act go in partition order (log entry 48). -/
def GapTested (s t : State) (o : Origin) (e known slots : Nat) (gap : Option Gap) : Prop :=
  let count := min 16 (min (known - e + 1) slots)
  let othersWait := ∃ y ∈ s.wit.origins, y.place ≠ o.place ∧ WaitsForRoom y
  (¬ (e ≤ known ∧ 1 ≤ slots) → gap = none)
  ∧ (e ≤ known → 1 ≤ slots → ∃ x, gap = some ⟨e, count, x⟩
      ∧ ((x = .queued ∧ ⟨o.station, e, count⟩ ∈ t.port.gapQ)
        ∨ ∃ n, x = .waiting n ∧ s.port.ticket ≤ n ∧ n < t.port.ticket)
      ∧ (2 ≤ s.port.gapQ.length ∨ othersWait → x ≠ .queued)
      ∧ (s.port.gapQ.length < 2 → ¬ othersWait →
          (∀ y ∈ s.wit.origins, y.place < o.place → gapWanted s y = false) → x = .queued))

/-! ## What HOLD and a warm return do with what goes on (R150, R170, R176) -/

/-- The tallies with one more defective page, within the bound of station counter 8 (R86). -/
def defectivePageCounted (s : State) : YearUnit :=
  { s.year with day := { s.year.day with defective := min 4294967295 (s.year.day.defective + 1) } }

/-- The operation in flight when the supply fails or RESET comes: a program completes on the hold-up supply and is acted on
as at its end; an erase of a sector is abandoned, not counted as failed, and noted, to be reissued at the first
flash-idle event after a warm return (R165; log entry 42); a commit is cut off and leaves an image whose check fails, its
page in flight counted as defective when it reads back wrong (R86, R176, R179, R183; that image: log entry 12; the
sequence numbers an abandoned erase took: log entry 46). -/
def CutOff (good : Bool) (s t : State) : Prop :=
  let others := t.wit = s.wit ∧ t.retr = s.retr ∧ t.year = s.year
  let ring (a : Area) : Prop := (ringOf t a).writePos = (ringOf s a).writePos ∧ (ringOf t a).dir = (ringOf s a).dir
    ∧ (ringOf t a).eraseFails = (ringOf s a).eraseFails ∧ (ringOf t a).failTarget = (ringOf s a).failTarget
  (s.arch.op = .idle → t.arch = s.arch ∧ others ∧ t.draws = s.draws)
  ∧ (∀ a, s.arch.op = .programming a →
    let u := programEnd good s
    t.arch = u.arch ∧ t.wit = u.wit ∧ t.retr = u.retr ∧ t.year = u.year ∧ t.draws = u.draws)
  ∧ (∀ a k, s.arch.op = .erasing a k → others
    ∧ t.arch = { s.arch with
        op := .idle, flash := t.arch.flash, own := t.arch.own, parts := t.arch.parts, abandoned := some (a, k) }
    ∧ (∀ x, ring x)
    ∧ (FlashCanonical s → ∀ x, (x < sectorAddress a k ∨ sectorAddress a k + 4096 ≤ x) →
        t.arch.flash.read x = s.arch.flash.read x))
  ∧ (s.arch.op = .commitErase → others)
  ∧ (∀ p, s.arch.op = .commitPage p → p ≤ 3 → t.wit = s.wit ∧ t.retr = s.retr
    ∧ t.year = if good then s.year else defectivePageCounted s)
  ∧ (s.arch.op = .commitErase ∨ (∃ p, s.arch.op = .commitPage p ∧ p ≤ 3) →
    t.arch = { s.arch with op := .idle, flash := t.arch.flash }
    ∧ (FlashCanonical s → imageCheckHolds (t.arch.flash.bytes 0 1024) = false
      ∧ ∀ x, 4096 ≤ x → t.arch.flash.read x = s.arch.flash.read x))
  ∧ (∀ p, s.arch.op = .commitPage p → p ≤ 3 → FlashCanonical s → ∀ x, 2 ≤ x →
    (x < 256 * p ∨ 256 * p + 256 ≤ x) → t.arch.flash.read x = s.arch.flash.read x)

/-- What has aged through the hold goes at a warm return: the marks of 10 minutes, the GAPs transmitted 10 s ago, whose
origin may then form a new one in RECORDING, and the jobs of terminals silent for 5 minutes (R147, R150, R170; log entry
29). -/
def AgedGone (s t : State) : Prop :=
  t.wit.marks = s.wit.marks.filter (fun m => decide (s.elapsed - m.at_ < 614400))
  ∧ ((s.wit.origins.map (·.place)).Nodup →
      t.wit.origins.map (fun o => { o with gap := none }) = s.wit.origins.map (fun o => { o with gap := none })
      ∧ ∀ o ∈ s.wit.origins,
        let sentLongAgo := ∃ g n, o.gap = some g ∧ g.phase = .sent n ∧ n + 10240 ≤ s.elapsed
        (o.gap ≠ none → ¬ sentLongAgo → o ∈ t.wit.origins)
        ∧ (sentLongAgo → t.supply.station ≠ some .recording → { o with gap := none } ∈ t.wit.origins))
  ∧ (∀ o ∈ t.wit.origins, ∀ g n, o.gap = some g → g.phase = .sent n → s.elapsed < n + 10240)
  ∧ (∀ j ∈ s.retr.jobs, 307200 ≤ s.elapsed - j.heardAt → ∀ i ∈ t.retr.jobs, i.terminal ≠ j.terminal)
  ∧ (∀ j ∈ s.retr.jobs, (∀ i ∈ s.retr.jobs, i.terminal = j.terminal → s.elapsed - i.heardAt < 307200) →
      ∃ i ∈ t.retr.jobs, i.terminal = j.terminal)
  ∧ (∀ i ∈ t.retr.jobs, ∃ j ∈ s.retr.jobs, i.terminal = j.terminal)
  ∧ t.retr.answers = s.retr.answers
  ∧ (s.arch.state = .ready → (t.arch.state = .ringFull ↔ OwnEraseBarred s)
      ∧ (OwnEraseBarred s → flagSet t .archive = true))
  ∧ (s.arch.state = .ringFull → (t.arch.state = .ready ↔ ¬ OwnEraseBarred s))
  ∧ (s.arch.state = .fault → t.arch.state = .fault)

/-! ## The two output lines (R48, R174) -/

/-- The nine causes in the order of their bits in the attention flags and in the enable set (7.7.3, 7.7.6). -/
def attentionOrder : List Cause :=
  [.feedStop, .disturbWarn, .coldFeed, .limit, .channelLoss, .witnessLag, .archive, .clock, .bus]

/-- Both lines are released while output is not permitted. While it is, FSTOP is asserted exactly in the FSTOP state
ASSERTED (R48), and ATTN exactly while a cause has both its flag and its bit of the enable set (R173, R174). -/
def LinesFollow (s : State) : Prop :=
  (fstopLine s = true ↔ s.supply.output = true ∧ s.line.fstop = true)
  ∧ (attnLine s = true ↔ s.supply.output = true
      ∧ ∃ (i : Nat) (c : Cause), attentionOrder[i]? = some c ∧ flagSet s c = true ∧ s.cfg.enable.getLsbD i = true)
  ∧ ∀ (i : Nat) (c : Cause), attentionOrder[i]? = some c → flagSet s c = s.retr.flags.getLsbD i

/-! ## Byte layouts (R130, R171, 7.7.3, 7.7.4) -/

/-- The bytes hold these fields, each by its offset, its length and its value, most significant byte first (R130). -/
def HoldsFields (b : List Byte) (l : List (Nat × Nat × Nat)) : Prop :=
  ∀ x ∈ l, field b x.1 x.2.1 = x.2.2 % 256 ^ x.2.1

/-- The code of a period status: VALID 1, INVALID 2, NOT_OPERATING 3 (7.7.4). -/
def periodCode (p : PeriodStatus) : Nat := [PeriodStatus.valid, .invalid, .notOperating].idxOf p + 1

/-- Nine minute statuses in the order of their codes (7.7.3, 7.7.4). -/
def statusOrder : List MinuteStatus := [.valid, .calib, .maint, .reference, .fault, .missing, .timegap, .hold, .powerLoss]

/-- A record header of 10 bytes (7.7.4). -/
def headerFields (r : Rec) : List (Nat × Nat × Nat) :=
  [(0, 1, [RecordKind.halfHour, .day, .yearGeneral, .yearSlot].idxOf r.kind + 1), (1, 1, r.origin), (2, 4, r.seq), (6, 4, r.start)]

/-- A HALF_HOUR body: 18 bytes and 20 for each slot entry (7.7.4). -/
def HalfHourLayout (h : HalfHour) : Prop :=
  let b := halfHourBody h
  b.length = 18 + 20 * h.entries.length
  ∧ HoldsFields b [(0, 1, h.counts.off), (1, 1, h.counts.standby), (2, 1, h.counts.firing), (3, 1, h.counts.coldFiring),
      (4, 1, h.counts.unknown), (5, 1, h.counts.noRecord), (6, 1, h.disturbed), (7, 3, h.runAtClose), (10, 1, h.h2oSubst),
      (11, 1, h.o2Clamped), (12, 2, h.o2Avg.getD 0), (14, 2, h.h2oAvg.getD 0),
      (16, 1, h.o2Avg.isSome.toNat + 2 * h.h2oAvg.isSome.toNat + 4 * h.fstop.toNat), (17, 1, h.entries.length)]
  ∧ ∀ i e, h.entries[i]? = some e → HoldsFields (b.drop (18 + 20 * i)) [
      (0, 1, e.slot % 16 + 16 * periodCode e.status + 64 * e.mass.isSome.toNat + 128 * e.rate.isSome.toNat),
      (1, 1, (e.cause.map statusOrder.idxOf).getD 0 + 16 * e.aExceeded.toNat + 32 * e.bExceeded.toNat
        + 64 * e.saturated.toNat + 128 * e.massSubst.toNat),
      (2, 1, e.validMinutes % 32 + 32 * e.massNone.toNat), (3, 3, (e.raw.getD 0 % 16777216).toNat),
      (6, 3, e.validated.getD 0), (9, 5, e.mass.getD 0), (14, 6, e.rate.getD 0)]

/-- A DAY body: 38 bytes and 7 for each day entry (7.7.4). -/
def DayLayout (d : DayRecord) : Prop :=
  let b := dayBody d
  b.length = 38 + 7 * d.entries.length
  ∧ HoldsFields b [(0, 1, d.operating), (1, 4, d.counters.rxErrors), (5, 4, d.counters.giveUps), (9, 4, d.counters.clashes),
      (13, 4, d.counters.refusals), (17, 4, d.counters.skips), (21, 4, d.counters.unpublished),
      (25, 4, d.counters.unarchived), (29, 4, d.counters.defective), (33, 4, d.counters.clockSteps),
      (37, 1, d.entries.length)]
  ∧ ∀ i e, d.entries[i]? = some e → HoldsFields (b.drop (38 + 7 * i)) [
      (0, 1, e.slot % 16 + 16 * periodCode e.status + 64 * e.exceeded.toNat), (1, 3, e.average.getD 0), (4, 1, e.valid),
      (5, 1, e.invalid), (6, 1, e.aExceed)]

/-- A YEAR_GENERAL body of 82 bytes, and a YEAR_SLOT body of 26 (7.7.4). -/
def YearLayouts (g : YearGeneral) (y : YearSlot) : Prop :=
  (yearGeneralBody g).length = 82
  ∧ HoldsFields (yearGeneralBody g) [(0, 2, g.year), (2, 4, g.minutes.off), (6, 4, g.minutes.standby),
      (10, 4, g.minutes.firing), (14, 4, g.minutes.coldFiring), (18, 4, g.minutes.unknown), (22, 4, g.minutes.noRecord),
      (26, 4, g.disturbance), (30, 4, g.longest), (34, 4, g.fstops), (38, 4, g.coldFiring), (42, 4, g.totals.rxErrors),
      (46, 4, g.totals.giveUps), (50, 4, g.totals.clashes), (54, 4, g.totals.refusals), (58, 4, g.totals.skips),
      (62, 4, g.totals.unpublished), (66, 4, g.totals.unarchived), (70, 4, g.totals.defective),
      (74, 4, g.totals.clockSteps), (78, 4, g.secured)]
  ∧ (yearSlotBody y).length = 26
  ∧ HoldsFields (yearSlotBody y) [(0, 1, y.row.slot), (1, 2, y.row.validDays), (3, 2, y.row.invalidDays),
      (5, 2, y.row.idleDays), (7, 2, y.row.validHalfHours), (9, 2, y.row.invalidHalfHours), (11, 2, y.row.aExceed),
      (13, 2, y.row.bCompliant), (15, 2, y.row.dayExceed), (17, 2, y.row.massSubst), (19, 2, y.permille.getD 0),
      (21, 1, y.permille.isSome.toNat + 2 * y.bBreach.toNat + 4 * y.availabilityBreach.toNat + 8 * y.mass.isSome.toNat),
      (22, 4, y.mass.getD 0)]

/-- Every field of a HALF_HOUR record lies within the width that its body gives it, and is present as R70 says. -/
def HalfHourFits (h : HalfHour) : Prop :=
  (∀ x ∈ h.counts.toList, x < 256) ∧ h.disturbed < 256 ∧ h.runAtClose < 16777216 ∧ h.h2oSubst < 256 ∧ h.o2Clamped < 256
  ∧ (∀ v, h.o2Avg = some v → v < 65536) ∧ (∀ v, h.h2oAvg = some v → v < 65536) ∧ h.entries.length < 256
  ∧ ∀ e ∈ h.entries, e.slot < 16 ∧ e.validMinutes < 32 ∧ (e.raw.isSome = true ↔ e.status = .valid)
    ∧ (e.validated.isSome = true ↔ e.status = .valid) ∧ (e.cause.isSome = true ↔ e.status = .invalid)
    ∧ e.cause ≠ some .valid ∧ (∀ v, e.raw = some v → -8388608 ≤ v ∧ v ≤ 8388607)
    ∧ (∀ v, e.validated = some v → v < 16777216) ∧ (∀ v, e.mass = some v → v < 1099511627776)
    ∧ ∀ v, e.rate = some v → v < 281474976710656

/-- The same of a DAY record (R79). -/
def DayFits (d : DayRecord) : Prop :=
  d.operating < 256 ∧ (∀ x ∈ d.counters.toList, x < 4294967296) ∧ d.entries.length < 256
  ∧ ∀ e ∈ d.entries, e.slot < 16 ∧ e.valid < 256 ∧ e.invalid < 256 ∧ e.aExceed < 256
    ∧ (e.average.isSome = true ↔ e.status = .valid) ∧ ∀ v, e.average = some v → v < 16777216

/-- The current minute entry of a slot: 6 bytes, and 3 for each value present (7.7.3). -/
def MinuteEntryLayout (b : List Byte) (slot : Nat) (a : Acc) (e : Option MinuteEntry) : Prop :=
  let f := (e.map (·.flags)).getD {}
  let value : Option Int := (e.bind (·.value)).map (fun v => match v with | .analogue x => x | .binary b => b.toNat)
  let std := e.bind (·.std)
  b.length = 6 + 3 * value.isSome.toNat + 3 * std.isSome.toNat
  ∧ HoldsFields b [(0, 1, slot + 16 * ((e.map (fun x => statusOrder.idxOf x.status + 1)).getD 0)),
      (1, 1, f.overrange.toNat + 2 * f.h2oSubst.toNat + 4 * f.o2Clamp.toNat + 8 * f.h2oClamp.toNat + 16 * f.saturated.toNat
        + 32 * value.isSome.toNat + 64 * std.isSome.toNat),
      (2, 1, a.valid + a.maint + a.calib + a.fault), (3, 1, a.valid), (4, 2, a.excess)]
  ∧ (∀ v, value = some v → HoldsFields b [(6, 3, (v % 16777216).toNat)])
  ∧ ∀ v, std = some v → HoldsFields b [(6 + 3 * value.isSome.toNat, 3, (v % 16777216).toNat)]

/-- The CONDITION snapshot shows the part as it stands (R171, 7.7.3): without a slot in UNCONFIGURED and COMMISSION. -/
def SnapshotShows (s : State) (b : List Byte) : Prop :=
  let p := if s.tb.state = .unset then 0 else s.tb.plant.getD 0
  let station := (s.supply.station.map
    [Station.unconfigured, .commission, .scan, .timeUnset, .catchUp, .recording, .hold].idxOf).getD 0
  let state := (s.minutes.last.map (fun r =>
    [OpState.off, .standby, .firing, .coldFiring, .unknown, .noRecord].idxOf r.opState + 1)).getD 0
  let slots : List (Nat × Slot) := if s.supply.station = some .unconfigured ∨ s.supply.station = some .commission then [] else slotsInUse s.cfg
  let results := (s.avg.last.map (·.entries)).getD []
  HoldsFields b [(0, 4, p / 1024), (4, 2, p % 1024),
      (6, 1, station + 8 * [TimeState.unset, .running, .frozen].idxOf s.tb.state
        + 32 * [ArchiveState.ready, .ringFull, .fault].idxOf s.arch.state + 128 * s.line.fstop.toNat),
      (7, 3, s.line.run), (10, 3, s.line.yearTotal), (13, 2, s.retr.flags.toNat), (15, 1, s.arch.outbound.length),
      (16, 1, (s.wit.origins.map (fun o => o.staged.length)).sum), (17, 1, state + 8 * slots.length),
      (18, 4, (s.avg.last.map (·.start)).getD 0), (22, 1, results.length)]
  ∧ (∀ i e, results[i]? = some e →
      HoldsFields (b.drop (23 + 4 * i)) [(0, 1, e.slot + 16 * periodCode e.status), (1, 3, e.validated.getD 0)])
  ∧ ∃ parts : List (List Byte), b.drop (23 + 4 * results.length) = parts.flatten ∧ parts.length = slots.length
    ∧ ∀ (i : Nat) (q : Nat × Slot) (x : List Byte), slots[i]? = some q → parts[i]? = some x →
      MinuteEntryLayout x q.1 (s.accs.getD q.1 {}) (s.minutes.last.bind (fun r => entryAt r.entries q.1))

/-- The payloads of the telegrams that the part sends of its own, with the key and the length before them and the CRC-16
after them (R107, R119, R120, 7.7.2, 7.7.3). -/
def TelegramLayouts : Prop :=
  (∀ ticks reference, (timePayload ticks reference).length = 7
    ∧ HoldsFields (timePayload ticks reference) [(0, 4, ticks / 1024), (4, 2, ticks % 1024), (6, 1, reference.toNat)])
  ∧ (∀ t : RecordTel, let b := recordPayload t
    HoldsFields b (headerFields t.record ++ [(10, 1, t.backfill.toNat), (11, 1, t.record.body.length)])
      ∧ b.drop 12 = t.record.body)
  ∧ (∀ l, (markPayload l).length = 1 + 9 * l.length ∧ HoldsFields (markPayload l) [(0, 1, l.length)]
    ∧ ∀ i m, l[i]? = some m →
      HoldsFields ((markPayload l).drop (1 + 9 * i)) [(0, 1, m.origin), (1, 4, m.held), (5, 4, m.oldest)])
  ∧ (∀ g, (gapPayload g).length = 6 ∧ HoldsFields (gapPayload g) [(0, 1, g.target), (1, 4, g.first), (5, 1, g.count)])
  ∧ (∀ p, (presencePayload p).length = 18
    ∧ HoldsFields (presencePayload p) [(0, 1, 1), (1, 1, p.line),
      (2, 1, [Station.unconfigured, .commission, .scan, .timeUnset, .catchUp, .recording, .hold].idxOf p.station),
      (3, 4, p.latest), (7, 4, p.floor), (11, 4, p.secured),
      (15, 1, [TimeState.unset, .running, .frozen].idxOf p.timeState), (16, 2, p.flags.toNat)])
  ∧ (∀ cls own payload, let b := frameBytes cls own payload
    b.length = payload.length + 4
      ∧ HoldsFields b [(0, 1, 32 * cls + own), (1, 1, payload.length),
        (2 + payload.length, 2, (crc16 (b.take (2 + payload.length))).toNat)]
      ∧ slice b 2 payload.length = payload)

/-- The payload of an ANSWER: its terminal, its tag, its kind, and the fields of the kind (7.7.3). -/
def AnswerLayout (t : AnswerTel) : Prop :=
  let b := answerPayload t
  let holds (kind : Nat) (l : List (Nat × Nat × Nat)) : Prop :=
    HoldsFields b ([(0, 1, t.terminal), (1, 1, t.tag.toNat), (2, 1, kind)] ++ l)
  (∀ r, t.answer = .record r → holds 1 [(13, 1, r.body.length)] ∧ HoldsFields (b.drop 3) (headerFields r)
    ∧ b.drop 14 = r.body)
  ∧ (∀ o q, t.answer = .notHeld o q → holds 2 [(3, 1, o), (4, 4, q)] ∧ b.length = 8)
  ∧ (∀ n, t.answer = .done n → holds 3 [(3, 2, n)] ∧ b.length = 5)
  ∧ (t.answer = .busy → holds 4 [] ∧ b.length = 3)
  ∧ (∀ r, t.answer = .refused r → holds 5 [(3, 1, [RefuseReason.origin, .state].idxOf r + 1)] ∧ b.length = 4)
  ∧ (∀ x, t.answer = .condition x → holds 6 [] ∧ b.drop 3 = x)
  ∧ (∀ f, t.answer = .cleared f → holds 7 [(3, 2, f.toNat)] ∧ b.length = 5)
  ∧ (∀ r off, t.answer = .configResult r off →
    holds 8 [(3, 1, [ConfigResult.ok, .checkFailed, .flashFailed, .range].idxOf r), (4, 2, off)] ∧ b.length = 6)

/-! ## Received telegrams (R127 to R131, 7.7.3) -/

/-- The payload of a QUERY: target, tag and kind, and the fields of the kind after them. -/
def QueryLayout (i : Instr) (head : QueryHead) (kind length : Nat) (fields : List (Nat × Nat × Nat)) : Prop :=
  ∃ p, telegramBytes i = some (5, p) ∧ p.length = length
    ∧ HoldsFields p ([(0, 1, head.target.toNat), (1, 1, head.tag.toNat), (2, 1, kind)] ++ fields)

/-- The class of each received telegram, and its payload with the fields of 7.7.3 at their places (R120, R130, R131). -/
def ReceivedLayouts : Prop :=
  (∀ sender seconds ticks reference, ∃ p, telegramBytes (.receiveTime sender seconds ticks reference) = some (0, p)
    ∧ p.length = 7 ∧ HoldsFields p [(0, 4, seconds.toNat), (4, 2, ticks.toNat), (6, 1, reference.toNat)])
  ∧ (∀ sender channel tag status value, ∃ p, telegramBytes (.receiveReading sender channel tag status value) = some (1, p)
    ∧ p.length = 5 ∧ HoldsFields p [(0, 1, 16 * channel.toNat + tag.toNat), (1, 1, status.toNat), (2, 3, value.toNat)])
  ∧ (∀ sender head body, ∃ p, telegramBytes (.receiveRecord sender head body) = some (2, p)
    ∧ p.length = 12 + body.length ∧ p.drop 12 = body
    ∧ HoldsFields p [(0, 1, head.kind.toNat), (1, 1, head.origin.toNat), (2, 4, head.seq.toNat),
        (6, 4, head.start.toNat), (10, 1, head.backfill.toNat), (11, 1, body.length)])
  ∧ (∀ sender entries, ∃ p, telegramBytes (.receiveMark sender entries) = some (3, p)
    ∧ p.length = 1 + 9 * entries.length ∧ HoldsFields p [(0, 1, entries.length)]
    ∧ ∀ i e, entries[i]? = some e →
      HoldsFields (p.drop (1 + 9 * i)) [(0, 1, e.origin.toNat), (1, 4, e.held.toNat), (5, 4, e.oldest.toNat)])
  ∧ (∀ sender target first count, ∃ p, telegramBytes (.receiveGap sender target first count) = some (4, p)
    ∧ p.length = 6 ∧ HoldsFields p [(0, 1, target.toNat), (1, 4, first.toNat), (5, 1, count.toNat)])
  ∧ (∀ head origin first count, QueryLayout (.read head origin first count) head 1 10
      [(3, 1, origin.toNat), (4, 4, first.toNat), (8, 2, count.toNat)])
  ∧ (∀ head origin year, QueryLayout (.readYear head origin year) head 2 5 [(3, 1, origin.toNat), (4, 1, year.toNat)])
  ∧ (∀ head, QueryLayout (.condition head) head 3 3 [])
  ∧ (∀ head causes, QueryLayout (.clearAttention head causes) head 4 5 [(3, 2, causes.toNat)])
  ∧ (∀ head offset data, QueryLayout (.configBlock head offset data) head 5 (6 + data.length)
        [(3, 2, offset.toNat), (5, 1, data.length)]
      ∧ ∀ c p, telegramBytes (.configBlock head offset data) = some (c, p) → p.drop 6 = data)
  ∧ (∀ head length check, QueryLayout (.configCommit head length check) head 6 7
      [(3, 2, length.toNat), (5, 2, check.toNat)])
  ∧ ∀ sender x, ∃ p, telegramBytes (.receivePresence sender x) = some (7, p) ∧ p.length = 18
    ∧ HoldsFields p [(0, 1, x.kind.toNat), (1, 1, x.line.toNat), (2, 1, x.station.toNat), (3, 4, x.latest.toNat),
        (7, 4, x.floor.toNat), (11, 4, x.secured.toNat), (15, 1, x.timeState.toNat), (16, 2, x.flags.toNat)]

/-- The attention flags of a PRESENCE and the cause set of a CLEAR_ATTENTION have no bit set that 7.7.3 does not name. -/
def OnlyNamedBits (i : Instr) : Prop :=
  (∀ sender x, i = .receivePresence sender x → x.flags.toNat < 512)
  ∧ ∀ head causes, i = .clearAttention head causes → causes.toNat < 512

/-- Whatever the bits of a received payload that 7.7.3 does not name, it stands for the same command (R130): bits 7 to 1 of
the flag bytes of a TIME and a RECORD, and bits 15 to 9 of the attention flags and of a cause set. -/
def UnnamedBitsIgnored : Prop :=
  ∀ (sender : BitVec 5) (before after : List Byte) (x y : Byte),
    (x.getLsbD 0 = y.getLsbD 0 → before.length = 6 →
      telegramOf 0 sender (before ++ [x]) = telegramOf 0 sender (before ++ [y]))
    ∧ (x.getLsbD 0 = y.getLsbD 0 → before.length = 10 →
      telegramOf 2 sender (before ++ x :: after) = telegramOf 2 sender (before ++ y :: after))
    ∧ (x.getLsbD 0 = y.getLsbD 0 → before.length = 16 → after.length = 1 →
      telegramOf 7 sender (before ++ x :: after) = telegramOf 7 sender (before ++ y :: after))
    ∧ (x.getLsbD 0 = y.getLsbD 0 → before.length = 3 → field before 2 1 = 4 → after.length = 1 →
      telegramOf 5 sender (before ++ x :: after) = telegramOf 5 sender (before ++ y :: after))

/-- What a frame on the line stands for (R127 to R129): the receive error that it is; the station clash of its class, when
it carries the part's own number; no command, when it is another's ANSWER; and a telegram that a well-formed command spells
is that command. It joins the queue at its end. -/
def FramesReadBack : Prop :=
  (∀ own frame endMark, frameIsError frame endMark = true →
    commandOfFrame own frame endMark = some (.receiveError frame endMark))
  ∧ (∀ i frame, i.wf = true → telegramFrame i = some frame → frameIsError frame true = false
    ∧ ∀ sender cls p own, i.sender = some sender → telegramBytes i = some (cls, p) →
      (sender.toNat = own → commandOfFrame own frame true = some (.stationClash (BitVec.ofNat 3 cls)))
      ∧ (sender.toNat ≠ own → OnlyNamedBits i → commandOfFrame own frame true = some i))
  ∧ (∀ (own sender : Nat) (p : List Byte), 1 ≤ sender → sender < 32 → p.length ≤ 240 → frameIsError (frameBytes 6 sender p) true = false
    ∧ (sender ≠ own → commandOfFrame own (frameBytes 6 sender p) true = none))
  ∧ ∀ frame endMark (s : State), s.hear frame endMark =
      s.setPending (s.pending ++ (commandOfFrame s.cfg.own frame endMark).toList)

/-- The settings that an image holds, each at its offset; of a slot entry the fields that its kind holds, the others 0
(R3, 7.7.6). -/
def ImageSettings (b : List Byte) (c : Settings) : Prop :=
  [c.own, c.line, c.refO2, c.o2Cap, c.defaultH2O, c.furnace, c.runCap, c.yearCap, c.dayAllowance, c.yearAllowance,
      c.retention, c.reserved, c.quorum]
    = [field b 8 1, field b 9 1, field b 41 2, field b 43 2, field b 45 2, field b 47 3, field b 50 2, field b 52 2,
      field b 54 1, field b 55 1, field b 56 1, field b 60 1, field b 61 1]
  ∧ c.witnessSet = [field b 57 1, field b 58 1, field b 59 1] ∧ c.enable = BitVec.ofNat 9 (field b 62 2)
  ∧ c.stations.length = 31
  ∧ (∀ st, 1 ≤ st → st ≤ 31 →
      stationKind c st = [StationKind.absent, .recorder, .source, .terminal].getD (field b (9 + st) 1) .absent)
  ∧ c.slots.length = 16
  ∧ ∀ i, i < 16 →
    let o := 64 + 22 * i
    let x := c.slots.getD i {}
    let held (h : Bool) (off len : Nat) : Nat := if h then field b (o + off) len else 0
    let used := x.kind != .unused
    let analogue := used && x.kind != .feed && x.kind != .disturb
    let pollutant := x.kind == .pollutant
    x.kind = [SlotKind.unused, .pollutant, .o2, .h2o, .flow, .furnace, .feed, .disturb].getD (field b o 1) .unused
    ∧ x.station = held used 1 1 ∧ x.channel = held used 2 1 ∧ x.interval = held used 3 1
    ∧ x.fullScale = held analogue 4 3
    ∧ (x.unit = .ug ↔ held pollutant 7 1 = 1) ∧ (x.basis = .wet ↔ held (pollutant || x.kind == .o2) 8 1 = 1)
    ∧ x.limitA = held pollutant 9 3 ∧ x.limitB = held pollutant 12 3 ∧ x.bRequired = held pollutant 15 2
    ∧ x.dailyLimit = held pollutant 17 3 ∧ x.confidence = held pollutant 20 2

/-! ## The checks of a configuration image (R3, R6, R133, R134, R183) -/

/-- The recorder settings that are numbers: offset, bytes, least and greatest value (chapter 1, R134, 7.7.6). -/
def settingBounds : List (Nat × Nat × Nat × Nat) :=
  [(8, 1, 1, 31), (9, 1, 1, 8), (41, 2, 0, 1700), (43, 2, 1700, 2000), (45, 2, 0, 4000), (47, 3, 0, 150000),
   (50, 2, 60, 480), (52, 2, 600, 6000), (54, 1, 0, 10), (55, 1, 0, 30), (56, 1, 1, 6), (60, 1, 2, 8), (61, 1, 0, 3)]

/-- The recorder setting at an offset fails: a number out of its range; an entry of the station table, at 9 and the
station number, that is no listed kind, or not RECORDER for the part's own number; or an entry of the witness set that is
neither 0 nor a RECORDER other than the part in no other entry (R134, R183). -/
def SettingFails (b : List Byte) (off : Nat) : Prop :=
  (∃ x ∈ settingBounds, x.1 = off ∧ (field b off x.2.1 < x.2.2.1 ∨ x.2.2.2 < field b off x.2.1))
  ∨ (10 ≤ off ∧ off ≤ 40 ∧ (3 < field b off 1 ∨ (off - 9 = field b 8 1 ∧ field b off 1 ≠ 1)))
  ∨ (57 ≤ off ∧ off ≤ 59 ∧ field b off 1 ≠ 0 ∧ (31 < field b off 1 ∨ field b (9 + field b off 1) 1 ≠ 1
      ∨ field b off 1 = field b 8 1 ∨ ∃ i < 3, 57 + i ≠ off ∧ field b (57 + i) 1 = field b off 1))

/-- The offset of slot entry i (7.7.6). -/
def entryAtOffset (i : Nat) : Nat := 64 + 22 * i

/-- A field of slot entry i fails, at `d` bytes from its start: only the fields that R3 gives its kind are examined, and
an entry of kind 0 holds none. -/
def SlotFieldFails (b : List Byte) (i d : Nat) : Prop :=
  let o := entryAtOffset i
  let k := field b o 1
  let v (n : Nat) := field b (o + d) n
  (d = 0 ∧ 8 ≤ k)
  ∨ (1 ≤ k ∧ k ≤ 7
    ∧ ((d = 1 ∧ (v 1 = 0 ∨ 31 < v 1 ∨ field b (9 + v 1) 1 ≠ 2 ∨ v 1 = field b 8 1))
      ∨ (d = 2 ∧ 15 < v 1)
      ∨ (d = 3 ∧ v 1 ∉ [1, 2, 3, 4, 5, 6, 10, 12, 15, 20, 30, 60])
      ∨ (d = 4 ∧ k ≤ 5 ∧ (v 3 = 0 ∨ (if k = 4 then 1000000 else 8388607) < v 3))
      ∨ (d = 7 ∧ k = 1 ∧ 1 < v 1)
      ∨ (d = 8 ∧ k ≤ 2 ∧ 1 < v 1)
      ∨ ((d = 9 ∨ d = 12 ∨ d = 17) ∧ k = 1 ∧ 8388607 < v 3)
      ∨ (d = 15 ∧ k = 1 ∧ 1000 < v 2)
      ∨ (d = 20 ∧ k = 1 ∧ 500 < v 2)))

/-- The kind code of slot entry i. -/
def kindAt (b : List Byte) (i : Nat) : Nat := field b (entryAtOffset i) 1

/-- A check of an image fails and names an offset; `rank` is its place in the order of the checks (R6, R183): 0 the
settings, 1 the fields of the slots, 2 a source that a slot of lower number has, 10 and the kind code for too many slots
of a kind, 20 and the code for a kind that is lacking, and 30 for a WET basis without an H2O slot. -/
def ImageFault (b : List Byte) (rank off : Nat) : Prop :=
  (rank = 0 ∧ SettingFails b off)
  ∨ (rank = 1 ∧ ∃ i < 16, ∃ d < 22, off = entryAtOffset i + d ∧ SlotFieldFails b i d)
  ∨ (rank = 2 ∧ ∃ i < 16, off = entryAtOffset i + 2 ∧ kindAt b i ≠ 0
      ∧ ∃ j < i, kindAt b j ≠ 0 ∧ field b (entryAtOffset j + 1) 1 = field b (entryAtOffset i + 1) 1
        ∧ field b (entryAtOffset j + 2) 1 = field b (entryAtOffset i + 2) 1)
  ∨ (11 ≤ rank ∧ rank ≤ 17 ∧ ∃ i < 16, off = entryAtOffset i ∧ kindAt b i = rank - 10
      ∧ (if rank = 11 then 10 else 1) ≤ (List.range i).countP (fun j => kindAt b j == rank - 10))
  ∨ ((rank = 21 ∨ rank = 22 ∨ rank = 25 ∨ rank = 26) ∧ (∀ j < 16, kindAt b j ≠ rank - 20)
      ∧ ∃ i < 16, off = entryAtOffset i ∧ kindAt b i = 0)
  ∨ (rank = 30 ∧ (∀ j < 16, kindAt b j ≠ 3)
      ∧ ∃ i < 16, off = entryAtOffset i + 8 ∧ (kindAt b i = 1 ∨ kindAt b i = 2) ∧ field b (entryAtOffset i + 8) 1 = 1)

/-- The first check of an image that fails, and the least offset that this check can name. -/
def FirstFault (b : List Byte) (off : Nat) : Prop :=
  ∃ rank, ImageFault b rank off ∧ ∀ r o, ImageFault b r o → rank < r ∨ (rank = r ∧ off ≤ o)

/-! ## Properties that every step keeps -/

/-- Every queue and list holds at most what the manual gives it (R105, R109, R122, R142, R147, R156, R166, R167), and
what keeps the gap list and the peer offset table so: the gap list is empty outside a catch-up, and of two entries the
last is of kind HOLD (R106, R113, R116, R117); the peer offset table holds one entry for each station 1 to 31 (R109); a
backfill job has a sequence left (R143); and a terminal has one retrieval job, and a read request only while it has (R167,
R170). -/
structure WithinCapacities (s : State) : Prop where
  recordQueue : s.port.recordQ.length ≤ 4
  gapQueue : s.port.gapQ.length ≤ 2
  answerQueue : s.port.answerQ.length ≤ 4
  backfillJobs : s.wit.jobs.length ≤ 4
  markTable : s.wit.marks.length ≤ 7
  retrievalJobs : s.retr.jobs.length ≤ 2
  pendingAnswers : answersHeld s ≤ 4
  outboundQueue : s.arch.outbound.length ≤ 16
  gapList : s.tb.gaps.length ≤ 2
  gapListEmpty : s.tb.catchUp = false → s.tb.gaps = []
  gapListFull : s.tb.gaps.length = 2 → s.tb.gaps.getLast?.map (·.kind) = some .hold
  backfillRanges : ∀ j ∈ s.wit.jobs, j.next ≤ j.last
  jobTerminals : (s.retr.jobs.map (·.terminal)).Nodup
  requesters : ∀ q ∈ s.arch.requests, ∀ t, q.who = .job t → ∃ j ∈ s.retr.jobs, j.terminal = t
  peerTable : s.tb.peers.length ≤ 31
  peerStations : (s.tb.peers.map (·.station)).Nodup
  peerNumbers : ∀ e ∈ s.tb.peers, 1 ≤ e.station ∧ e.station ≤ 31

/-- How the staging pool stands (R135, R136, R137): one witness state for each partition, no origin above its
reservation, the shared slots in use within the shared pool, so that free and occupied slots make 48, and every staged
list in order without a gap from the held mark on. -/
structure StagingAccounted (s : State) : Prop where
  partitions : (s.wit.origins.map (·.place)).Nodup
  places : ∀ o ∈ s.wit.origins, o.place < 3
  reservations : s.wit.origins.length * s.cfg.reserved ≤ 48
  reserved : ∀ o ∈ s.wit.origins, o.using .reserved ≤ s.cfg.reserved
  shared : (s.wit.origins.map (fun o => o.using .shared)).sum ≤ 48 - s.wit.origins.length * s.cfg.reserved
  consecutive : ∀ o ∈ s.wit.origins, o.staged.map (·.record.seq) = List.range' (o.held + 1) o.staged.length

/-- The outbound entries not yet archived, oldest first (R156). -/
def unarchived (s : State) : List OutEntry := s.arch.outbound.filter (fun e => e.state != .waitingPublish)

/-- How sequence numbers stand (R156, R157, R158, R148): the secured mark is at most the latest archived number, and
that at most the last assigned; only the oldest entry not yet archived may hold a number, which is then the last
assigned and above the latest archived; an entry is PROGRAMMING only with a number, while an own program is in flight;
no two entries of the queue hold the same number, nor one above the last assigned; and COMMISSION holds no own
records. -/
structure SequenceOrder (s : State) : Prop where
  secured : s.wit.secured ≤ s.arch.latest
  latest : s.arch.latest ≤ s.arch.lastAssigned
  younger : ∀ e ∈ (unarchived s).drop 1, e.seq = none ∧ e.state = .waitingArchive
  oldest : ∀ e, (unarchived s).head? = some e → ∀ q, e.seq = some q → q = s.arch.lastAssigned ∧ s.arch.latest < q
  programming : ∀ e, (unarchived s).head? = some e → e.state = .programming →
    e.seq.isSome = true ∧ s.arch.op = .programming .own
  distinct : (s.arch.outbound.filterMap (·.seq)).Nodup
  assigned : ∀ e ∈ s.arch.outbound, ∀ q, e.seq = some q → q ≤ s.arch.lastAssigned
  commission : s.supply.station = some .commission → s.arch.outbound = []

end Sys2Proof.Machine
end

