-- ==== Sys2Proof/Certificates/Slice0/Obligations.lean ====
section
/-! DEFINITION. The statements about the part, for the provers. -/

open Sys2Proof Sys2Proof.Machine

/-! ## The step and the queue of commands -/

/-- A step takes the command at the front of the queue and runs it on the queue's rest. -/
def Obligations.StepRunsTheFrontCommand : Prop :=
  ∀ (c : Instr) (rest : List Instr) (s : Machine.State),
    s.pending = c :: rest → step s = exec c (s.setPending rest)

/-- On an empty queue a step counts one tick of elapsed time and of plant time, which stays at its upper end; only the
timebase changes with it (R101; that a step of an empty queue is a tick is the model's choice, log entry 1). The whole
second that plant time then passes makes the TIME send (R107), the PRESENCE send (R145) and the agreement round (R111)
due, unless a correction of a round has put it back after they were taken (R108); without a plant time PRESENCE falls
due each minute of elapsed time. Outside HOLD and reset a freeze ends when plant time reaches T_c + 60 s (R102, R114).
When it reaches T_c + 120 s two minutes are due at once, and a catch-up begins (R106; that the boundary command of the first
may be so late is the model's reading, log entry 37). That these actions are due until the next tick and no longer is the
model's choice (log entry 4), and so is what stands for the 60 s without a plant time (log entry 36). -/
def Obligations.EmptyQueueStepCountsOneTick : Prop :=
  ∀ s : Machine.State, s.pending = [] →
    ∃ tb, step s = .next ((s.setElapsed (s.elapsed + 1)).setTb tb)
      ∧ tb.plant = s.tb.plant.map (fun p => if p < Config.plantTimeEnd then p + 1 else p)
      ∧ tb = { s.tb with plant := tb.plant, state := tb.state, catchUp := tb.catchUp, dues := tb.dues, taken := tb.taken }
      ∧ (let due (seconds : Nat) : Prop :=
          ∃ p c, tb.plant = some p ∧ s.tb.closed = some c ∧ (c + seconds) * 1024 ≤ p
        let thaws := s.tb.state = .frozen ∧ due 60 ∧ s.supply.station ≠ none ∧ s.supply.station ≠ some .hold
        (thaws → tb.state = .running) ∧ (¬ thaws → tb.state = s.tb.state)
        ∧ (tb.catchUp = true ↔
            s.tb.catchUp = true ∨ (CatchingUpOrRecording s ∧ tb.state = .running ∧ due 120)))
      ∧ ((∃ p, s.tb.plant = some p ∧ p < Config.plantTimeEnd ∧ (p + 1) % 1024 = 0) → tb.taken = none)
      ∧ ((∀ p, s.tb.plant = some p → Config.plantTimeEnd ≤ p ∨ (p + 1) % 1024 ≠ 0) → tb.taken = s.tb.taken)
      ∧ (∀ p, s.tb.plant = some p →
          (p < Config.plantTimeEnd → (p + 1) % 1024 = 0 → s.tb.taken ≠ some ((p + 1) / 1024) →
            let sec := (p + 1) / 1024
            tb.dues = {
              time := decide (sec % 10 = s.cfg.own % 10), presence := decide (sec % 60 = 2 * s.cfg.own % 60)
              round := decide (sec % 60 = 30) })
          ∧ (Config.plantTimeEnd ≤ p ∨ (p + 1) % 1024 ≠ 0 ∨ s.tb.taken = some ((p + 1) / 1024) → tb.dues = {}))
      ∧ (s.tb.plant = none → tb.dues = {
          presence := decide (s.port.state ≠ .off ∧ 0 < s.elapsed + 1 - s.port.activeSince
            ∧ (s.elapsed + 1 - s.port.activeSince) % 61440 = 0) })

/-- Every command has a next state (log entry 3), leaves the queue of commands and the time count alone (that commands
run in no time is the model's choice, log entry 1), and only COLD_START changes the configuration in use (R1, R134,
R179). -/
def Obligations.EveryCommandGoesOnAndOnlyColdStartReconfigures : Prop :=
  ∀ (c : Instr) (s : Machine.State), ∃ t, exec c s = .next t ∧ t.pending = s.pending ∧ t.elapsed = s.elapsed
    ∧ ((∀ svc, c ≠ .coldStart svc) → t.cfg = s.cfg)

/-- What a cold start gives every block, in the state after reset, which is the part in reset at its first power-on
(the model's choice, log entry 2; that the RAM then holds the cold-start values is its choice too, log entry 10): the
port OFF with empty queues (R121); accumulators 0 (R17) and no minute closed (R38); the account at 0 and FSTOP released
(R55); no averaging row, no last half-hour and every year tally 0 (R81, R88), the rows being formed with a configuration;
no flag (R173), job or answer; no gap, offset or collected time (R102, R109); the archive READY with the pointer at 2,
nothing queued, no failure counted and no erase to reissue (R165); no witnessed origin, so nothing staged, no mark and nothing secured (R136,
R148); and no staging image, which is held as no bytes (the model's choice, log entry 45). -/
def Obligations.ResetStateHasTheColdStartValues : Prop :=
  let s := Machine.State.reset
  s.supply.station = none ∧ s.supply.commit = .idle ∧ s.supply.staging = [] ∧ s.supply.clockValid = false
    ∧ s.port.state = .off ∧ s.port.timeQ.entry = none ∧ s.port.recordQ = []
    ∧ s.port.markQ.entry = none ∧ s.port.gapQ = [] ∧ s.port.answerQ = [] ∧ s.port.presenceQ.entry = none
    ∧ s.port.onLine = none ∧ s.port.errorRun = 0
    ∧ s.accs.length = 16
    ∧ (∀ a ∈ s.accs, a.sum = 0 ∧ a.valid = 0 ∧ a.overrange = 0 ∧ a.maint = 0 ∧ a.calib = 0 ∧ a.fault = 0
        ∧ a.nonZero = 0 ∧ a.excess = 0)
    ∧ s.minutes.rows = [] ∧ s.minutes.last = none
    ∧ s.line.run = 0 ∧ s.line.yearTotal = 0 ∧ s.line.longest = 0 ∧ s.line.fstop = false ∧ s.line.warned = false
    ∧ s.line.coldFed = false ∧ s.line.fstopInHalfHour = false
    ∧ s.avg.rows = [] ∧ s.avg.last = none
    ∧ s.year.rows = [] ∧ s.year.minutes.toList = List.replicate 6 0 ∧ s.year.fstops = 0 ∧ s.year.coldFiring = 0
    ∧ s.year.totals.toList = List.replicate 9 0 ∧ s.year.day.toList = List.replicate 9 0
    ∧ s.retr.flags = 0 ∧ s.retr.jobs = [] ∧ s.retr.answers = []
    ∧ s.arch.state = .ready ∧ s.arch.op = .idle ∧ s.arch.roundRobin = 2 ∧ s.arch.failureRun = 0
    ∧ s.arch.abandoned = none ∧ s.arch.outbound = []
    ∧ s.arch.requests = [] ∧ s.arch.lastAssigned = 0 ∧ s.arch.latest = 0
    ∧ s.wit.origins = [] ∧ stagingUsed s = 0 ∧ s.wit.secured = 0 ∧ s.wit.marks = [] ∧ s.wit.jobs = []
    ∧ s.tb.state = .unset ∧ s.tb.stepCount = 0 ∧ s.tb.gaps = [] ∧ s.tb.catchUp = false ∧ s.tb.sampled = none
    ∧ s.tb.peers = [] ∧ s.tb.reference = none ∧ s.tb.stored = [] ∧ s.tb.window = none
    ∧ fstopLine s = false ∧ attnLine s = false ∧ s.pending = []

/-! ## Readings -/

/-- R9: a reading of a line tag above 8 or of a status that is not listed changes nothing, in every station state. -/
def Obligations.ReadingOfUnlistedTagOrStatusIsIgnored : Prop :=
  ∀ (sender : BitVec 5) (channel tag : BitVec 4) (status : BitVec 8) (value : BitVec 24) (s : Machine.State),
    sender.toNat ≠ s.cfg.own → (8 < tag.toNat ∨ 4 < status.toNat) →
      exec (.receiveReading sender channel tag status value) s = .next s

/-- A reading outside RECORDING, of a source that no slot in use has, or of another line's tag changes nothing (R8,
R10). -/
def Obligations.UnmatchedReadingIsIgnored : Prop :=
  ∀ (sender : BitVec 5) (channel tag : BitVec 4) (status : BitVec 8) (value : BitVec 24) (s : Machine.State),
    sender.toNat ≠ s.cfg.own →
    (s.supply.station ≠ some .recording
      ∨ (∀ p ∈ slotsInUse s.cfg, ¬ (p.2.station = sender.toNat ∧ p.2.channel = channel.toNat))
      ∨ (tag.toNat ≠ 0 ∧ tag.toNat ≠ s.cfg.line)) →
      exec (.receiveReading sender channel tag status value) s = .next s

/-- R12: a taken VALID sample raises the valid count; on an analogue slot it enters the sum, held within the permitted
range and marked when outside it; on a binary slot it raises the non-zero count when it is not zero. -/
def Obligations.ValidSampleEntersItsAccumulator : Prop :=
  ∀ (sender : BitVec 5) (channel tag : BitVec 4) (value : BitVec 24) (i : Nat) (sl : Slot) (s : Machine.State),
    SampleOf s sender channel tag i sl → BelowCap s i sl →
      exec (.receiveReading sender channel tag 0 value) s = .next (s.setAccs (s.accs.modify i (fun a =>
        if sl.kind = .feed ∨ sl.kind = .disturb then
          { a with valid := a.valid + 1, nonZero := a.nonZero + (if value.toInt = 0 then 0 else 1) }
        else
          let low : Int := if sl.kind = .flow then 0 else -(sl.fullScale : Int)
          let entered : Int :=
            if value.toInt < low then low else if (sl.fullScale : Int) < value.toInt then sl.fullScale else value.toInt
          { a with
            valid := a.valid + 1, sum := a.sum + entered
            overrange := a.overrange + (if entered = value.toInt then 0 else 1) })))

/-- A taken OVERRANGE sample counts as valid and as overrange on every kind of slot, and enters the sum or the non-zero
count as a VALID one does (R13); a taken MAINT, CALIB or FAULT sample raises the count of its own status and nothing
else, whatever its value (R14). -/
def Obligations.OtherSamplesEnterByTheirStatus : Prop :=
  (∀ (sender : BitVec 5) (channel tag : BitVec 4) (value : BitVec 24) (i : Nat) (sl : Slot) (s : Machine.State),
    SampleOf s sender channel tag i sl → BelowCap s i sl →
      exec (.receiveReading sender channel tag 4 value) s = .next (s.setAccs (s.accs.modify i (fun a =>
        if sl.kind = .feed ∨ sl.kind = .disturb then
          { a with
            valid := a.valid + 1, overrange := a.overrange + 1
            nonZero := a.nonZero + (if value.toInt = 0 then 0 else 1) }
        else
          let low : Int := if sl.kind = .flow then 0 else -(sl.fullScale : Int)
          let entered : Int :=
            if value.toInt < low then low else if (sl.fullScale : Int) < value.toInt then sl.fullScale else value.toInt
          { a with valid := a.valid + 1, sum := a.sum + entered, overrange := a.overrange + 1 }))))
  ∧ (∀ (sender : BitVec 5) (channel tag : BitVec 4) (value : BitVec 24) (i : Nat) (sl : Slot) (s : Machine.State),
    SampleOf s sender channel tag i sl → BelowCap s i sl →
      exec (.receiveReading sender channel tag 1 value) s
          = .next (s.setAccs (s.accs.modify i (fun a => { a with maint := a.maint + 1 })))
        ∧ exec (.receiveReading sender channel tag 2 value) s
          = .next (s.setAccs (s.accs.modify i (fun a => { a with calib := a.calib + 1 })))
        ∧ exec (.receiveReading sender channel tag 3 value) s
          = .next (s.setAccs (s.accs.modify i (fun a => { a with fault := a.fault + 1 }))))

/-- A sample of a slot whose taken count has reached the cap raises only the excess count, which stays at 65,535
(R11). -/
def Obligations.SampleAtTheCapIsExcess : Prop :=
  ∀ (sender : BitVec 5) (channel tag : BitVec 4) (status : BitVec 8) (value : BitVec 24) (i : Nat) (sl : Slot)
    (s : Machine.State) (a : Acc),
    SampleOf s sender channel tag i sl → status.toNat ≤ 4 → s.accs[i]? = some a →
    2 * (60 / sl.interval) ≤ a.valid + a.maint + a.calib + a.fault →
      exec (.receiveReading sender channel tag status value) s
        = .next (s.setAccs (s.accs.modify i (fun a => { a with excess := min 65535 (a.excess + 1) })))

/-! ## Minutes, the line, half-hours and the year -/

/-- A minute closed with its samples. The base status: VALID from half the expected count on; else the most frequent of
CALIB, MAINT and FAULT, ties in that order; else MISSING (R23). A slot that is not VALID has no value and no flag. A
VALID reference slot: the rounded mean (R25), held to 0 to 2,100 for O2 (R26) and 0 to 4,000 for H2O with its flag
(R27), or for a binary slot whether half its valid samples are not zero (R29); OVERRANGE from one overrange sample on
(R28). A VALID pollutant slot: the water vapour value H from the H2O minute, the default or 0 (R31), the dry value (R36),
and REFERENCE without a VALID O2 minute (R30) or else the standardized value N / M with the O2 cap, rounded and held to
its range, with the flags (R32 to R34). -/
def Obligations.MinuteEntriesFollowTheSamples : Prop :=
  (∀ (e : Nat) (a : Acc),
    (e ≤ 2 * a.valid → baseStatus e a = .valid)
    ∧ (2 * a.valid < e →
        (baseStatus e a = .missing ↔ a.calib = 0 ∧ a.maint = 0 ∧ a.fault = 0)
        ∧ (baseStatus e a = .calib ↔ 0 < a.calib ∧ a.maint ≤ a.calib ∧ a.fault ≤ a.calib)
        ∧ (baseStatus e a = .maint ↔ a.calib < a.maint ∧ a.fault ≤ a.maint)
        ∧ (baseStatus e a = .fault ↔ a.calib < a.fault ∧ a.maint < a.fault)))
  ∧ (∀ (sl : Slot) (a : Acc),
    let base := baseStatus (60 / sl.interval) a
    let entry (v : MinuteValue) (clamp : Bool) : MinuteEntry :=
      { status := .valid, flags := { overrange := decide (1 ≤ a.overrange), h2oClamp := clamp }, value := some v }
    (base ≠ .valid → referenceEntry sl a = { status := base })
    ∧ (base = .valid → (sl.kind = .feed ∨ sl.kind = .disturb) →
        referenceEntry sl a = entry (.binary (decide (a.valid ≤ 2 * a.nonZero))) false)
    ∧ (base = .valid → sl.kind ≠ .feed → sl.kind ≠ .disturb → ∃ m, RoundsTo a.sum a.valid m
        ∧ (sl.kind = .o2 → referenceEntry sl a = entry (.analogue (max 0 (min 2100 m))) false)
        ∧ (sl.kind = .h2o →
            referenceEntry sl a = entry (.analogue (max 0 (min 4000 m))) (decide (m < 0 ∨ 4000 < m)))
        ∧ (sl.kind ≠ .o2 → sl.kind ≠ .h2o → referenceEntry sl a = entry (.analogue m) false)))
  ∧ (∀ (c : Settings) (sl o2 : Slot) (a : Acc) (oxygen : MinuteEntry) (water : Option MinuteEntry),
    let base := baseStatus (60 / sl.interval) a
    let e := pollutantEntry c sl a o2 oxygen water
    (base ≠ .valid → e = { status := base })
    ∧ (base = .valid → ∃ (m : Int) (h : Nat), RoundsTo a.sum a.valid m
        ∧ e.value = some (.analogue m) ∧ e.flags.overrange = decide (1 ≤ a.overrange)
        ∧ (sl.basis = .dry → o2.basis = .dry → h = 0 ∧ e.flags.h2oSubst = false ∧ e.flags.h2oClamp = false)
        ∧ (∀ w, sl.basis = .wet ∨ o2.basis = .wet → water = some w →
            (∀ v : Nat, w.status = .valid → w.value = some (.analogue v) →
              h = v ∧ e.flags.h2oSubst = false ∧ e.flags.h2oClamp = w.flags.h2oClamp)
            ∧ (w.status ≠ .valid → h = c.defaultH2O ∧ e.flags.h2oSubst = true ∧ e.flags.h2oClamp = false))
        ∧ (sl.basis = .dry → e.dry = some m.toNat)
        ∧ (sl.basis = .wet → ∃ q, RoundsTo (m * 10000) (10000 - h) q ∧ e.dry = some q.toNat)
        ∧ (oxygen.status ≠ .valid →
            e.status = .reference ∧ e.std = none ∧ e.flags.o2Clamp = false ∧ e.flags.saturated = false)
        ∧ (∀ o : Int, oxygen.status = .valid → oxygen.value = some (.analogue o) →
            let d : Nat := 10000 - h
            let n : Int := m * ((2100 : Int) - c.refO2) * (if sl.basis = .wet then 10000 else d)
            let exceeds := if o2.basis = .wet then (c.o2Cap : Int) * d < 10000 * o else (c.o2Cap : Int) < o
            let k : Int := if exceeds then (d : Int) * ((2100 : Int) - c.o2Cap)
              else if o2.basis = .wet then 2100 * (d : Int) - 10000 * o else (d : Int) * (2100 - o)
            ∃ q, RoundsTo n k.toNat q ∧ e.status = .valid ∧ e.std = some (max (-8388608) (min 8388607 q))
              ∧ e.flags.o2Clamp = decide exceeds ∧ e.flags.saturated = decide (q < -8388608 ∨ 8388607 < q))))

/-- R46: the account of a classified minute; the FSTOP decision reads the new values (R47). -/
def Obligations.DisturbanceAccountFollowsTheMinute : Prop :=
  ∀ (st : OpState) (s : Machine.State),
    ((lineMinute st true s).line.run = min 16777215 (s.line.run + 1)
      ∧ (lineMinute st true s).line.yearTotal = s.line.yearTotal + 1
      ∧ (lineMinute st true s).line.longest = max s.line.longest (min 16777215 (s.line.run + 1))
      ∧ ((lineMinute st true s).line.fstop = true ↔ s.line.fstop = true ∨ s.cfg.runCap ≤ min 16777215 (s.line.run + 1)
          ∨ s.cfg.yearCap ≤ s.line.yearTotal + 1))
    ∧ (lineMinute st false s).line.run = 0 ∧ (lineMinute st false s).line.yearTotal = s.line.yearTotal
    ∧ (lineMinute st false s).line.longest = s.line.longest ∧ (lineMinute st false s).line.fstop = false

/-- A disturbed minute that leaves the run length or the year total at its cap, with FSTOP released, is an FSTOP
assertion: it is counted once, raises FEED_STOP and marks the half-hour. With FSTOP asserted already, below both caps,
or with a minute that is not disturbed, nothing is counted, and FEED_STOP and the half-hour's mark are as they were
(R47). A disturbed minute that brings the year total to three quarters of the year cap, rounded down, raises
DISTURB_WARN, once until the warning given is taken back (R49); a COLD_FIRING minute raises COLD_FEED, once in a half-hour
(R50). No other flag changes, and nothing but the account, the year's count and the flags. -/
def Obligations.FstopAssertionIsCountedOnce : Prop :=
  ∀ (st : OpState) (s : Machine.State),
    let reached := s.cfg.runCap ≤ min 16777215 (s.line.run + 1) ∨ s.cfg.yearCap ≤ s.line.yearTotal + 1
    let untouched (t : Machine.State) : Prop := t.year = s.year ∧ t.line.fstopInHalfHour = s.line.fstopInHalfHour
      ∧ flagSet t .feedStop = flagSet s .feedStop
    (reached → s.line.fstop = false →
      (lineMinute st true s).year = { s.year with fstops := s.year.fstops + 1 }
        ∧ flagSet (lineMinute st true s) .feedStop = true ∧ (lineMinute st true s).line.fstopInHalfHour = true)
    ∧ (reached → s.line.fstop = true → untouched (lineMinute st true s))
    ∧ (¬ reached → untouched (lineMinute st true s))
    ∧ untouched (lineMinute st false s)
    ∧ ∀ disturbed : Bool,
      let t := lineMinute st disturbed s
      let warned := disturbed = true ∧ s.line.yearTotal + 1 = 3 * s.cfg.yearCap / 4
      (t.line.warned = true ↔ s.line.warned = true ∨ warned)
      ∧ (flagSet t .disturbWarn = true ↔ flagSet s .disturbWarn = true ∨ (warned ∧ s.line.warned = false))
      ∧ (t.line.coldFed = true ↔ s.line.coldFed = true ∨ st = .coldFiring)
      ∧ (flagSet t .coldFeed = true ↔ flagSet s .coldFeed = true ∨ (st = .coldFiring ∧ s.line.coldFed = false))
      ∧ (∀ c : Cause, c ≠ .feedStop → c ≠ .disturbWarn → c ≠ .coldFeed → flagSet t c = flagSet s c)
      ∧ t.retr.jobs = s.retr.jobs ∧ t.retr.answers = s.retr.answers
      ∧ t = ((s.setLine t.line).setYear t.year).setRetr t.retr

/-- The HALF_HOUR record. General part: six minute counts, each of the minutes of its operating state (R58), the counts and
values of R59, an O2 and an H2O average, the rounded mean of the VALID entries of the operating minutes, absent without
one (R60), and an entry for each pollutant slot (R70). A slot entry is NOT_OPERATING below 15 operating minutes, VALID
from two thirds valid minutes on, INVALID otherwise (R61, R62). When VALID: the raw average, the rounded mean of the
standardized values (R63), the validated value, that less the allowance and not below 0 (R64), and A_EXCEEDED and
B_EXCEEDED above a limit set (R65). When INVALID: as cause the most frequent invalid status of the operating minutes, the
earlier of the tie order among equals (R66). With a FLOW slot and an operating minute: mass and mean mass rate of the
pairs (R68), else the previous rate carried forward with MASS_SUBST, or 0, with MASS_NONE in an operating half-hour
(R69). -/
def Obligations.HalfHourCountsStatusAndValue : Prop :=
  (∀ (start : Nat) (s : Machine.State),
    let h := halfHourRecord start s
    let rows := s.minutes.rows
    let average (x : Option Nat) (k : SlotKind) : Prop :=
      let vals := (rows.filter (fun r => decide (r.opState ≠ .off ∧ r.opState ≠ .standby))).filterMap (fun r =>
        match entryOfKind s.cfg r.entries k with
        | some e => if e.status = .valid then some e.number.toNat else none
        | none => none)
      (x = none ↔ vals = []) ∧ ∀ v, x = some v → v = (2 * vals.sum + vals.length) / (2 * vals.length)
    let minutes (x : OpState) : Nat := rows.countP (fun r => decide (r.opState = x))
    h.counts = {
        off := minutes .off, standby := minutes .standby, firing := minutes .firing, coldFiring := minutes .coldFiring,
        unknown := minutes .unknown, noRecord := minutes .noRecord }
    ∧ h.counts.toList.sum = rows.length
    ∧ h.disturbed = rows.countP (·.disturbed) ∧ h.runAtClose = s.line.run ∧ h.h2oSubst = rows.countP (·.h2oSubst)
    ∧ h.o2Clamped = rows.countP (·.o2Clamped) ∧ h.fstop = s.line.fstopInHalfHour
    ∧ average h.o2Avg .o2 ∧ average h.h2oAvg .h2o
    ∧ h.entries = (pollutants s.cfg).map (fun q => halfHourEntry s.cfg rows (avgRowAt s.avg q.1).rate q.1 q.2)
    ∧ ∀ e ∈ h.entries,
        e.validMinutes ≤ h.counts.firing + h.counts.coldFiring + h.counts.unknown + h.counts.noRecord)
  ∧ (∀ (c : Settings) (rows : List MinuteRow) (previous : Option Nat) (slot : Nat) (sl : Slot),
    let e := halfHourEntry c rows previous slot sl
    let m := (minuteCountsOf rows).operating
    let operating := rows.filter (fun r => decide (r.opState ≠ .off ∧ r.opState ≠ .standby))
    let es := operating.filterMap (fun r => entryAt r.entries slot)
    let valid := es.filter (fun x => x.status == .valid)
    let count (st : MinuteStatus) : Nat := es.countP (fun x => x.status == st)
    let rates := operating.filterMap (fun r =>
      match (entryAt r.entries slot).bind (·.dry), entryOfKind c r.entries .flow with
      | some d, some f => if f.status = .valid then some (d * f.number.toNat) else none
      | _, _ => none)
    m = operating.length ∧ e.validMinutes = valid.length
    ∧ (e.status = .notOperating ↔ m < 15) ∧ (e.status = .valid ↔ 15 ≤ m ∧ 2 * m ≤ 3 * e.validMinutes)
    ∧ (e.raw.isSome = true ↔ e.status = .valid) ∧ (e.validated.isSome = true ↔ e.status = .valid)
    ∧ (∀ raw, e.raw = some raw → RoundsTo (valid.map (fun x => x.std.getD 0)).sum valid.length raw
        ∧ ∃ u : Nat, 2000 * u ≤ 2 * sl.dailyLimit * sl.confidence + 1000
          ∧ 2 * sl.dailyLimit * sl.confidence + 1000 < 2000 * (u + 1)
          ∧ e.validated = some (if (u : Int) < raw then (raw - u).toNat else 0))
    ∧ (e.aExceeded = true ↔ ∃ v, e.validated = some v ∧ 0 < sl.limitA ∧ sl.limitA < v)
    ∧ (e.bExceeded = true ↔ ∃ v, e.validated = some v ∧ 0 < sl.limitB ∧ sl.limitB < v)
    ∧ (e.saturated = true ↔ ∃ x ∈ valid, x.flags.saturated = true)
    ∧ (e.cause.isSome = true ↔ e.status = .invalid)
    ∧ (∀ st, e.cause = some st → ∃ l r,
        [MinuteStatus.calib, .maint, .reference, .fault, .missing, .timegap, .hold, .powerLoss] = l ++ st :: r
        ∧ (∀ x ∈ l, count x < count st) ∧ ∀ x ∈ r, count x ≤ count st)
    ∧ (slotOfKind c .flow = none ∨ m = 0 →
        e.mass = none ∧ e.rate = none ∧ e.massSubst = false ∧ e.massNone = false)
    ∧ (slotOfKind c .flow ≠ none → 1 ≤ m →
        (rates ≠ [] → e.massSubst = false ∧ e.massNone = false
          ∧ e.rate = some ((2 * rates.sum + rates.length) / (2 * rates.length))
          ∧ e.mass = some ((2 * (rates.sum * m) + rates.length * 6000) / (2 * (rates.length * 6000))))
        ∧ (rates = [] → m < 15 →
          e.mass = some 0 ∧ e.rate = none ∧ e.massSubst = false ∧ e.massNone = false)
        ∧ (rates = [] → 15 ≤ m → e.rate = none
          ∧ (∀ q, previous = some q →
              e.mass = some ((2 * (q * m) + 6000) / 12000) ∧ e.massSubst = true ∧ e.massNone = false)
          ∧ (previous = none → e.mass = some 0 ∧ e.massSubst = false ∧ e.massNone = true))))

/-- The half-hour close. The HALF_HOUR record, with the body that the record's fields give, joins the tail of the outbound
record queue in WAITING_ARCHIVE without a number. The entries before it stay; of 16 there, the oldest published one whose
telegram is not on the line leaves, counted as unpublished, its telegram withdrawn from the RECORD queue, and without such a
one the oldest that waits for the archive leaves, counted as unarchived, the last assigned number falling back when it held
one, and ARCHIVE is raised (R156). The minute tables are emptied (R57), each pollutant slot's
half-hour enters its day row (R75), its channel-loss counter (R67) and its previous mass rate (R69), LIMIT and CHANNEL_LOSS
are raised for an entry with A_EXCEEDED and for an INVALID one whose counter reaches 3, and else stay, and the results are shown as the last half-hour (R72). The six counts enter the minute totals and
the cold-firing minutes, and each slot's half-hour its year tallies, B-compliant when VALID and within limit B (R84). -/
def Obligations.HalfHourCloseAppendsItsRecord : Prop :=
  ∀ (boundary : Nat) (s : Machine.State),
    let h := halfHourRecord (boundary - 1800) s
    let t := closeHalfHour boundary s
    (∃ before, t.arch.outbound
          = before ++ [{ kind := .halfHour, start := boundary - 1800, body := halfHourBody h }]
        ∧ (s.arch.outbound.length < 16 → before = s.arch.outbound ∧ t.year.day = s.year.day ∧ t.port = s.port
            ∧ t.arch.lastAssigned = s.arch.lastAssigned)
        ∧ (16 ≤ s.arch.outbound.length → ∀ older e younger, s.arch.outbound = older ++ e :: younger →
            (removablePublish s e = true → (∀ x ∈ older, removablePublish s x = false) →
              before = older ++ younger
                ∧ t.year.day = { s.year.day with unpublished := min 4294967295 (s.year.day.unpublished + 1) }
                ∧ t.arch.lastAssigned = s.arch.lastAssigned
                ∧ (let stands (x : RecordTel) : Prop := x.backfill = false ∧ e.seq = some x.record.seq
                  (e.placed = false → t.port.recordQ = s.port.recordQ)
                  ∧ (e.seq ≠ none → (∀ x ∈ s.port.recordQ, ¬ stands x) → t.port.recordQ = s.port.recordQ)
                  ∧ (e.placed = true → ∀ first x rest, s.port.recordQ = first ++ x :: rest → stands x →
                      (∀ y ∈ first, ¬ stands y) → t.port.recordQ = first ++ rest)))
            ∧ (e.state = .waitingArchive → (∀ x ∈ s.arch.outbound, removablePublish s x = false) →
              (∀ x ∈ older, x.state ≠ .waitingArchive) →
              before = older ++ younger ∧ flagSet t .archive = true ∧ t.port = s.port
                ∧ t.arch.lastAssigned = (if e.seq = none then s.arch.lastAssigned else s.arch.lastAssigned - 1)
                ∧ t.year.day = { s.year.day with unarchived := min 4294967295 (s.year.day.unarchived + 1) })))
    ∧ h.start = boundary - 1800 ∧ t.minutes.rows = [] ∧ t.minutes.last = s.minutes.last
    ∧ t.avg.last = some { start := boundary - 1800, entries := h.entries.map (fun e => ⟨e.slot, e.status, e.validated⟩) }
    ∧ t.avg.rows = s.avg.rows.map (fun r =>
        match h.entries.find? (fun e => e.slot == r.slot) with
        | none => r
        | some e => { r with
            rate := match e.rate with | some q => some q | none => r.rate
            loss := match e.status with
              | .valid => 0
              | .invalid => min 65535 (r.loss + 1)
              | .notOperating => r.loss
            day := match e.status with
              | .notOperating => r.day
              | .invalid => { r.day with operating := r.day.operating + 1, invalid := r.day.invalid + 1 }
              | .valid => { r.day with
                  operating := r.day.operating + 1, valid := r.day.valid + 1
                  sum := r.day.sum + e.validated.getD 0
                  aExceed := r.day.aExceed + (if e.aExceeded then 1 else 0) } })
    ∧ t.year.minutes.toList = List.zipWith (· + ·) s.year.minutes.toList h.counts.toList
    ∧ t.year.coldFiring = s.year.coldFiring + h.counts.coldFiring
    ∧ t.year.rows = s.year.rows.map (fun r =>
        match h.entries.find? (fun e => e.slot == r.slot) with
        | none => r
        | some e =>
          let limitB := (s.cfg.slots.getD r.slot {}).limitB
          { r with
            validHalfHours := r.validHalfHours + (if e.status = .valid then 1 else 0)
            invalidHalfHours := r.invalidHalfHours + (if e.status = .invalid then 1 else 0)
            bCompliant := r.bCompliant
              + (if 0 < limitB ∧ e.status = .valid ∧ e.validated.getD 0 ≤ limitB then 1 else 0)
            aExceed := r.aExceed + (if e.aExceeded then 1 else 0)
            massSubst := r.massSubst + (if e.massSubst then 1 else 0)
            mass := r.mass + e.mass.getD 0 })
    ∧ t.year.fstops = s.year.fstops ∧ t.year.totals = s.year.totals ∧ t.year.openYear = s.year.openYear
    ∧ (∀ e ∈ h.entries, (e.aExceeded = true → flagSet t .limit = true)
        ∧ (e.status = .invalid → 2 ≤ (avgRowAt s.avg e.slot).loss → flagSet t .channelLoss = true))
    ∧ (flagSet t .limit = true → flagSet s .limit = true ∨ ∃ e ∈ h.entries, e.aExceeded = true)
    ∧ (flagSet t .channelLoss = true → flagSet s .channelLoss = true
        ∨ ∃ e ∈ h.entries, e.status = .invalid ∧ 2 ≤ (avgRowAt s.avg e.slot).loss)
    ∧ (∀ c : Cause, c ≠ .limit → c ≠ .channelLoss → c ≠ .archive → flagSet t c = flagSet s c)
    ∧ t.port = { s.port with recordQ := t.port.recordQ, ticket := t.port.ticket }
    ∧ t.tb = s.tb ∧ t.accs = s.accs ∧ t.line = { s.line with coldFed := false, fstopInHalfHour := s.line.fstop }
    ∧ t.arch.flash = s.arch.flash ∧ t.arch.latest = s.arch.latest ∧ t.wit = s.wit ∧ t.supply = s.supply

/-- The year close appends its records to the outbound record queue, YEAR_GENERAL and then a YEAR_SLOT for each row of the
tallies, in order (R89); with room for them, after all that stands there, and in a full queue each as R156 has it, the
counts of what leaves standing in the day that begins. YEAR_GENERAL holds the tallies, the account and
the secured mark as they stand (R90). A YEAR_SLOT holds its row, the B compliance permille, a floor, when limit B is set
and there is a valid half-hour, B_BREACH below the required permille, AVAILABILITY_BREACH above the year allowance, and
with a FLOW slot the rounded year mass (R91). Then every year tally is 0 and every previous mass rate absent; the run
length, the FSTOP state, the day table, the channel-loss counters and the last half-hour results go on (R92, R52), and
the own witness floor moves to the year start sequence, or past the latest archived one (R140). The retention is then
tested for the year that is open now (R162). -/
def Obligations.YearCloseRestartsTheTallies : Prop :=
  (∀ (boundary : Nat) (s : Machine.State),
    let year := yearOf boundary - 1
    let t := closeYear boundary s
    t.year.rows = s.year.rows.map (fun r => { slot := r.slot }) ∧ t.year.minutes = {} ∧ t.year.fstops = 0
      ∧ t.year.coldFiring = 0 ∧ t.year.totals = {} ∧ t.line.yearTotal = 0 ∧ t.line.longest = 0
      ∧ t.line.warned = false ∧ t.line.run = s.line.run ∧ t.line.fstop = s.line.fstop
      ∧ t.avg.rows = s.avg.rows.map (fun r => { r with rate := none }) ∧ t.avg.last = s.avg.last
      ∧ t.year.openYear = s.year.openYear.map (· + 1)
      ∧ t.wit.ownFloor = s.wit.yearStart.getD (s.arch.latest + 1) ∧ t.wit.yearStart = none
      ∧ t.wit.origins = s.wit.origins ∧ t.wit.secured = s.wit.secured ∧ t.arch.latest = s.arch.latest
      ∧ (∃ u v, RecordsAppended
            ((.yearGeneral, yearStart year, yearGeneralBody (yearGeneralOf year s))
              :: s.year.rows.map (fun r => (.yearSlot, yearStart year, yearSlotBody (yearSlotOf s.cfg year r)))) s u
          ∧ t.year.day = u.year.day ∧ RetentionTested v t ∧ v.arch = u.arch ∧ v.port = u.port ∧ v.retr = u.retr
          ∧ v.arch = { t.arch with state := s.arch.state } ∧ v.year = t.year ∧ v.cfg = s.cfg)
      ∧ (s.arch.outbound.length + 1 + s.year.rows.length ≤ 16 →
          t.year.day = s.year.day
          ∧ t.arch.outbound = s.arch.outbound
            ++ { kind := .yearGeneral, start := yearStart year, body := yearGeneralBody (yearGeneralOf year s) }
            :: s.year.rows.map (fun r =>
                { kind := .yearSlot, start := yearStart year, body := yearSlotBody (yearSlotOf s.cfg year r) })))
  ∧ (∀ (year : Nat) (s : Machine.State),
    let g := yearGeneralOf year s
    g.year = year ∧ g.minutes = s.year.minutes ∧ g.disturbance = s.line.yearTotal ∧ g.longest = s.line.longest
      ∧ g.fstops = s.year.fstops ∧ g.coldFiring = s.year.coldFiring ∧ g.totals = s.year.totals
      ∧ g.secured = s.wit.secured)
  ∧ (∀ (c : Settings) (year : Nat) (r : YearRow),
    let sl := c.slots.getD r.slot {}
    let x := yearSlotOf c year r
    x.row = r
      ∧ (x.permille.isSome = true ↔ 0 < sl.limitB ∧ 1 ≤ r.validHalfHours)
      ∧ (∀ p, x.permille = some p →
          p * r.validHalfHours ≤ 1000 * r.bCompliant ∧ 1000 * r.bCompliant < (p + 1) * r.validHalfHours)
      ∧ (x.bBreach = true ↔ ∃ p, x.permille = some p ∧ p < sl.bRequired)
      ∧ (x.availabilityBreach = true ↔ c.yearAllowance < r.invalidDays)
      ∧ (slotOfKind c .flow = none → x.mass = none)
      ∧ (slotOfKind c .flow ≠ none → x.mass = some ((2 * r.mass + 1000000) / 2000000)))

/-! ## Plant time -/

/-- A TIME telegram in CATCH_UP or RECORDING: the send time plus 2 ticks less the part's plant time is stored for a
RECORDER, replacing that station's older offset, and as the reference for a TERMINAL with the flag set; from others
nothing is stored. A TIME past the end of plant time changes nothing, and neither does one outside CATCH_UP, RECORDING and
TIME_UNSET, or in the first two while no time is known (R109). A ticks field above 1,023 is taken as the number it makes, which is the model's choice (log
entry 27). -/
def Obligations.TimeTelegramStoresItsOffset : Prop :=
  (∀ (sender : BitVec 5) (seconds : BitVec 32) (ticks : BitVec 16) (reference : Bool) (s : Machine.State),
    Hears s sender →
    (Config.plantTimeEnd < seconds.toNat * 1024 + ticks.toNat
      ∨ (s.supply.station ≠ some .timeUnset ∧ (¬ CatchingUpOrRecording s ∨ s.tb.state = .unset))) →
    exec (.receiveTime sender seconds ticks reference) s = .next s)
  ∧ ∀ (sender : BitVec 5) (seconds : BitVec 32) (ticks : BitVec 16) (reference : Bool) (s : Machine.State) (own : Nat),
    Hears s sender → CatchingUpOrRecording s → s.tb.state ≠ .unset → s.tb.plant = some own →
    seconds.toNat * 1024 + ticks.toNat ≤ Config.plantTimeEnd →
    let e : OffsetEntry := ⟨sender.toNat, (seconds.toNat * 1024 + ticks.toNat : Int) + 2 - own, own⟩
    (stationKind s.cfg sender.toNat = .recorder →
      exec (.receiveTime sender seconds ticks reference) s = .next (s.setTb { s.tb with
        peers := s.tb.peers.filter (fun x => x.station != sender.toNat) ++ [e] }))
    ∧ (stationKind s.cfg sender.toNat = .terminal → reference = true →
      exec (.receiveTime sender seconds ticks reference) s = .next (s.setTb { s.tb with reference := some e }))
    ∧ (stationKind s.cfg sender.toNat = .terminal → reference = false →
      exec (.receiveTime sender seconds ticks reference) s = .next s)
    ∧ (stationKind s.cfg sender.toNat = .source ∨ stationKind s.cfg sender.toNat = .absent →
      exec (.receiveTime sender seconds ticks reference) s = .next s)

/-- In TIME_UNSET a reference time of a TERMINAL is adopted at once: plant time is the send time plus 2 ticks, the
validity flag is set, the collected times and the window are dropped, and CATCH_UP is entered (R115), with T_c, the gap
list and RUNNING or FROZEN by the resume point (R116). A ticks field above 1,023 is taken as the number it makes, which
is the model's choice (log entry 27). -/
def Obligations.ReferenceTimeIsAdopted : Prop :=
  ∀ (sender : BitVec 5) (seconds : BitVec 32) (ticks : BitVec 16) (s : Machine.State),
    Hears s sender → s.supply.station = some .timeUnset → stationKind s.cfg sender.toNat = .terminal →
    seconds.toNat * 1024 + ticks.toNat + 2 ≤ Config.plantTimeEnd →
    ∃ t, exec (.receiveTime sender seconds ticks true) s = .next t
      ∧ t.tb.plant = some (seconds.toNat * 1024 + ticks.toNat + 2) ∧ t.tb.state ≠ .unset
      ∧ t.supply.clockValid = true ∧ t.tb.stored = [] ∧ t.tb.window = none ∧ t.tb.stepCount = 0
      ∧ CatchingUpOrRecording t ∧ EntersCatchUp s.year.resume (seconds.toNat * 1024 + ticks.toNat + 2) t
      ∧ t.arch.flash = s.arch.flash ∧ t.arch.latest = s.arch.latest ∧ (∃ u, t = flashIdle u ∧ u.arch = s.arch)
      ∧ t = (((((s.setSupply t.supply).setTb t.tb).setPort t.port).setWit t.wit).setArch t.arch).setRetr t.retr

/-- A TIME of a RECORDER in TIME_UNSET: its send time plus 2 ticks is stored with the free count at its receipt, in place of
the sender's older one, and the first one starts the window; a TIME past the end of plant time, of a SOURCE or an absent
station, or of a TERMINAL with the flag clear stores nothing (R115). A ticks field above 1,023 is taken as the number it
makes (the model's choice, log entry 27).
When 20 s of the free count have passed since the window started, the middle of the stored times, each advanced by
the ticks since its receipt, is adopted (R115): a stored station's present time that at most half of them lie below,
and at least half of them do not exceed. CATCH_UP is then entered, with T_c, the gap list and RUNNING or FROZEN by the
resume point (R116). A time past the end of plant time stays at that end, which is the model's choice
(log entry 27). -/
def Obligations.EstablishmentWindowAdoptsTheMiddle : Prop :=
  (∀ (sender : BitVec 5) (seconds : BitVec 32) (ticks : BitVec 16) (reference : Bool) (s : Machine.State),
    Hears s sender → s.supply.station = some .timeUnset →
    let time := seconds.toNat * 1024 + ticks.toNat
    let kind := stationKind s.cfg sender.toNat
    (time ≤ Config.plantTimeEnd → kind = .recorder →
      ∃ w, (s.tb.window = none → w = s.elapsed) ∧ (∀ x, s.tb.window = some x → w = x)
        ∧ exec (.receiveTime sender seconds ticks reference) s = .next (s.setTb { s.tb with
            stored := s.tb.stored.filter (fun x => x.station != sender.toNat) ++ [⟨sender.toNat, time + 2, s.elapsed⟩]
            window := some w }))
    ∧ (Config.plantTimeEnd < time ∨ kind = .source ∨ kind = .absent ∨ (kind = .terminal ∧ reference = false) →
      exec (.receiveTime sender seconds ticks reference) s = .next s))
  ∧ ∀ (s : Machine.State) (w : Nat),
    s.supply.station = some .timeUnset → s.tb.window = some w → w + 20 * 1024 ≤ s.elapsed → s.tb.stored ≠ [] →
    let times := s.tb.stored.map (fun x => x.time + (s.elapsed - x.at_))
    ∃ t m, exec .establishmentWindowEnd s = .next t ∧ m ∈ times
      ∧ 2 * times.countP (fun x => decide (x < m)) < times.length
      ∧ times.length ≤ 2 * times.countP (fun x => decide (x ≤ m))
      ∧ t.tb.plant = some (min Config.plantTimeEnd m) ∧ t.tb.state ≠ .unset ∧ t.supply.clockValid = true
      ∧ t.tb.stored = [] ∧ t.tb.window = none ∧ CatchingUpOrRecording t
      ∧ EntersCatchUp s.year.resume (min Config.plantTimeEnd m) t ∧ t.arch.flash = s.arch.flash
      ∧ (∃ u, t = flashIdle u ∧ u.arch = s.arch)
      ∧ t = (((((s.setSupply t.supply).setTb t.tb).setPort t.port).setWit t.wit).setArch t.arch).setRetr t.retr

/-- TIME_SEND: in CATCH_UP or RECORDING with a known time, a TIME telegram with the flag clear becomes the entry of the
TIME queue, or is held aside while an entry is on the line (R107, R122). -/
def Obligations.TimeSendPlacesATimeTelegram : Prop :=
  ∀ s : Machine.State,
    s.tb.dues.time = true → CatchingUpOrRecording s → s.tb.state ≠ .unset →
    let s1 := s.setTb { s.tb with dues := { s.tb.dues with time := false } }
    (isOnLine s.port .time = false ∨ s.port.timeQ.entry = none →
      exec .timeSend s = .next (s1.setPort { s.port with timeQ := { entry := some false, aside := none } }))
    ∧ (isOnLine s.port .time = true → s.port.timeQ.entry ≠ none →
      exec .timeSend s = .next (s1.setPort { s.port with timeQ := { s.port.timeQ with aside := some false } }))

/-- An agreement round. With a fresh reference offset it is the target: up to 256 ticks plant time is corrected by it, up
to 2,047 by 256 ticks in its direction, and from 2,048 on it steps by it or refuses the step, and the step count is 0.
Else the target of a peer round is the lower middle of the fresh peer offsets together with 0: it acts alike up to 2,047
ticks; from 2,048 on the count of such targets of one sign rises, and the third steps or is refused while the first and
the second are corrected by 256 ticks. Without a fresh entry there is no correction, and the step count is 0 (R109, R111,
R112). A correction or a step moves the stored offsets and receipt times with it (R110), and a correction backwards puts
back the second it falls on (R108); what a step does to the timebase state, the gap list, the catch-up and the samples is
R112 to R114, the samples set aside in the model's own field (log entry 47). No other action becomes due by a round, also where a step lands
exactly on a whole second, which is the model's choice (log entry 39). -/
def Obligations.AgreementRoundActsByMagnitude : Prop :=
  ∀ (s : Machine.State) (p : Nat),
    s.tb.dues.round = true → s.supply.station = some .recording → s.tb.state ≠ .unset → s.tb.catchUp = false →
    s.tb.plant = some p →
    let fresh (e : OffsetEntry) : Prop := e.receipt ≤ (p : Int) ∧ (p : Int) ≤ e.receipt + 61440
    let frame (t : Machine.State) : Prop := 
      t = ((((s.setTb t.tb).setRetr t.retr).setYear t.year).setAccs t.accs).setMinutes t.minutes
      ∧ t.tb = { s.tb with
          plant := t.tb.plant, peers := t.tb.peers, reference := t.tb.reference, state := t.tb.state, gaps := t.tb.gaps
          catchUp := t.tb.catchUp, stepCount := t.tb.stepCount, stepNegative := t.tb.stepNegative, taken := t.tb.taken
          dues := { s.tb.dues with round := false } }
    let quarter (c : Int) : Int := if c < 0 then -256 else 256
    (∀ e, s.tb.reference = some e → fresh e →
      ∃ t, exec .agreementRound s = .next t ∧ frame t ∧ t.tb.stepCount = 0
        ∧ (e.offset.natAbs ≤ 256 → CorrectedBy s t p e.offset)
        ∧ (256 < e.offset.natAbs → e.offset.natAbs ≤ 2047 → CorrectedBy s t p (quarter e.offset))
        ∧ (2048 ≤ e.offset.natAbs → SteppedOrRefused s t p e.offset))
    ∧ ((∀ e, s.tb.reference = some e → ¬ fresh e) → (∃ e ∈ s.tb.peers, fresh e) →
      let l := 0 :: (s.tb.peers.filter (fun e =>
        decide (e.receipt ≤ (p : Int)) && decide ((p : Int) ≤ e.receipt + 61440))).map (·.offset)
      ∃ t m, exec .agreementRound s = .next t ∧ frame t ∧ m ∈ l
        ∧ l.countP (fun x => decide (x < m)) < (l.length + 1) / 2
        ∧ (l.length + 1) / 2 ≤ l.countP (fun x => decide (x ≤ m))
        ∧ (m.natAbs ≤ 256 → CorrectedBy s t p m ∧ t.tb.stepCount = 0)
        ∧ (256 < m.natAbs → m.natAbs ≤ 2047 → CorrectedBy s t p (quarter m) ∧ t.tb.stepCount = 0)
        ∧ (2048 ≤ m.natAbs →
            let n := if 0 < s.tb.stepCount ∧ s.tb.stepNegative = decide (m < 0) then s.tb.stepCount + 1 else 1
            (n < 3 → CorrectedBy s t p (quarter m) ∧ t.tb.stepCount = n ∧ t.tb.stepNegative = decide (m < 0))
            ∧ (3 ≤ n → SteppedOrRefused s t p m)))
    ∧ ((∀ e, (s.tb.reference = some e ∨ e ∈ s.tb.peers) → ¬ fresh e) →
      exec .agreementRound s = .next (s.setTb { s.tb with
        stepCount := 0, dues := { s.tb.dues with round := false } }))

/-- The boundary event of the open minute, when it is due: the minute's entries are filled, the earlier empty ones of its
half-hour as POWER_LOSS (R21, R22), by the close kind that the sampled minute and the gap list give (R105), and T_c moves
to its end. The sampled minute, once closed, becomes in RECORDING the minute plant time is in, or T_c if later, and absent in
CATCH_UP (R105), or with samples set aside the minute at HOLD entry (R117; log entry 55). A catch-up without a due minute
ends: the gap list is emptied, and CATCH_UP becomes RECORDING, outputs permitted (R106). One command closes one minute of a
catch-up, the model's choice (log entry 20). Stage by stage (R104): the line state unit takes the minute (R42), then the half-hour, day and year closes run
whose boundary this is; the flash then has its idle event. WITH_SAMPLES takes
and restarts the accumulators of the slots in use, another close leaves them (R15); samples set aside at a forward step are
taken in their stead (R113; log entry 47). No boundary event comes before the end of the open minute, in a freeze, outside CATCH_UP and RECORDING, or in a catch-up of a READY archive without
the room it needs (R103, R106); the command then changes nothing, the model's choice (log entry 3). The row:
without samples every slot takes the close kind as its status (R24), the state is NO_RECORD (R41), disturbed while a run
goes on (R44); with samples each entry comes from its slot's accumulator, the pollutants' with the O2 and H2O entries of
the minute (R21), the state follows FEED and FURNACE (R40), disturbed DISTURB (R43), and two fields the pollutants' flags
(R37). The first closing after a cold start keeps the rebuilt state when its half-hour begins at the resume point, and
takes starting values otherwise (R99; FSTOP in half-hour and cold feed given stay: log entry 35), the own floor and the year
start sequence found anew in the same act, whatever flash operation is in flight (the model's choice, log entry 49). -/
def Obligations.MinuteBoundaryClosesTheOpenMinuteWhenDue : Prop :=
  (∀ (s : Machine.State) (p c : Nat),
    CatchingUpOrRecording s → s.tb.state = .running → s.tb.plant = some p → s.tb.closed = some c →
    (c + 60) * 1024 ≤ p →
    (s.tb.catchUp = false ∨ s.arch.state ≠ .ready
      ∨ s.arch.outbound.length + roomNeeded (c + 60) ≤ 16) →
    let ends := s.tb.catchUp = true ∧ p < (c + 120) * 1024
    ∃ t row, exec .minuteBoundary s = .next t ∧ t.tb.closed = some (c + 60) ∧ t.tb.plant = some p
      ∧ (ends → s.supply.station = some .catchUp → CaughtUp (c + 60) p t)
      ∧ (ends → s.supply.station = some .recording → t.supply = s.supply ∧ t.tb = { s.tb with
          closed := some (c + 60), sampled := t.tb.sampled, gaps := [], catchUp := false })
      ∧ (¬ ends → t.supply = s.supply ∧ t.tb = { s.tb with closed := some (c + 60), sampled := t.tb.sampled })
      ∧ (s.tb.sampled ≠ some c → ¬ ends ∨ s.supply.station = some .recording → t.tb.sampled = s.tb.sampled)
      ∧ (s.tb.sampled = some c → s.supply.station = some .recording →
          t.tb.sampled = some (max (c + 60) (p / 61440 * 60)))
      ∧ (s.tb.sampled = some c → s.supply.station = some .catchUp → ¬ ends →
          (s.minutes.setAside = none ∨ (∀ g ∈ s.tb.gaps, g.kind ≠ .hold) → t.tb.sampled = none)
          ∧ ∀ l g r, s.minutes.setAside ≠ none → s.tb.gaps = l ++ g :: r → g.kind = .hold → (∀ x ∈ l, x.kind ≠ .hold) →
            t.tb.sampled = some (g.fromTime - 60))
      ∧ t.minutes.last = some row
      ∧ (s.tb.sampled = some c ∨ (∀ g ∈ s.tb.gaps, c < g.fromTime) → row.closeKind = .withSamples)
      ∧ (∀ l g r, s.tb.sampled ≠ some c → s.tb.gaps = l ++ g :: r → g.fromTime ≤ c → (∀ x ∈ r, c < x.fromTime) →
          row.closeKind = g.kind)
      ∧ (s.year.compareDue = false → c % 1800 / 60 ≤ s.minutes.rows.length → row = minuteRow row.closeKind s)
      ∧ ((c + 60) % 1800 = 0 → t.minutes.rows = [])
      ∧ ((c + 60) % 1800 ≠ 0 → s.minutes.rows.length ≤ c % 1800 / 60 →
          t.minutes.rows.length = c % 1800 / 60 + 1 ∧ t.minutes.rows.getLast? = some row)
      ∧ ((c + 60) % 1800 ≠ 0 → s.year.compareDue = false → t.avg = s.avg ∧ t.year.rows = s.year.rows)
      ∧ (row.closeKind ≠ .withSamples ∨ s.minutes.setAside ≠ none → t.accs = s.accs)
      ∧ (row.closeKind = .withSamples → s.minutes.setAside = none → t.accs.length = s.accs.length
          ∧ ∀ i, i < s.accs.length →
            t.accs[i]? = if (s.cfg.slots.getD i {}).kind = .unused then s.accs[i]? else some {})
      ∧ t.minutes.setAside = (if row.closeKind = .withSamples then none else s.minutes.setAside)
      ∧ (∃ tb : Timebase,
          let u := (closeNumbered (c % 1800 / 60) row.closeKind (compareResume (c / 1800 * 1800) s)).setTb tb
          let h := if (c + 60) % 1800 = 0 then closeHalfHour (c + 60) u else u
          let d := if (c + 60) % 86400 = 0 then closeDay (c + 60) h else h
          let y := if yearStart (yearOf (c + 60)) = c + 60 then closeYear (c + 60) d else d
          t.line = y.line ∧ t.avg = y.avg ∧ t.year = y.year ∧ t.minutes = y.minutes ∧ t.accs = y.accs
          ∧ t.arch = (flashIdle y).arch ∧ t.retr.flags = y.retr.flags ∧ t.wit.ownFloor = y.wit.ownFloor ∧ t.wit.yearStart = y.wit.yearStart
          ∧ t.arch.outbound.map (fun e => (e.kind, e.start, e.body))
            = y.arch.outbound.map (fun e => (e.kind, e.start, e.body)))
      ∧ t.arch.flash = s.arch.flash ∧ t.arch.latest = s.arch.latest ∧ t.wit.secured = s.wit.secured)
  ∧ (∀ (s : Machine.State) (p c : Nat), s.tb.plant = some p → s.tb.closed = some c →
    (p < (c + 60) * 1024 ∨ s.tb.state ≠ .running ∨ ¬ CatchingUpOrRecording s
      ∨ (s.tb.catchUp = true ∧ s.arch.state = .ready ∧ 16 < s.arch.outbound.length + roomNeeded (c + 60))) →
      exec .minuteBoundary s = .next s)
  ∧ (∀ (k : CloseKind) (s : Machine.State),
    let row := minuteRow k s
    row.closeKind = k
    ∧ (k ≠ .withSamples → row.entries = (slotsInUse s.cfg).map (fun q => (q.1, { status := k.status }))
        ∧ row.opState = .noRecord ∧ row.disturbed = decide (0 < s.line.run)
        ∧ row.h2oSubst = false ∧ row.o2Clamped = false)
    ∧ (k = .withSamples →
        let acc (i : Nat) : Acc := (s.minutes.setAside.getD s.accs).getD i {}
        row.entries.map (·.1) = (slotsInUse s.cfg).map (·.1)
        ∧ (∀ q ∈ slotsInUse s.cfg, q.2.kind ≠ .pollutant → (q.1, referenceEntry q.2 (acc q.1)) ∈ row.entries)
        ∧ (∀ q ∈ slotsInUse s.cfg, ∀ o, q.2.kind = .pollutant → slotOfKind s.cfg .o2 = some o →
            (q.1, pollutantEntry s.cfg q.2 (acc q.1) o.2 (referenceEntry o.2 (acc o.1))
              ((slotOfKind s.cfg .h2o).map (fun h => referenceEntry h.2 (acc h.1)))) ∈ row.entries)
        ∧ (∀ f u, slotOfKind s.cfg .feed = some f → slotOfKind s.cfg .furnace = some u →
            let feed := referenceEntry f.2 (acc f.1)
            let furnace := referenceEntry u.2 (acc u.1)
            let hot := ∃ v, furnace.value = some (.analogue v) ∧ (s.cfg.furnace : Int) ≤ v
            (feed.status ≠ .valid → row.opState = .unknown)
            ∧ (feed.value = some (.binary false) → hot → row.opState = .standby)
            ∧ (feed.value = some (.binary false) → ¬ hot → row.opState = .off)
            ∧ (feed.value = some (.binary true) → hot → row.opState = .firing)
            ∧ (feed.value = some (.binary true) → furnace.status = .valid → ¬ hot → row.opState = .coldFiring)
            ∧ (feed.value = some (.binary true) → furnace.status ≠ .valid → row.opState = .unknown))
        ∧ (row.disturbed = true ↔ (row.opState = .firing ∨ row.opState = .coldFiring ∨ row.opState = .unknown)
            ∧ ∃ b, slotOfKind s.cfg .disturb = some b
              ∧ (referenceEntry b.2 (acc b.1)).value ≠ some (.binary false)))
    ∧ (row.h2oSubst = true ↔ ∃ q ∈ pollutants s.cfg, ∃ e, (q.1, e) ∈ row.entries ∧ e.flags.h2oSubst = true)
    ∧ (row.o2Clamped = true ↔ ∃ q ∈ pollutants s.cfg, ∃ e, (q.1, e) ∈ row.entries ∧ e.flags.o2Clamp = true))
  ∧ (∀ (n : Nat) (k : CloseKind) (s : Machine.State),
    let row := minuteRow k s
    let m := closeMinute k s
    let l := lineMinute row.opState row.disturbed s
    m.line = l.line ∧ m.year = l.year ∧ m.retr = l.retr
    ∧ m.minutes.rows = s.minutes.rows ++ [row] ∧ m.minutes.last = some row
    ∧ (n ≤ s.minutes.rows.length → closeNumbered n k s = m)
    ∧ (s.minutes.rows.length < n → closeNumbered n k s = closeNumbered n k (closeMinute .powerLoss s)))
  ∧ (∀ (half : Nat) (s : Machine.State),
    let u := compareResume half s
    (s.year.compareDue = false → u = s)
    ∧ (s.year.compareDue = true → s.year.resume = some half →
        u = s.setYear { s.year with compareDue := false })
    ∧ (s.year.compareDue = true → s.year.resume ≠ some half →
        u.line = { s.line with run := 0, yearTotal := 0, longest := 0, fstop := false, warned := false }
        ∧ u.year = { s.year with
            compareDue := false, rows := s.year.rows.map (fun r => { slot := r.slot }), minutes := {}, fstops := 0
            coldFiring := 0, totals := {}, openYear := some (yearOf half) }
        ∧ u.avg = { s.avg with rows := s.avg.rows.map (fun r => { r with day := {}, rate := none }) }
        ∧ u.arch.outbound = s.arch.outbound ∧ u.minutes = s.minutes ∧ u.accs = s.accs ∧ u.tb = s.tb
        ∧ OwnFloorFound (ownRecords s) (yearOf half) u
        ∧ ∃ v, RetentionTested v u ∧ v.arch = s.arch ∧ v.retr = s.retr ∧ v.year = u.year ∧ v.cfg = s.cfg))

/-! ## The bus port -/

/-- A telegram without its end mark, over 240 bytes, of a length its class does not permit, or whose check does not
match is discarded and counted as one receive error (R127). That one whose key bears the part's own number, which R128
claims too, is a receive error and no station clash is the model's choice (log entry 40), and so is that one that comes
while the part itself sends is counted (log entry 50). -/
def Obligations.ReceiveErrorIsCounted : Prop :=
  ∀ (frame : List Byte) (endMark : Bool) (s : Machine.State), s.port.state ≠ .off →
    (endMark = false ∨ 240 < field frame 1 1 ∨ frame.length ≠ field frame 1 1 + 4
      ∨ permittedLength (field frame 0 1 / 32) (slice frame 2 (field frame 1 1)) = false
      ∨ field frame (2 + field frame 1 1) 2 ≠ (crc16 (frame.take (2 + field frame 1 1))).toNat) →
      exec (.receiveError frame endMark) s = .next (s.setYear { s.year with
        day := { s.year.day with rxErrors := min 4294967295 (s.year.day.rxErrors + 1) } })

/-- R128: in every port state that receives, a telegram with the part's own number is discarded, counted as one station
clash, and raises BUS, of whatever class it is, one that its block would take included. A telegram of the part's own
number with a length that its class does not permit is one receive error and no clash: R127 and R128 both claim it, and
that R127 goes first is the model's choice (log entry 40). So is that a clash that comes while the part itself sends is
counted (log entry 50). -/
def Obligations.StationClashIsCountedAndRaisesBus : Prop :=
  ∀ s : Machine.State, s.port.state ≠ .off →
    let t := (s.setYear { s.year with
        day := { s.year.day with clashes := min 4294967295 (s.year.day.clashes + 1) } }).setRetr
        { s.retr with flags := s.retr.flags ||| 0x100#9 }
    let bad := s.setYear { s.year with
        day := { s.year.day with rxErrors := min 4294967295 (s.year.day.rxErrors + 1) } }
    (∀ cls : BitVec 3, exec (.stationClash cls) s = .next t)
    ∧ (∀ sender : BitVec 5, sender.toNat = s.cfg.own →
        (∀ channel tag status value, exec (.receiveReading sender channel tag status value) s = .next t)
        ∧ (∀ seconds ticks reference, exec (.receiveTime sender seconds ticks reference) s = .next t)
        ∧ (∀ (head : RecordHead) (body : List Byte),
            ((∃ k, recordKindOf head.kind.toNat = some k ∧ bodyLengthOk k body = true) →
              exec (.receiveRecord sender head body) s = .next t)
            ∧ ((∀ k, recordKindOf head.kind.toNat = some k → bodyLengthOk k body = false) →
              exec (.receiveRecord sender head body) s = .next bad))
        ∧ (∀ entries : List MarkEntry, (entries.length ≤ 3 → exec (.receiveMark sender entries) s = .next t)
            ∧ (3 < entries.length → exec (.receiveMark sender entries) s = .next bad))
        ∧ (∀ target first count, exec (.receiveGap sender target first count) s = .next t)
        ∧ (∀ payload, exec (.receivePresence sender payload) s = .next t))
    ∧ (∀ head : QueryHead, head.terminal.toNat = s.cfg.own →
        (∀ origin first count, exec (.read head origin first count) s = .next t)
        ∧ (∀ origin year, exec (.readYear head origin year) s = .next t)
        ∧ exec (.condition head) s = .next t
        ∧ (∀ causes, exec (.clearAttention head causes) s = .next t)
        ∧ (∀ (offset : BitVec 16) (data : List Byte),
            (1 ≤ data.length → data.length ≤ 200 → exec (.configBlock head offset data) s = .next t)
            ∧ (data.length = 0 ∨ 200 < data.length → exec (.configBlock head offset data) s = .next bad))
        ∧ (∀ length check, exec (.configCommit head length check) s = .next t))

/-- At a bus-idle event in ACTIVE the head of the lowest-numbered non-empty queue goes on the line, with the part's own
number in its key, and every queue stays as it is; with every queue empty nothing is offered (R120, R123). The head is the
first entry of the RECORD, GAP and ANSWER queues and the entry of the others, and a TIME telegram carries the part's present
plant time (R107, R122). The frame and
the payload of each class hold their fields as 7.7.2 and 7.7.3 lay them out (R119, R130). That the bytes of a TIME telegram
are fixed at this event, with the plant time it then is, is the model's reading of the moment at which its key has won (log
entry 13). -/
def Obligations.BusIdleOffersTheLowestQueue : Prop :=
  TelegramLayouts
  ∧ ([TxQueue.time, .record, .mark, .gap, .answer, .presence].map (·.classCode) = [0, 2, 3, 4, 6, 7])
  ∧ ∀ s : Machine.State, s.port.state = .active → s.port.onLine = none →
    let payload (q : TxQueue) : Option (List Byte) :=
      match q with
      | .time => s.port.timeQ.entry.map (fun reference => timePayload (s.tb.plant.getD 0) reference)
      | .record => s.port.recordQ.head?.map recordPayload
      | .mark => s.port.markQ.entry.map markPayload
      | .gap => s.port.gapQ.head?.map gapPayload
      | .answer => s.port.answerQ.head?.map answerPayload
      | .presence => s.port.presenceQ.entry.map presencePayload
    ∃ x, exec .busIdle s = .next (s.setPort { s.port with onLine := x })
      ∧ (x = none ↔ ∀ q, payload q = none)
      ∧ (∀ l, x = some l → (∃ pay, payload l.queue = some pay
            ∧ l.bytes = frameBytes l.queue.classCode s.cfg.own pay)
          ∧ ∀ q : TxQueue, q.classCode < l.queue.classCode → payload q = none)

/-- A telegram that loses arbitration leaves the line and stays at the head of its queue; the error run and the station
counters are unchanged, and a newer telegram held aside takes its entry (R120, R122, R124). -/
def Obligations.ArbitrationLossKeepsTheTelegram : Prop :=
  ∀ (s : Machine.State) (l : OnLine), s.port.onLine = some l →
    ∃ p, exec .arbitrationLost s = .next (s.setPort p) ∧ p.onLine = none ∧ p.recordQ = s.port.recordQ
      ∧ p.gapQ = s.port.gapQ ∧ p.answerQ = s.port.answerQ ∧ p.errorRun = s.port.errorRun ∧ p.state = s.port.state
      ∧ p.timeQ.entry = (match s.port.timeQ.aside with | some x => some x | none => s.port.timeQ.entry)
      ∧ p.markQ.entry = (match s.port.markQ.aside with | some x => some x | none => s.port.markQ.entry)
      ∧ p.presenceQ.entry = (match s.port.presenceQ.aside with | some x => some x | none => s.port.presenceQ.entry)

/-- A telegram sent whole leaves its queue and sets the error run to 0; a telegram held aside takes its entry. A GAP's
10 s begin at this moment: the GAP of its origin counts as transmitted now (R141). The entry of
an own record that is sent so, the one of its sequence number, leaves the outbound record queue and the others stay in
order; a backfill leaves that queue alone (R122, R124, R160). -/
def Obligations.TransmittedTelegramLeavesItsQueue : Prop :=
  ∀ (s : Machine.State) (l : OnLine), s.port.onLine = some l →
    ∃ t, exec .transmitComplete s = .next t ∧ t = ((s.setPort t.port).setWit t.wit).setArch t.arch
      ∧ t.port.onLine = none ∧ t.port.errorRun = 0 ∧ t.port.state = s.port.state
      ∧ (l.queue = .time → t = s.setPort { s.port with
          onLine := none, errorRun := 0, timeQ := { entry := s.port.timeQ.aside, aside := none } })
      ∧ (l.queue = .mark → t = s.setPort { s.port with
          onLine := none, errorRun := 0, markQ := { entry := s.port.markQ.aside, aside := none } })
      ∧ (l.queue = .presence → t = s.setPort { s.port with
          onLine := none, errorRun := 0, presenceQ := { entry := s.port.presenceQ.aside, aside := none } })
      ∧ (l.queue = .answer → t = s.setPort { s.port with
          onLine := none, errorRun := 0, answerQ := s.port.answerQ.drop 1 })
      ∧ (∀ g rest, l.queue = .gap → s.port.gapQ = g :: rest →
          t = (s.setPort { s.port with onLine := none, errorRun := 0, gapQ := rest }).setWit
              { s.wit with origins := t.wit.origins }
          ∧ t.wit.origins.length = s.wit.origins.length
          ∧ (∀ o x, originOf s g.target = some o → o.gap = some x → x.first = g.first → x.phase = .queued →
              originOf t g.target = some { o with gap := some { x with phase := .sent s.elapsed } })
          ∧ (∀ o, originOf s g.target = some o → (∀ x, o.gap = some x → x.first ≠ g.first ∨ x.phase ≠ .queued) →
              originOf t g.target = some o)
          ∧ (∀ st, st ≠ g.target → originOf t st = originOf s st))
      ∧ (∀ r rest, l.queue = .record → s.port.recordQ = ⟨r, true⟩ :: rest →
          t = s.setPort { s.port with onLine := none, errorRun := 0, recordQ := rest })
      ∧ (∀ r rest, l.queue = .record → s.port.recordQ = ⟨r, false⟩ :: rest →
          let released (e : OutEntry) : Prop := e.state = .waitingPublish ∧ e.placed = true ∧ e.seq = some r.seq
          t.wit = s.wit ∧ t.port = { s.port with onLine := none, errorRun := 0, recordQ := rest }
          ∧ t.arch = { s.arch with outbound := t.arch.outbound }
          ∧ (∀ older e younger, s.arch.outbound = older ++ e :: younger → released e → (∀ x ∈ older, ¬ released x) →
              t.arch.outbound = older ++ younger)
          ∧ ((∀ e ∈ s.arch.outbound, ¬ released e) → t.arch.outbound = s.arch.outbound))

/-- A transmit error breaks the telegram off at the head of its queue and raises the error run; the 32nd in a row puts
the port into SILENT, counts one give-up and raises BUS (R125). SILENT lasts 1 s of elapsed time; then the port is
ACTIVE with the error run at 0, its queues as they are (R126). That SILENT_END before that second is over changes nothing is the model's choice (log
entry 3). -/
def Obligations.TransmitErrorsLeadToOneSecondOfSilent : Prop :=
  (∀ (s : Machine.State) (l : OnLine), s.port.onLine = some l →
    ∃ t, exec .transmitError s = .next t ∧ t = ((s.setPort t.port).setYear t.year).setRetr t.retr ∧ t.port.onLine = none ∧ t.port.errorRun = s.port.errorRun + 1
      ∧ t.port.recordQ = s.port.recordQ ∧ t.port.gapQ = s.port.gapQ ∧ t.port.answerQ = s.port.answerQ
      ∧ (s.port.errorRun + 1 < 32 → t.port.state = s.port.state ∧ t = s.setPort t.port)
      ∧ (32 ≤ s.port.errorRun + 1 → t.port.state = .silent ∧ t.port.silentSince = s.elapsed
          ∧ flagSet t .bus = true ∧ t.year.day.giveUps = min 4294967295 (s.year.day.giveUps + 1)))
  ∧ (∀ s : Machine.State, s.port.state = .silent →
    (1024 ≤ s.elapsed - s.port.silentSince →
      exec .silentEnd s = .next (s.setPort { s.port with state := .active, errorRun := 0 }))
    ∧ (s.elapsed - s.port.silentSince < 1024 → exec .silentEnd s = .next s))

/-! ## Witness copies -/

/-- The next record expected of a witnessed origin, with a slot free and the archive not in FAULT: the expected number
rises by 1, the record joins the tail of the staged list in a slot of the shared pool, or of the origin's reservation
when no shared slot is free, and nothing is counted (R136, R137). A GAP outstanding ends when the new expected number
passes its first + count - 1, and stays until then; without one, or after that, the conditions are tested with the slots
that are left (R141), in partition order, which is the model's choice (log entry 48). A GAP of another origin stays. The
flash then has its idle event (R138, R153). -/
def Obligations.ExpectedRecordIsStaged : Prop :=
  ∀ (sender : BitVec 5) (head : RecordHead) (body : List Byte) (s : Machine.State) (o : Origin) (k : RecordKind),
    StagingAccounted s → Hears s sender → s.supply.station = some .recording → originOf s sender.toNat = some o →
    head.origin.toNat = sender.toNat → recordKindOf head.kind.toNat = some k → bodyLengthOk k body = true →
    head.seq.toNat = o.expected → s.arch.state ≠ .fault →
    (0 < freeShared s ∨ 0 < freeReserved s o) →
    ∃ t o', exec (.receiveRecord sender head body) s = .next t ∧ originOf t sender.toNat = some o'
      ∧ o'.staged = o.staged ++ [⟨⟨k, sender.toNat, head.seq.toNat, head.start.toNat, body⟩,
          if 0 < freeShared s then .shared else .reserved⟩]
      ∧ o'.expected = o.expected + 1 ∧ o'.held = o.held ∧ o'.oldest = o.oldest
      ∧ o'.known = max o.known head.seq.toNat ∧ o'.floor = o.floor ∧ t.arch.flash = s.arch.flash
      ∧ (∀ g, o.gap = some g → o.expected + 1 < g.first + g.count → o'.gap = some g)
      ∧ (o.gap = none ∨ (∃ g, o.gap = some g ∧ g.first + g.count ≤ o.expected + 1) →
          GapTested s t o (o.expected + 1) (max o.known head.seq.toNat) (freeShared s + freeReserved s o - 1) o'.gap)
      ∧ (∀ x ∈ s.wit.origins, x.place ≠ o.place → x.gap ≠ none → x ∈ t.wit.origins)
      ∧ (∃ new, t.port.gapQ = s.port.gapQ ++ new)
      ∧ (∃ u, t = flashIdle u ∧ u.arch = s.arch ∧ u.wit.origins = t.wit.origins)
      ∧ t.port = { s.port with gapQ := t.port.gapQ, ticket := t.port.ticket }
      ∧ t = (((s.setWit t.wit).setPort t.port).setArch t.arch).setRetr t.retr
      ∧ (∀ st, st ≠ sender.toNat → (originOf t st).map (fun x => (x.held, x.oldest, x.staged, x.known, x.floor))
          = (originOf s st).map (fun x => (x.held, x.oldest, x.staged, x.known, x.floor)))

/-- A record of a witnessed origin that is not the next one expected, or that finds the archive in FAULT or no slot, is
not staged; the first raises only the known latest, the second is one witness refusal besides (R137). Nothing else of the
witness unit changes but the GAPs, and no other counter. A GAP outstanding stays, since the expected number does not move;
an origin without one has its conditions tested with the known latest as it now is (R141), in partition order, which is
the model's choice (log entry 48). A record outside RECORDING, one that its origin has not sent itself, and one of an origin
that is not witnessed change nothing at all (R137). -/
def Obligations.UnexpectedOrRefusedRecordIsNotStaged : Prop :=
  (∀ (sender : BitVec 5) (head : RecordHead) (body : List Byte) (s : Machine.State) (k : RecordKind),
    Hears s sender → recordKindOf head.kind.toNat = some k → bodyLengthOk k body = true →
    (s.supply.station ≠ some .recording ∨ head.origin.toNat ≠ sender.toNat ∨ originOf s head.origin.toNat = none) →
    exec (.receiveRecord sender head body) s = .next s)
  ∧ ∀ (sender : BitVec 5) (head : RecordHead) (body : List Byte) (s : Machine.State) (o : Origin) (k : RecordKind),
    StagingAccounted s → Hears s sender → s.supply.station = some .recording → originOf s sender.toNat = some o →
    head.origin.toNat = sender.toNat → recordKindOf head.kind.toNat = some k → bodyLengthOk k body = true →
    (head.seq.toNat ≠ o.expected ∨ s.arch.state = .fault ∨ (freeShared s = 0 ∧ freeReserved s o = 0)) →
    ∃ t o', exec (.receiveRecord sender head body) s = .next t ∧ originOf t sender.toNat = some o'
      ∧ (o.gap ≠ none → o'.gap = o.gap)
      ∧ (o.gap = none → GapTested s t o o.expected (max o.known head.seq.toNat) (freeShared s + freeReserved s o) o'.gap)
      ∧ (∃ new, t.port.gapQ = s.port.gapQ ++ new)
      ∧ t.wit = { s.wit with origins := t.wit.origins }
      ∧ t.wit.origins.map (fun x => { x with gap := none })
        = s.wit.origins.map (fun x => { x with
            gap := none, known := if x.place = o.place then max o.known head.seq.toNat else x.known })
      ∧ (∀ x ∈ s.wit.origins, x.place ≠ o.place → x.gap ≠ none → x ∈ t.wit.origins)
      ∧ t.port = { s.port with gapQ := t.port.gapQ, ticket := t.port.ticket }
      ∧ (head.seq.toNat ≠ o.expected → t.year = s.year)
      ∧ (head.seq.toNat = o.expected → t.year = { s.year with day := { s.year.day with
          refusals := min 4294967295 (s.year.day.refusals + 1) } })
      ∧ t = ((s.setWit t.wit).setPort t.port).setYear t.year

/-- A report of a RECORDER on the part's own records is put into the witness mark table at the present elapsed time,
and the secured mark becomes the greater of its value and the k-th highest mark, bounded by the latest archived own
sequence; with fewer than k entries, or a quorum of 0, it is unchanged (R147, R148). The lag is then tested: with a
quorum, 96 or more records between the secured mark and the latest archived one raise WITNESS_LAG, once 10 minutes have
passed since SCAN (R149). The entries of other stations stay while they are younger than 10 minutes and go otherwise; an
eighth station is passed over (R147). A MARK in another state, from another kind of station, or without an entry that names
the part changes nothing (R147). Of several entries of the MARK that name the part, the first is taken, which is the
model's choice (log entry 31). -/
def Obligations.MarkUpdatesTableAndSecuredMark : Prop :=
  (∀ (sender : BitVec 5) (entries : List MarkEntry) (s : Machine.State), Hears s sender → entries.length ≤ 3 →
    (¬ CatchingUpOrRecording s ∨ stationKind s.cfg sender.toNat ≠ .recorder
      ∨ ∀ x ∈ entries, x.origin.toNat ≠ s.cfg.own) →
    exec (.receiveMark sender entries) s = .next s)
  ∧ ∀ (sender : BitVec 5) (entries : List MarkEntry) (e : MarkEntry) (s : Machine.State),
    Hears s sender → CatchingUpOrRecording s → stationKind s.cfg sender.toNat = .recorder → entries.length ≤ 3 →
    entries.find? (fun x => x.origin.toNat == s.cfg.own) = some e →
    let young := s.wit.marks.filter (fun m => decide (s.elapsed - m.at_ < 614400))
    (7 ≤ young.length → (∀ m ∈ young, m.station ≠ sender.toNat) →
      exec (.receiveMark sender entries) s = .next (s.setWit { s.wit with marks := young }))
    ∧ (young.length < 7 ∨ (∃ m ∈ young, m.station = sender.toNat) →
    ∃ t, exec (.receiveMark sender entries) s = .next t ∧ t = (s.setWit t.wit).setRetr t.retr
      ∧ t.wit = { s.wit with marks := t.wit.marks, secured := t.wit.secured }
      ∧ t.wit.marks.filter (fun m => m.station != sender.toNat) = young.filter (fun m => m.station != sender.toNat)
      ∧ (⟨sender.toNat, e.held.toNat, s.elapsed⟩ : WitnessMark) ∈ t.wit.marks
      ∧ (∀ m ∈ t.wit.marks, m.station = sender.toNat → m = ⟨sender.toNat, e.held.toNat, s.elapsed⟩)
      ∧ (s.cfg.quorum = 0 ∨ t.wit.marks.length < s.cfg.quorum → t.wit.secured = s.wit.secured)
      ∧ (1 ≤ s.cfg.quorum → s.cfg.quorum ≤ t.wit.marks.length →
          ∃ m, IsKthHighest s.cfg.quorum m (t.wit.marks.map (·.mark))
            ∧ t.wit.secured = max s.wit.secured (min m s.arch.latest))
      ∧ (let lag := (∀ n, s.wit.lagHoldoff = some n → 614400 ≤ s.elapsed - n) ∧ 0 < s.cfg.quorum
          ∧ t.wit.secured + 96 ≤ s.arch.latest
        (lag → t.retr = { s.retr with flags := s.retr.flags ||| 0x20#9 }) ∧ (¬ lag → t.retr = s.retr)))

/-- The secured mark does not decrease between cold starts (R148). -/
def Obligations.SecuredMarkNeverDecreasesBetweenColdStarts : Prop :=
  ∀ (c : Instr) (s t : Machine.State), (∀ svc, c ≠ .coldStart svc) → exec c s = .next t →
    s.wit.secured ≤ t.wit.secured

/-- A GAP to the part in RECORDING: its range, clipped to the latest archived own sequence, is absorbed by a job that
covers it, queued as a new job behind others while there are fewer than 4, or dropped; first sequence 0, a count of 0
or over 16, and a first sequence past the latest are ignored, and so is a GAP to another target or outside RECORDING (R142). The first job of an empty queue asks for its read;
with no flash operation in flight and no other read waiting it is served at once: the job waits with the telegram of its
first readable sequence, passing over those not held, or ends without one, and one operation starts (R143, R153, R155). -/
def Obligations.GapIsAbsorbedQueuedOrDropped : Prop :=
  (∀ (sender : BitVec 5) (target : BitVec 8) (first : BitVec 32) (count : BitVec 8) (s : Machine.State),
    Hears s sender → (s.supply.station ≠ some .recording ∨ target.toNat ≠ s.cfg.own) →
    exec (.receiveGap sender target first count) s = .next s)
  ∧ ∀ (sender : BitVec 5) (target : BitVec 8) (first : BitVec 32) (count : BitVec 8) (s : Machine.State),
    Hears s sender → s.supply.station = some .recording → target.toNat = s.cfg.own →
    let last := min (first.toNat + count.toNat - 1) s.arch.latest
    let covered := ∃ j ∈ s.wit.jobs, j.next ≤ first.toNat ∧ last ≤ j.last
    let started (t : Machine.State) : Prop := ∃ v, OperationStarted v t ∧ v.arch = s.arch ∧ v.cfg = s.cfg ∧ v.year = s.year
      ∧ v.wit.origins = s.wit.origins
    let valid := 1 ≤ first.toNat ∧ 1 ≤ count.toNat ∧ count.toNat ≤ 16 ∧ first.toNat ≤ last
    (¬ valid ∨ covered ∨ 4 ≤ s.wit.jobs.length → exec (.receiveGap sender target first count) s = .next s)
    ∧ (valid → ¬ covered → s.wit.jobs.length < 4 → s.wit.jobs ≠ [] →
        exec (.receiveGap sender target first count) s
          = .next (s.setWit { s.wit with jobs := s.wit.jobs ++ [⟨first.toNat, last⟩] }))
    ∧ (valid → s.wit.jobs = [] → s.arch.op ≠ .idle →
        exec (.receiveGap sender target first count) s
          = .next ((s.setWit { s.wit with jobs := [⟨first.toNat, last⟩], work := .reading }).setArch
              { s.arch with requests := s.arch.requests ++ [⟨.backfill, .own, first.toNat⟩] }))
    ∧ (valid → s.wit.jobs = [] → s.arch.op = .idle → s.arch.requests = [] →
        (∀ q r, first.toNat ≤ q → q ≤ last → readRecord s .own q = some r →
          (∀ x, first.toNat ≤ x → x < q → readRecord s .own x = none) →
          ∃ t, exec (.receiveGap sender target first count) s = .next t ∧ t.arch.requests = []
            ∧ t.wit = { s.wit with
                jobs := [⟨q, last⟩], work := .ready { r with origin := s.cfg.own } s.port.ticket }
            ∧ t.arch.flash = s.arch.flash ∧ t.arch.latest = s.arch.latest ∧ started t
            ∧ t = ((s.setWit t.wit).setPort { s.port with ticket := s.port.ticket + 1 }).setArch t.arch)
        ∧ ((∀ x, first.toNat ≤ x → x ≤ last → readRecord s .own x = none) →
          ∃ t, exec (.receiveGap sender target first count) s = .next t ∧ t.arch.requests = []
            ∧ t.wit = { s.wit with jobs := [], work := .idle }
            ∧ t.arch.flash = s.arch.flash ∧ t.arch.latest = s.arch.latest ∧ started t
            ∧ t = (s.setWit t.wit).setArch t.arch))

/-- A PRESENCE of a witnessed origin, in CATCH_UP or RECORDING, sets its known latest and its floor, up or down; the
copy held of it stays when its floor is not above the expected number. A floor above it, with no program of the
origin's records in flight, makes the floor jump: the skipped numbers are counted, the staged records dropped, the held
mark set to the floor less 1, oldest held to absent, and the waiting FOLLOW jobs of the origin work on (R139, R170; their
order: log entry 48). With such a program in flight the jump waits. A GAP outstanding stays but for the jump, which ends
it; in RECORDING the conditions are then tested for an origin without one (R141), in partition order, which is the model's
choice too (log entry 48). From every station, of an origin or not, the PRESENCE
begins the silence of its job anew (R170). -/
def Obligations.PresenceMovesTheFloorAndMayJump : Prop :=
  let heard (sender : BitVec 5) (s : Machine.State) : List Job :=
    s.retr.jobs.map (fun j => if j.terminal = sender.toNat then { j with heardAt := s.elapsed } else j)
  let tested (w t : Machine.State) (o o' : Origin) : Prop :=
    (o.gap ≠ none ∨ w.supply.station ≠ some .recording → o'.gap = o.gap)
    ∧ (o.gap = none → w.supply.station = some .recording →
        GapTested w t o o.expected o.known (freeShared w + freeReserved w o) o'.gap)
    ∧ (∀ x ∈ w.wit.origins, x.place ≠ o.place → x.gap ≠ none → x ∈ t.wit.origins)
    ∧ (∃ new, t.port.gapQ = w.port.gapQ ++ new)
  let renewed (p : PresencePayload) (o : Origin) : Origin := { o with known := p.latest.toNat, floor := p.floor.toNat }
  let withOrigin (o : Origin) (s : Machine.State) : Machine.State :=
    s.setWit { s.wit with origins := s.wit.origins.map (fun x => if x.place = o.place then o else x) }
  (∀ (sender : BitVec 5) (p : PresencePayload) (s : Machine.State) (o : Origin),
    Hears s sender → CatchingUpOrRecording s → originOf s sender.toNat = some o → p.floor.toNat ≤ o.expected →
    ∃ t o', exec (.receivePresence sender p) s = .next t ∧ originOf t sender.toNat = some o'
      ∧ o'.known = p.latest.toNat ∧ o'.floor = p.floor.toNat ∧ o'.staged = o.staged ∧ o'.held = o.held
      ∧ o'.oldest = o.oldest ∧ t.arch.flash = s.arch.flash
      ∧ (StagingAccounted s → tested (withOrigin (renewed p o) s) t (renewed p o) o')
      ∧ (∃ u, t = flashIdle u ∧ u.arch = s.arch ∧ u.retr = { s.retr with jobs := heard sender s }
          ∧ u.wit.origins = t.wit.origins)
      ∧ t = (((s.setWit t.wit).setPort t.port).setArch t.arch).setRetr t.retr)
  ∧ (∀ (sender : BitVec 5) (p : PresencePayload) (s : Machine.State) (o : Origin),
    Hears s sender → CatchingUpOrRecording s → originOf s sender.toNat = some o → o.expected < p.floor.toNat →
    s.arch.op ≠ .programming (.part o.place) →
    ∃ t o', exec (.receivePresence sender p) s = .next t ∧ originOf t sender.toNat = some o'
      ∧ o'.held = p.floor.toNat - 1 ∧ o'.oldest = none ∧ o'.staged = [] ∧ o'.expected = p.floor.toNat
      ∧ o'.known = p.latest.toNat
      ∧ t.year = { s.year with day := { s.year.day with
          skips := min 4294967295 (s.year.day.skips + (p.floor.toNat - 1 - o.held)) } }
      ∧ t.arch.flash = s.arch.flash
      ∧ (let jumped : Origin :=
          { renewed p o with held := p.floor.toNat - 1, oldest := none, staged := [], gap := none }
        let w := ((withOrigin jumped s).setRetr { s.retr with jobs := heard sender s }).setYear t.year
        (StagingAccounted s → tested w t jumped o')
        ∧ ∃ v u, t = flashIdle u ∧ FollowsWoken sender.toNat w v ∧ u.retr = v.retr ∧ u.arch = v.arch)
      ∧ t = ((((s.setWit t.wit).setPort t.port).setArch t.arch).setRetr t.retr).setYear t.year)
  ∧ (∀ (sender : BitVec 5) (p : PresencePayload) (s : Machine.State) (o : Origin),
    Hears s sender → CatchingUpOrRecording s → originOf s sender.toNat = some o → o.expected < p.floor.toNat →
    s.arch.op = .programming (.part o.place) →
    ∃ t o', exec (.receivePresence sender p) s = .next t ∧ originOf t sender.toNat = some o'
      ∧ o'.known = p.latest.toNat ∧ o'.floor = p.floor.toNat ∧ o'.staged = o.staged ∧ o'.held = o.held
      ∧ o'.oldest = o.oldest ∧ (StagingAccounted s → tested (withOrigin (renewed p o) s) t (renewed p o) o')
      ∧ t = ((s.setWit t.wit).setPort t.port).setRetr { s.retr with jobs := heard sender s })
  ∧ (∀ (sender : BitVec 5) (p : PresencePayload) (s : Machine.State), Hears s sender →
    originOf s sender.toNat = none ∨ ¬ CatchingUpOrRecording s →
    exec (.receivePresence sender p) s = .next (s.setRetr { s.retr with jobs := heard sender s }))

/-- PRESENCE_SEND places a PRESENCE with the fields as they stand, and with it, when the witness set is not empty, a MARK
of one entry for each entry of the set: its station, its held mark, and its oldest held sequence, 0 when that is absent
(R145, R146). Each becomes the entry of its queue, or is held aside while an entry of that queue is on the line (R122).
Where no witness state exists, in COMMISSION, the MARK names the set with nothing held, which is the model's reading (log
entry 17). -/
def Obligations.PresenceSendPlacesPresenceAndMark : Prop :=
  ∀ (s : Machine.State) (st : Station), s.supply.station = some st → s.tb.dues.presence = true → s.port.state ≠ .off →
    let tel : PresenceTel := ⟨s.cfg.line, st, s.arch.latest, s.wit.ownFloor, s.wit.secured, s.tb.state, s.retr.flags⟩
    let mark : List MarkOut := (witnessed s.cfg).map (fun w =>
      match originOf s w.2 with
      | some o => ⟨w.2, o.held, o.oldest.getD 0⟩
      | none => ⟨w.2, 0, 0⟩)
    ∃ p, exec .presenceSend s
        = .next ((s.setTb { s.tb with dues := { s.tb.dues with presence := false } }).setPort p)
      ∧ p = { s.port with presenceQ := p.presenceQ, markQ := p.markQ }
      ∧ (isOnLine s.port .presence = false ∨ s.port.presenceQ.entry = none →
          p.presenceQ = { entry := some tel, aside := none })
      ∧ (isOnLine s.port .presence = true → s.port.presenceQ.entry ≠ none →
          p.presenceQ = { s.port.presenceQ with aside := some tel })
      ∧ (witnessed s.cfg = [] → p.markQ = s.port.markQ)
      ∧ (witnessed s.cfg ≠ [] → isOnLine s.port .mark = false ∨ s.port.markQ.entry = none →
          p.markQ = { entry := some mark, aside := none })
      ∧ (witnessed s.cfg ≠ [] → isOnLine s.port .mark = true → s.port.markQ.entry ≠ none →
          p.markQ = { s.port.markQ with aside := some mark })

/-- The release of an archived own record and the backfill of one join the RECORD queue, with the flag clear and set;
in each case room is needed, and the producer that has waited longer goes first. Releases are made in TIME_UNSET too
(R160). The backfill job goes on to its next sequence, or leaves the queue after its last one, and asks for the next read
(R143). A GAP that has waited longest for room
joins the GAP queue when that has room, and is then queued (R122, R141, R143, R160). The tickets that say who has waited
longer are the model's own (log entry 14). -/
def Obligations.WaitingProducersJoinTheirQueues : Prop :=
  (∀ s : Machine.State, s.port.recordQ.length < 4 →
    (∀ older e younger n, s.supply.station = some .timeUnset ∨ CatchingUpOrRecording s →
      s.arch.outbound = older ++ e :: younger → e.state = .waitingPublish → e.placed = false →
      (∀ x ∈ older, ¬ (x.state = .waitingPublish ∧ x.placed = false)) →
      s.arch.releaseTicket = some n → (∀ r m, s.wit.work = .ready r m → n ≤ m) →
      ∃ t, exec .recordRelease s = .next t
        ∧ t.port.recordQ = s.port.recordQ ++ [⟨⟨e.kind, s.cfg.own, e.seq.getD 0, e.start, e.body⟩, false⟩]
        ∧ t.arch = { s.arch with
            outbound := older ++ { e with placed := true } :: younger
            releaseTicket := if younger.any (fun x => x.state == .waitingPublish && !x.placed) then some s.port.ticket
              else none }
        ∧ t = (s.setArch t.arch).setPort { s.port with recordQ := t.port.recordQ, ticket := t.port.ticket })
    ∧ (∀ r n, CatchingUpOrRecording s → s.wit.work = .ready r n → (∀ m, s.arch.releaseTicket = some m → n ≤ m) →
      ∃ t u, exec .backfillPlace s = .next t ∧ t.port.recordQ = s.port.recordQ ++ [⟨r, true⟩]
        ∧ t.arch.flash = s.arch.flash ∧ t.wit.origins = s.wit.origins ∧ t.wit.secured = s.wit.secured
        ∧ t = (((s.setArch t.arch).setWit t.wit).setRetr t.retr).setPort
            { s.port with recordQ := t.port.recordQ, ticket := t.port.ticket }
        ∧ t = flashIdle u ∧ u.port = { s.port with recordQ := t.port.recordQ }
        ∧ ∀ j rest, s.wit.jobs = j :: rest →
          let left := if j.next < j.last then { j with next := j.next + 1 } :: rest else rest
          u.wit = { s.wit with jobs := left, work := if left = [] then .idle else .reading }
          ∧ u.arch = { s.arch with
              requests := s.arch.requests ++ (left.head?.map (fun x => ⟨.backfill, .own, x.next⟩)).toList }))
  ∧ (∀ (origin : BitVec 5) (s : Machine.State) (o : Origin) (g : Gap) (n : Nat),
    originOf s origin.toNat = some o → o.gap = some g → g.phase = .waiting n → s.port.gapQ.length < 2 →
    s.supply.station ≠ none → s.supply.station ≠ some .hold → (∀ m ∈ gapTickets s, n ≤ m) →
      exec (.gapPlace origin) s = .next ((setOrigin { o with gap := some { g with phase := .queued } } s).setPort
        { s.port with gapQ := s.port.gapQ ++ [⟨o.station, g.first, g.count⟩] }))

/-- The expiries of elapsed time. A GAP transmitted 10 s ago ends. The conditions are then tested: in RECORDING, with the
known latest at the expected number or above and a slot available, a new GAP of the origin begins at the expected number,
its count the least of 16, the numbers up to the known latest and the slots; it joins the GAP queue, or waits when that is
full or another GAP waits already; else the origin has no GAP (R141, R122). That GAPs formed in one act go in partition
order is the model's choice (log entry 48), on which its being queued after those of lower partitions rests. Of the other origins only a GAP may be formed.
An entry of the witness mark table that is 10 minutes old goes (R147), and a younger one stays. After 10 minutes from SCAN
the lag test is held off no more, and no test is made by that itself (R149; the model's reading, log entry 15). They are
taken in every station state, HOLD included (the model's reading, log entry 29); in reset no block acts, and they change
nothing (R179). A GAP_EXPIRY of no GAP of that age and a hold-off end before its time change nothing, which is the model's
choice (log entry 3). -/
def Obligations.WitnessExpiriesEndWhatIsOld : Prop :=
  (∀ (origin : BitVec 5) (s : Machine.State) (o : Origin) (g : Gap) (n : Nat), s.supply.station ≠ none →
      StagingAccounted s → originOf s origin.toNat = some o → o.gap = some g → g.phase = .sent n →
      (n + 10240 ≤ s.elapsed →
        let slots := freeShared s + freeReserved s o
        let wanted := s.supply.station = some .recording ∧ o.expected ≤ o.known ∧ 1 ≤ slots
        ∃ t o', exec (.gapExpiry origin) s = .next t ∧ originOf t origin.toNat = some o'
          ∧ o' = { o with gap := o'.gap }
          ∧ (¬ wanted → o'.gap = none)
          ∧ (wanted → ∃ x, o'.gap = some ⟨o.expected, min 16 (min (o.known - o.expected + 1) slots), x⟩
              ∧ ((x = .queued
                    ∧ ⟨o.station, o.expected, min 16 (min (o.known - o.expected + 1) slots)⟩ ∈ t.port.gapQ)
                ∨ ∃ m, x = .waiting m ∧ s.port.ticket ≤ m ∧ m < t.port.ticket)
              ∧ (2 ≤ s.port.gapQ.length ∨ gapTickets s ≠ [] → x ≠ .queued)
              ∧ (s.port.gapQ.length < 2 → gapTickets s = [] →
                  (∀ y ∈ s.wit.origins, y.place < o.place → gapWanted s y = false) → x = .queued))
          ∧ t.wit.origins.map (fun y => { y with gap := none }) = s.wit.origins.map (fun y => { y with gap := none })
          ∧ (∀ y ∈ s.wit.origins, y.place ≠ o.place → y.gap ≠ none ∨ s.supply.station ≠ some .recording →
              y ∈ t.wit.origins)
          ∧ t.wit = { s.wit with origins := t.wit.origins }
          ∧ (s.supply.station ≠ some .recording → t.port = s.port)
          ∧ t = (s.setWit t.wit).setPort { s.port with gapQ := t.port.gapQ, ticket := t.port.ticket })
      ∧ (s.elapsed < n + 10240 → exec (.gapExpiry origin) s = .next s))
  ∧ (∀ (origin : BitVec 5) (s : Machine.State),
      (∀ o g n, originOf s origin.toNat = some o → o.gap = some g → g.phase ≠ .sent n) →
      exec (.gapExpiry origin) s = .next s)
  ∧ (∀ (station : BitVec 5) (s : Machine.State), s.supply.station ≠ none →
      exec (.markEntryExpiry station) s = .next (s.setWit { s.wit with
        marks := s.wit.marks.filter (fun m => decide (m.station ≠ station.toNat ∨ s.elapsed - m.at_ < 614400)) }))
  ∧ (∀ s : Machine.State, s.supply.station ≠ none →
      (∀ n, s.wit.lagHoldoff = some n → 614400 ≤ s.elapsed - n →
        exec .witnessLagHoldoffEnd s = .next (s.setWit { s.wit with lagHoldoff := none }))
      ∧ (s.wit.lagHoldoff = none ∨ (∃ n, s.wit.lagHoldoff = some n ∧ s.elapsed - n < 614400) →
        exec .witnessLagHoldoffEnd s = .next s))
  ∧ (∀ (n : BitVec 5) (s : Machine.State), s.supply.station = none →
      exec (.gapExpiry n) s = .next s ∧ exec (.markEntryExpiry n) s = .next s
        ∧ exec .witnessLagHoldoffEnd s = .next s)

/-! ## The archive -/

/-- A good program. Of an own record: the latest archived own sequence is the entry's number; the first one of the year
open is its year start sequence (R140); and the lag is tested, which raises WITNESS_LAG at 96 records or more above the
secured mark, with a quorum and once 10 minutes have passed since SCAN (R149). Of the head staged record of
a witnessed origin: the record leaves the staged list, the held mark is its number, and oldest held the same where it was
absent (R138); a floor that is then above the expected number makes the floor jump that waited for the program (R139). In
both the failure run is 0, and the write position moves to the next page, which the sector's directory entry follows
(R154; its record count and highest sequence: log entry 46); the flash changes on that one page only, whose bytes become
the old ones and those of the record's page (R151, R152). The own entry waits to be published, not placed, the others stay
in order, and the retention is tested (R157, R158, R162). The report of either wakes the waiting FOLLOW jobs of its origin
(R170), once, and when a floor jump is due at the range that the jump leaves, so that each answers NOT_HELD once for it
(R170; that the jump goes before the report is the model's reading, log entry 52). Their order is the model's choice (log
entry 48). -/
def Obligations.GoodProgramsArchiveTheirRecords : Prop :=
  (∀ (s : Machine.State) (e : OutEntry) (q : Nat),
    FlashCanonical s → s.arch.op = .programming .own →
    s.arch.outbound.find? (fun x => x.state == .programming) = some e → e.seq = some q → e.body.length ≤ 224 →
    ∃ t, exec (.programComplete true) s = .next t ∧ t.arch.latest = q ∧ t.arch.failureRun = 0
      ∧ t.arch.own.writePos = (s.arch.own.writePos + 1) % 114672
      ∧ (∀ a, (a < pageAddress .own s.arch.own.writePos ∨ pageAddress .own s.arch.own.writePos + 256 ≤ a) →
          t.arch.flash.read a = s.arch.flash.read a)
      ∧ (∀ i, i < 256 → t.arch.flash.read (pageAddress .own s.arch.own.writePos + i)
          = s.arch.flash.read (pageAddress .own s.arch.own.writePos + i)
            &&& (pageBytesOf ⟨e.kind, s.cfg.own, q, e.start, e.body⟩).getD i 0)
      ∧ (let u := programEnd true s
        t = flashIdle u ∧ DirectoryFollows true .own ⟨e.kind, s.cfg.own, q, e.start, e.body⟩ s u
        ∧ (∀ older younger, s.arch.outbound = older ++ e :: younger → (∀ x ∈ older, x.state ≠ .programming) →
          ∃ w v, FollowsWoken s.cfg.own w v ∧ RetentionTested v u ∧ v.cfg = s.cfg ∧ v.year = s.year
            ∧ w.retr.jobs = s.retr.jobs ∧ v.arch = { w.arch with requests := v.arch.requests }
            ∧ w.arch = { s.arch with
                op := .idle, flash := u.arch.flash, own := u.arch.own, latest := q, failureRun := 0
                outbound := older ++ { e with state := .waitingPublish, placed := false } :: younger
                releaseTicket := some (s.arch.releaseTicket.getD s.port.ticket) }))
      ∧ t.wit.secured = s.wit.secured
      ∧ (s.wit.yearStart = none → s.year.openYear = some (yearOf e.start) → t.wit.yearStart = some q)
      ∧ (s.wit.yearStart ≠ none ∨ s.year.openYear ≠ some (yearOf e.start) → t.wit.yearStart = s.wit.yearStart)
      ∧ (let lag := (∀ n, s.wit.lagHoldoff = some n → 614400 ≤ s.elapsed - n) ∧ 0 < s.cfg.quorum
          ∧ s.wit.secured + 96 ≤ q
        (lag → flagSet t .witnessLag = true) ∧ (¬ lag → flagSet t .witnessLag = flagSet s .witnessLag))
      ∧ t = (((s.setArch t.arch).setPort t.port).setWit t.wit).setRetr t.retr)
  ∧ (∀ (s : Machine.State) (p : Nat) (o : Origin) (x : Staged) (rest : List Staged),
    FlashCanonical s → StagingAccounted s → s.arch.op = .programming (.part p) → p < s.arch.parts.length →
    originAt s p = some o → o.staged = x :: rest → x.record.body.length ≤ 224 →
    let page := pageAddress (.part p) (ringOf s (.part p)).writePos
    ∃ t o', exec (.programComplete true) s = .next t ∧ originAt t p = some o'
      ∧ (o.floor ≤ o.held + 2 + rest.length → o'.held = o.held + 1 ∧ o'.held = x.record.seq ∧ o'.staged = rest
          ∧ o'.oldest = some (o.oldest.getD x.record.seq) ∧ t.year = s.year)
      ∧ (o.held + 2 + rest.length < o.floor → o'.held = o.floor - 1 ∧ o'.staged = [] ∧ o'.oldest = none
          ∧ t.year = { s.year with day := { s.year.day with
              skips := min 4294967295 (s.year.day.skips + (o.floor - 2 - o.held)) } })
      ∧ t.arch.failureRun = 0 ∧ t.arch.latest = s.arch.latest ∧ t.arch.own.writePos = s.arch.own.writePos
      ∧ (ringOf t (.part p)).writePos = ((ringOf s (.part p)).writePos + 1) % 49152
      ∧ (∀ a, (a < page ∨ page + 256 ≤ a) → t.arch.flash.read a = s.arch.flash.read a)
      ∧ (∀ i, i < 256 → t.arch.flash.read (page + i)
          = s.arch.flash.read (page + i) &&& (pageBytesOf x.record).getD i 0)
      ∧ (let u := programEnd true s
        t = flashIdle u ∧ DirectoryFollows true (.part p) x.record s u
        ∧ (∀ i, i ≠ p → ringOf u (.part i) = ringOf s (.part i))
        ∧ u.arch = { s.arch with
            op := .idle, flash := u.arch.flash, parts := u.arch.parts, failureRun := 0, requests := u.arch.requests }
        ∧ (let copied : Origin :=
            { o with held := x.record.seq, oldest := some (o.oldest.getD x.record.seq), staged := rest }
          let jumped : Origin := { copied with held := o.floor - 1, oldest := none, staged := [], gap := none }
          let withOrigin (new : Origin) : Witness :=
            { s.wit with origins := s.wit.origins.map (fun y => if y.place = p then new else y) }
          ∃ w v, FollowsWoken o.station w v ∧ w.cfg = s.cfg ∧ w.port = s.port
            ∧ (o.floor ≤ o.held + 2 + rest.length → w.wit = withOrigin copied)
            ∧ (o.held + 2 + rest.length < o.floor → w.wit = withOrigin jumped)
            ∧ w.retr = s.retr ∧ w.arch = { u.arch with requests := s.arch.requests } ∧ u.retr = v.retr ∧ u.arch = v.arch))
      ∧ t = ((((s.setArch t.arch).setPort t.port).setWit t.wit).setRetr t.retr).setYear t.year)

/-- A failed program, of an own record or of the head staged record of a witnessed origin, leaves the latest archived own
sequence and what is held, and the record where it waits, the own one with the same sequence number (R157); it counts one
defective page, also in the sector's directory entry (R154), moves the write position, leaves the page's two marker bytes 0
and no byte outside the page changed, and at a failure run of 3 puts the archive into FAULT, which raises ARCHIVE; in the
own ring the retention is tested (R138, R151, R152, R158, R159, R162, R164). A witnessed origin whose floor is above the
expected number makes the floor jump that waited for the program (R139). -/
def Obligations.FailedProgramsVoidTheirPage : Prop :=
  (∀ (s : Machine.State) (e : OutEntry),
    FlashCanonical s → s.arch.op = .programming .own →
    s.arch.outbound.find? (fun x => x.state == .programming) = some e →
    ∃ t, exec (.programComplete false) s = .next t ∧ t.arch.latest = s.arch.latest
      ∧ t.arch.failureRun = s.arch.failureRun + 1
      ∧ t.year.day.defective = min 4294967295 (s.year.day.defective + 1)
      ∧ t.arch.own.writePos = (s.arch.own.writePos + 1) % 114672
      ∧ (∀ a, (a < pageAddress .own s.arch.own.writePos ∨ pageAddress .own s.arch.own.writePos + 256 ≤ a) →
          t.arch.flash.read a = s.arch.flash.read a)
      ∧ t.arch.flash.read (pageAddress .own s.arch.own.writePos) = 0
      ∧ t.arch.flash.read (pageAddress .own s.arch.own.writePos + 1) = 0
      ∧ (let u := programEnd false s
        t = flashIdle u ∧ DirectoryFollows false .own ⟨e.kind, s.cfg.own, e.seq.getD 0, e.start, e.body⟩ s u
        ∧ (∀ older younger, s.arch.outbound = older ++ e :: younger → (∀ x ∈ older, x.state ≠ .programming) →
          ∃ v, RetentionTested v u ∧ v.cfg = s.cfg ∧ v.year.openYear = s.year.openYear
            ∧ v.arch = { s.arch with
                op := .idle, flash := u.arch.flash, own := u.arch.own, failureRun := s.arch.failureRun + 1
                state := if 3 ≤ s.arch.failureRun + 1 then .fault else s.arch.state
                outbound := older ++ { e with state := .waitingArchive, placed := false } :: younger }))
      ∧ (2 ≤ s.arch.failureRun → t.arch.state = .fault ∧ (s.arch.state ≠ .fault → flagSet t .archive = true))
      ∧ t = (((((s.setArch t.arch).setYear t.year).setRetr t.retr).setWit t.wit).setPort t.port).setDraws t.draws)
  ∧ (∀ (s : Machine.State) (p : Nat) (o : Origin) (x : Staged) (rest : List Staged),
    FlashCanonical s → StagingAccounted s → s.arch.op = .programming (.part p) → p < s.arch.parts.length →
    originAt s p = some o → o.staged = x :: rest →
    let page := pageAddress (.part p) (ringOf s (.part p)).writePos
    ∃ t o', exec (.programComplete false) s = .next t ∧ originAt t p = some o'
      ∧ t.arch.latest = s.arch.latest ∧ t.arch.failureRun = s.arch.failureRun + 1
      ∧ (o.floor ≤ o.expected → o'.held = o.held ∧ o'.oldest = o.oldest ∧ o'.staged = o.staged
          ∧ t.year = { s.year with day := { s.year.day with
              defective := min 4294967295 (s.year.day.defective + 1) } })
      ∧ (o.expected < o.floor → o'.held = o.floor - 1 ∧ o'.oldest = none ∧ o'.staged = []
          ∧ t.year = { s.year with day := { s.year.day with
              defective := min 4294967295 (s.year.day.defective + 1)
              skips := min 4294967295 (s.year.day.skips + (o.floor - 1 - o.held)) } })
      ∧ (let u := programEnd false s
        t = flashIdle u ∧ DirectoryFollows false (.part p) x.record s u
        ∧ (∀ i, i ≠ p → ringOf u (.part i) = ringOf s (.part i))
        ∧ u.arch = { s.arch with
            op := .idle, flash := u.arch.flash, parts := u.arch.parts, failureRun := s.arch.failureRun + 1
            state := if 3 ≤ s.arch.failureRun + 1 then .fault else s.arch.state, requests := u.arch.requests })
      ∧ (ringOf t (.part p)).writePos = ((ringOf s (.part p)).writePos + 1) % 49152
      ∧ (∀ a, (a < page ∨ page + 256 ≤ a) → t.arch.flash.read a = s.arch.flash.read a)
      ∧ t.arch.flash.read page = 0 ∧ t.arch.flash.read (page + 1) = 0
      ∧ (2 ≤ s.arch.failureRun → t.arch.state = .fault ∧ (s.arch.state ≠ .fault → flagSet t .archive = true))
      ∧ t = (((((s.setArch t.arch).setYear t.year).setRetr t.retr).setWit t.wit).setPort t.port).setDraws t.draws)

/-- A good erase sets every byte of its sector to FF and changes no other byte; the sector has no directory entry any
more, and the erase failure count is 0 (R152, R154, R163). In a witness partition oldest held rises to the number after
the highest that the sector held (R138): of its record pages, and of those that an erase of it without a good end had
taken before, which the model's own field keeps (log entry 46). A failed erase leaves a sector that is not blank and
every other byte, raises the erase failure count of the target, and at 2 puts the archive into FAULT, which raises
ARCHIVE; the failure run is unchanged (R159, R163, R164). The retention is tested after a good erase of the own ring
(R162). A flash-idle event follows, as after every operation and at every arrival of work: with no read waiting it starts,
in TIME_UNSET, CATCH_UP and RECORDING, the own erase-ahead (R161), else the oldest waiting own program with its number
(R157), else the witness work (R153); an operation in flight, HOLD and reset let it start nothing. The first such event
after a warm return reissues the erase that the supply-fail event abandoned (R165); that it does so before the order of
R153, and follows that order where the erase may no longer start, is the model's reading (log entry 42). That a partition
counts as served when its operation starts is the model's choice (log entry 43). -/
def Obligations.ErasesClearTheirSectorOrAreCounted : Prop :=
  (∀ (s : Machine.State) (a : Area) (sector : Nat), s.arch.op = .erasing a sector →
    (∀ p, a = .part p → p < s.arch.parts.length) →
    let first := match a with
      | .own => 4096 * (1 + sector)
      | .part p => 4096 * (7168 + 3072 * p + sector)
    ∃ t, exec (.eraseComplete true) s = .next t
      ∧ (∀ x, t.arch.flash.read x = if first ≤ x ∧ x < first + 4096 then 0xFF else s.arch.flash.read x)
      ∧ (∀ x ∈ (ringOf t a).dir, x.1 ≠ sector) ∧ (ringOf t a).eraseFails = 0
      ∧ (ringOf t a).writePos = (ringOf s a).writePos ∧ t.arch.latest = s.arch.latest
      ∧ t.arch.failureRun = s.arch.failureRun
      ∧ (let u := eraseEnd true s
        t = flashIdle u
        ∧ (∀ k, k ≠ sector → dirEntry (ringOf u a) k = dirEntry (ringOf s a) k)
        ∧ (∀ b, b ≠ a → ringOf u b = ringOf s b)
        ∧ ∃ v, (a = .own → RetentionTested v u) ∧ (a ≠ .own → v.arch = u.arch) ∧ v.cfg = s.cfg ∧ v.year = s.year
          ∧ v.arch = { s.arch with op := .idle, flash := u.arch.flash, own := u.arch.own, parts := u.arch.parts })
      ∧ (a = .own → ∀ n, (originAt t n).map (·.oldest) = (originAt s n).map (·.oldest))
      ∧ (∀ p o, a = .part p → originAt s p = some o →
          let seqs := (pageRecords (sectorPages s a sector)).map (·.seq)
            ++ (match (ringOf s a).broken with | some (k, n) => if k = sector then [n] else [] | none => [])
          ∃ o', originAt t p = some o' ∧ o'.held = o.held ∧ o'.staged = o.staged
            ∧ (o.oldest = none ∨ seqs = [] → o'.oldest = o.oldest)
            ∧ (∀ b h, o.oldest = some b → h ∈ seqs → (∀ x ∈ seqs, x ≤ h) → o'.oldest = some (max b (h + 1))))
      ∧ t = (((s.setArch t.arch).setRetr t.retr).setWit t.wit).setPort t.port)
  ∧ (∀ (s : Machine.State) (a : Area) (sector : Nat), FlashCanonical s → s.arch.op = .erasing a sector →
    (∀ p, a = .part p → p < s.arch.parts.length) →
    let first := match a with
      | .own => 4096 * (1 + sector)
      | .part p => 4096 * (7168 + 3072 * p + sector)
    let n := (if (ringOf s a).failTarget = sector then (ringOf s a).eraseFails else 0) + 1
    ∃ t, exec (.eraseComplete false) s = .next t
      ∧ (∀ x, (x < first ∨ first + 4096 ≤ x) → t.arch.flash.read x = s.arch.flash.read x)
      ∧ (∃ x, first ≤ x ∧ x < first + 4096 ∧ t.arch.flash.read x ≠ 0xFF)
      ∧ (ringOf t a).eraseFails = n ∧ (ringOf t a).failTarget = sector
      ∧ (ringOf t a).writePos = (ringOf s a).writePos ∧ t.arch.latest = s.arch.latest
      ∧ t.arch.failureRun = s.arch.failureRun
      ∧ (let u := eraseEnd false s
        t = flashIdle u
        ∧ u.arch = { s.arch with
            op := .idle, flash := u.arch.flash, own := u.arch.own, parts := u.arch.parts, state := u.arch.state })
      ∧ (n < 2 → t.arch.state = s.arch.state)
      ∧ (2 ≤ n → t.arch.state = .fault ∧ (s.arch.state ≠ .fault → flagSet t .archive = true))
      ∧ (∀ p, (originAt t p).map (fun o => (o.held, o.oldest, o.staged))
          = (originAt s p).map (fun o => (o.held, o.oldest, o.staged)))
      ∧ t = ((((s.setArch t.arch).setRetr t.retr).setWit t.wit).setPort t.port).setDraws t.draws)
  ∧ (∀ s : Machine.State,
    (s.arch.op ≠ .idle ∨ s.supply.station = none ∨ s.supply.station = some .hold → flashIdle s = s)
    ∧ (s.arch.op = .idle → s.arch.requests = [] →
      ((s.supply.station = some .timeUnset ∨ CatchingUpOrRecording s) → OperationStarted s (flashIdle s))
      ∧ (s.supply.station ≠ some .timeUnset → ¬ CatchingUpOrRecording s → flashIdle s = s)))

/-- A page that holds a record reads back as that record: the layout of the archive page drops no field (R130, R132).
The page holds the marker, the header, the body length and the body where 7.7.5 gives them, and each kind of body its
fields where 7.7.4 gives them; a HALF_HOUR and a DAY body read back as the record they are of, when every field lies
within its width. The same of what the bus brings: the payload of each received class and of each kind of QUERY holds its
fields where 7.7.3 gives them (R120, R130, R131), a frame of one reads back as its command, whatever the unnamed bits, and a
frame that R127 discards, one of the part's own number and another's ANSWER are what R127 to R129 make of them. That a frame
which R127 discards is no clash is the model's choice (log entry 40), and so is that its command joins the queue as its end
mark comes (log entry 57). -/
def Obligations.PageOfARecordReadsBackAsIt : Prop :=
  (∀ r : Rec, r.origin < 256 → r.seq < 4294967296 → r.start < 4294967296 → bodyLengthOk r.kind r.body = true →
    let b := pageBytesOf r
    b.length = 256 ∧ classifyPage b = .record r
      ∧ HoldsFields b [(0, 2, 0xA53C), (12, 1, r.body.length),
          (13 + r.body.length, 2, (crc16 (b.take (13 + r.body.length))).toNat)]
      ∧ HoldsFields (b.drop 2) (headerFields r) ∧ slice b 13 r.body.length = r.body)
  ∧ (∀ h : HalfHour, HalfHourLayout h ∧ (HalfHourFits h → halfHourOf h.start (halfHourBody h) = h))
  ∧ (∀ d : DayRecord, DayLayout d ∧ (DayFits d → dayOf d.start (dayBody d) = d))
  ∧ ReceivedLayouts ∧ UnnamedBitsIgnored ∧ FramesReadBack
  ∧ (∀ (g : YearGeneral) (y : YearSlot), YearLayouts g y)

/-- Every step keeps the archive flash in its canonical form, which is the model's own way to hold it (log entry 7). -/
def Obligations.EveryStepKeepsTheFlashCanonical : Prop :=
  ∀ s t : Machine.State, FlashCanonical s → step s = .next t → FlashCanonical t

/-- Every step keeps every queue and list within its capacity: the transmit queues (R122), backfill jobs (R142), the
witness mark table (R147), pending answers and retrieval jobs (R166, R167), the outbound record queue of 16 (R156), the
gap list of 2 (R105) and the peer offset table of 31 (R109); a backfill job has a sequence left (R143), a terminal has one
retrieval job, and a read request of a job stands only while its job does (R167, R170). It rests on the order of sequence
numbers that every step keeps too, by which a full outbound record queue always has an entry to remove. -/
def Obligations.EveryStepKeepsTheCapacities : Prop :=
  ∀ s t : Machine.State, WithinCapacities s → SequenceOrder s → step s = .next t → WithinCapacities t

/-- Every step keeps the order of sequence numbers: the secured mark never exceeds the latest archived own sequence,
nor that the last assigned, and no two entries of the outbound record queue hold the same number (R148, R156, R157,
R158). -/
def Obligations.EveryStepKeepsTheSequenceOrder : Prop :=
  ∀ s t : Machine.State, SequenceOrder s → step s = .next t → SequenceOrder t

/-- Every step keeps the staging pool in order: free and occupied slots make 48, no origin is above its reservation, and
the staged records of each origin carry consecutive numbers from the held mark on (R136, R137). -/
def Obligations.EveryStepKeepsTheStagingPool : Prop :=
  ∀ s t : Machine.State, StagingAccounted s → step s = .next t → StagingAccounted t

/-- The state after reset has the four properties that every step keeps. -/
def Obligations.ResetHasTheKeptProperties : Prop :=
  FlashCanonical Machine.State.reset ∧ WithinCapacities Machine.State.reset ∧ SequenceOrder Machine.State.reset
    ∧ StagingAccounted Machine.State.reset

/-! ## Retrieval -/

/-- A READ that is taken, of an origin whose records the part holds, gives its terminal exactly one job at its first
sequence: FOLLOW for a count of 0, else READ over the count clamped to 4,096. A READ_YEAR gives it exactly one job for the
year, with its range. Each replaces an older job of the terminal. With two jobs of other terminals a READ or READ_YEAR is
answered BUSY, and for another origin REFUSED(ORIGIN) (R166, R167). The range of a year, from the sectors that hold a
record page, oldest first (R169): let S be the last whose first year is the year or earlier. Without such an S, or when its
last year is earlier, there is no range, and the job ends with its END. Else the range ends at the highest sequence that S
holds and begins at the first sequence of S, moved back one whole sector at a time until those taken hold 10 record pages
or the oldest has been taken. The record count and the highest sequence of a directory entry are the model's own fields (log
entries 32 and 46). The new job works its first sequence (R168, R169). That a read request of a job stands only while its job
does is kept by every step. -/
def Obligations.ReadsAreAdmittedBusyOrRefused : Prop :=
  ∀ (head : QueryHead) (origin : BitVec 8) (s : Machine.State),
    TakesQuery s head → (s.supply.station = some .timeUnset ∨ s.supply.station = some .recording) →
    (∀ q ∈ s.arch.requests, ∀ t, q.who = .job t → ∃ j ∈ s.retr.jobs, j.terminal = t) →
    let answer (b : PendingBody) : Machine.State :=
      (s.setRetr { s.retr with answers := s.retr.answers ++ [⟨head.terminal.toNat, head.tag, b, s.port.ticket⟩] }).setPort
        { s.port with ticket := s.port.ticket + 1 }
    let own := s.retr.jobs.any (fun j => j.terminal == head.terminal.toNat)
    let joined (j : Job) (first : Nat) (t : Machine.State) : Prop :=
      t.retr.jobs.filter (fun x => x.terminal == head.terminal.toNat) = [j] ∧ j.tag = head.tag
        ∧ j.origin = origin.toNat ∧ j.heardAt = s.elapsed ∧ j.sent = 0
        ∧ t.retr.answers = s.retr.answers ∧ t.arch.flash = s.arch.flash
        ∧ (let new : Job := { j with next := first, work := .waiting }
          let kept := s.retr.jobs.filter (fun x => x.terminal != head.terminal.toNat)
          let discarded := s.arch.requests.map (fun q =>
            if q.who = .job head.terminal.toNat then { q with who := .nobody } else q)
          ∃ u, t = flashIdle u ∧ u.arch = { s.arch with requests := u.arch.requests }
            ∧ WorksOn new ((s.setRetr { s.retr with jobs := kept ++ [new] }).setArch { s.arch with requests := discarded }) u)
        ∧ t = (((s.setArch t.arch).setWit t.wit).setRetr t.retr).setPort { s.port with ticket := t.port.ticket }
    (∀ (first : BitVec 32) (count : BitVec 16),
      (areaOf s origin.toNat = none → exec (.read head origin first count) s = .next (answer (.refused .origin)))
      ∧ (areaOf s origin.toNat ≠ none → own = false → 2 ≤ s.retr.jobs.length →
          exec (.read head origin first count) s = .next (answer .busy))
      ∧ (areaOf s origin.toNat ≠ none → (own = true ∨ s.retr.jobs.length < 2) →
          ∃ t j, exec (.read head origin first count) s = .next t ∧ joined j first.toNat t ∧ j.next = first.toNat
            ∧ (count = 0 → j.kind = .follow ∧ j.last = none)
            ∧ (count ≠ 0 → j.kind = .read ∧ j.last = some (first.toNat + min 4096 count.toNat - 1))))
    ∧ (∀ year : BitVec 8,
      (areaOf s origin.toNat = none → exec (.readYear head origin year) s = .next (answer (.refused .origin)))
      ∧ (areaOf s origin.toNat ≠ none → own = false → 2 ≤ s.retr.jobs.length →
          exec (.readYear head origin year) s = .next (answer .busy))
      ∧ (areaOf s origin.toNat ≠ none → (own = true ∨ s.retr.jobs.length < 2) →
          ∃ t j, exec (.readYear head origin year) s = .next t
            ∧ j.kind = .readYear (2000 + year.toNat)
            ∧ (∀ a, areaOf s origin.toNat = some a →
              let range := yearRange (2000 + year.toNat) (recordSectors (ringOf s a))
              (∀ lo hi, range = some (lo, hi) → joined j lo t ∧ lo ≤ j.next ∧ j.last = some hi)
              ∧ (range = none → joined j 1 t ∧ j.last = some 0 ∧ ∃ n, j.work = .ready (.done 0) false n))))
    ∧ (∀ (year : Nat) (l : List (Nat × DirEntry)),
      ((∀ x ∈ l, year < x.2.firstYear.getD 0) → yearRange year l = none)
      ∧ (∀ before last after, l = before ++ last :: after → last.2.firstYear.getD 0 ≤ year →
          (∀ x ∈ after, year < x.2.firstYear.getD 0) →
          (last.2.lastYear.getD 0 < year → yearRange year l = none)
          ∧ (year ≤ last.2.lastYear.getD 0 → ∃ older taken lo, before = older ++ taken
              ∧ yearRange year l = some (lo, last.2.highSeq.getD 0)
              ∧ (older = [] ∨ 10 ≤ (taken.map (·.2.records)).sum)
              ∧ (∀ x rest, taken = x :: rest → (rest.map (·.2.records)).sum < 10)
              ∧ (∀ x q, (taken ++ [last]).head? = some x → x.2.firstSeq = some q → lo = q))))

/-- CONDITION joins the pending answer list in every state that hears it, and CLEAR_ATTENTION clears the named flags and
no other at once, with a CLEARED answer of the flags just after (R166, R171, R172). The snapshot of a CONDITION answer shows
the part as it stands, laid out as 7.7.3 gives it (R171); that bits 6 and 7 of its half-hour entries are 0 is the model's
choice (log entry 41). In every state the ATTN line is asserted exactly while output is permitted and a flag that the enable
set names is set, and the FSTOP line exactly while output is permitted and the FSTOP state is ASSERTED (R48, R173,
R174). -/
def Obligations.ConditionAndClearAttentionAreAnswered : Prop :=
  (∀ s : Machine.State, SnapshotShows s (snapshot s)) ∧ (∀ s : Machine.State, LinesFollow s)
  ∧ ∀ (head : QueryHead) (causes : BitVec 16) (s : Machine.State), TakesQuery s head →
    (exec (.condition head) s = .next ((s.setRetr { s.retr with
        answers := s.retr.answers ++ [⟨head.terminal.toNat, head.tag, .condition, s.port.ticket⟩] }).setPort
        { s.port with ticket := s.port.ticket + 1 }))
    ∧ ((s.supply.station = some .timeUnset ∨ s.supply.station = some .recording) →
      ∃ f : BitVec 9, (∀ i : Nat, i < 9 → f.getLsbD i = (s.retr.flags.getLsbD i && !causes.getLsbD i))
        ∧ exec (.clearAttention head causes) s = .next ((s.setRetr { s.retr with
            flags := f
            answers := s.retr.answers ++ [⟨head.terminal.toNat, head.tag, .cleared f, s.port.ticket⟩] }).setPort
            { s.port with ticket := s.port.ticket + 1 }))

/-- A query that the station state does not take is answered REFUSED(STATE) and does nothing else; one that finds 4
pending answers, or whose target is another recorder, does nothing at all (R129, R166). -/
def Obligations.UntakenQueryIsRefusedOrDropped : Prop :=
  ∀ (head : QueryHead) (origin : BitVec 8) (first : BitVec 32) (count : BitVec 16) (year : BitVec 8) (causes : BitVec 16)
    (offset : BitVec 16) (data : List Byte) (length check : BitVec 16) (s : Machine.State),
    Hears s head.terminal → 1 ≤ data.length → data.length ≤ 200 →
    let refused := (s.setRetr { s.retr with
        answers := s.retr.answers ++ [⟨head.terminal.toNat, head.tag, .refused .state, s.port.ticket⟩] }).setPort
        { s.port with ticket := s.port.ticket + 1 }
    (head.target.toNat = s.cfg.own → answersHeld s < 4 → s.supply.station ≠ some .timeUnset →
      s.supply.station ≠ some .recording →
        exec (.read head origin first count) s = .next refused ∧ exec (.readYear head origin year) s = .next refused
          ∧ exec (.clearAttention head causes) s = .next refused)
    ∧ (head.target.toNat = s.cfg.own → answersHeld s < 4 → s.supply.station ≠ some .commission →
        exec (.configBlock head offset data) s = .next refused
          ∧ exec (.configCommit head length check) s = .next refused)
    ∧ (head.target.toNat ≠ s.cfg.own ∨ 4 ≤ answersHeld s →
        exec (.read head origin first count) s = .next s ∧ exec (.readYear head origin year) s = .next s
          ∧ exec (.clearAttention head causes) s = .next s ∧ exec (.condition head) s = .next s
          ∧ exec (.configBlock head offset data) s = .next s ∧ exec (.configCommit head length check) s = .next s)

/-- The oldest pending answer joins the ANSWER queue when there is room and no job has waited longer, and leaves the
list; a CONDITION answer takes its snapshot then (R171). A job's answer does so in its turn, END ending the job (R122, R166,
R168). The payload of each kind of answer holds its fields as 7.7.3 lays them out (R130). With its answer placed the job works
its next sequence (WorksOn): after a RECORD, or a NOT_HELD of a read, the one after; after a NOT_HELD below the range its
bottom, or the top plus 1 (R168). The held range of the own ring runs from the first sequence of the oldest sector that holds
a record to the latest archived number, that of an origin from oldest held to the held mark. A waiting read is served at the
flash-idle event (ReadServed), one after the other, and its job answers or passes over it (R168, R169). A READ or FOLLOW read
whose range a floor jump has emptied is answered NOT_HELD once, and the job moves on to the new held mark plus 1 (R168, R170;
that this is not the read of a defective page or an erased sector, after which s + 1 comes, is the model's reading, log entry
53). The tickets that say who has waited longer are the model's own (log entry 14). -/
def Obligations.AnswersJoinTheAnswerQueueInTurn : Prop :=
  (∀ t : AnswerTel, AnswerLayout t)
  ∧ (∀ s : Machine.State, s.arch.requests ≠ [] → s.arch.op = .idle → s.supply.station ≠ none →
    s.supply.station ≠ some .hold → (∀ j ∈ s.wit.jobs, j.next ≤ j.last) → (s.retr.jobs.map (·.terminal)).Nodup →
      ReadServed s (serveOne s) ∧ flashIdle s = flashIdle (serveOne s))
  ∧ (∀ s : Machine.State, rangeOf s s.cfg.own = ((recordSectors s.arch.own).head?.bind (·.2.firstSeq), s.arch.latest)
    ∧ ∀ station o, station ≠ s.cfg.own → originOf s station = some o → originAt s o.place = some o →
      rangeOf s station = (o.oldest, o.held))
  ∧ ∀ s : Machine.State, s.port.answerQ.length < 4 →
    let answered (b : PendingBody) : Answer :=
      match b with
      | .busy => .busy
      | .refused r => .refused r
      | .condition => .condition (snapshot s)
      | .cleared f => .cleared f
      | .configResult r off => .configResult r off
    (∀ a rest, s.retr.answers = a :: rest → s.supply.station ≠ none → s.supply.station ≠ some .hold →
      (∀ j ∈ s.retr.jobs, ∀ x b n, j.work = .ready x b n → a.ticket ≤ n) →
        exec .pendingAnswerPlace s = .next ((s.setRetr { s.retr with answers := rest }).setPort { s.port with
          answerQ := s.port.answerQ ++ [⟨a.terminal, a.tag, answered a.body⟩] }))
    ∧ (∀ (terminal : BitVec 5) j x b n, jobOf s terminal.toNat = some j → j.work = .ready x b n →
      (s.supply.station = some .timeUnset ∨ CatchingUpOrRecording s) → (∀ a ∈ s.retr.answers, n ≤ a.ticket) →
      (∀ i ∈ s.retr.jobs, ∀ y c m, i.work = .ready y c m → n ≤ m) →
        ∃ t, exec (.jobAnswerPlace terminal) s = .next t
          ∧ t.port.answerQ = s.port.answerQ ++ [⟨j.terminal, j.tag, x⟩]
          ∧ t.retr.answers = s.retr.answers ∧ t.arch.flash = s.arch.flash
          ∧ (∃ u, t = flashIdle u ∧ u.arch = { s.arch with requests := u.arch.requests }
            ∧ (let v := s.setPort { s.port with answerQ := s.port.answerQ ++ [⟨j.terminal, j.tag, x⟩] }
              (∀ k, x = .done k → u = (v.setRetr { s.retr with
                  jobs := s.retr.jobs.filter (fun i => i.terminal != j.terminal) }).setArch { s.arch with
                  requests := s.arch.requests.map (fun q =>
                    if q.who = .job j.terminal then { q with who := .nobody } else q) })
              ∧ (∀ r, x = .record r → WorksOn { j with next := j.next + 1, sent := j.sent + 1 } v u)
              ∧ ∀ o q, x = .notHeld o q → WorksOn { j with
                  next := if b then (rangeOf s j.origin).1.getD ((rangeOf s j.origin).2 + 1) else j.next + 1 } v u))
          ∧ t = (((s.setArch t.arch).setWit t.wit).setRetr t.retr).setPort
              { s.port with answerQ := t.port.answerQ, ticket := t.port.ticket }
          ∧ (∀ k, x = .done k → ∀ i ∈ t.retr.jobs, i.terminal ≠ j.terminal)
          ∧ (∀ r, x = .record r → ∃ i, jobOf t terminal.toNat = some i ∧ i.sent = j.sent + 1 ∧ i.tag = j.tag))

/-- A job whose terminal has sent no PRESENCE for 5 minutes leaves the list without an answer; one that has been heard
within them stays (R170), the expiry command then changing nothing, which is the model's choice (log entry 3). -/
def Obligations.SilentTerminalsJobEnds : Prop :=
  ∀ (terminal : BitVec 5) (j : Job) (s : Machine.State), jobOf s terminal.toNat = some j →
    (s.supply.station = some .timeUnset ∨ CatchingUpOrRecording s) →
    (307200 ≤ s.elapsed - j.heardAt → ∃ t, exec (.jobSilenceExpiry terminal) s = .next t
      ∧ t.retr.jobs = s.retr.jobs.filter (fun x => x.terminal != j.terminal) ∧ t.retr.answers = s.retr.answers
      ∧ t = (s.setRetr t.retr).setArch { s.arch with requests := t.arch.requests }
      ∧ t.arch.requests.length = s.arch.requests.length)
    ∧ (s.elapsed - j.heardAt < 307200 → exec (.jobSilenceExpiry terminal) s = .next s)

/-! ## COMMISSION -/

/-- CONFIG_BLOCK in COMMISSION: BUSY while a commit is in flight; data that fit are written at the offset with OK, and
others give RANGE with the block's offset and are not written (R182). -/
def Obligations.ConfigBlockWritesTheStagingImage : Prop :=
  ∀ (head : QueryHead) (offset : BitVec 16) (data : List Byte) (s : Machine.State),
    TakesQuery s head → s.supply.station = some .commission → 1 ≤ data.length → data.length ≤ 200 →
    let answer (b : PendingBody) (u : Machine.State) : Machine.State :=
      (u.setRetr { s.retr with answers := s.retr.answers ++ [⟨head.terminal.toNat, head.tag, b, s.port.ticket⟩] }).setPort
        { s.port with ticket := s.port.ticket + 1 }
    (s.supply.commit ≠ .idle → exec (.configBlock head offset data) s = .next (answer .busy s))
    ∧ (s.supply.commit = .idle → 1024 < offset.toNat + data.length →
        exec (.configBlock head offset data) s = .next (answer (.configResult .range offset.toNat) s))
    ∧ (s.supply.commit = .idle → offset.toNat + data.length ≤ 1024 →
        exec (.configBlock head offset data) s = .next (answer (.configResult .ok 0) (s.setSupply { s.supply with
          staging := s.supply.staging.take offset.toNat ++ data
            ++ s.supply.staging.drop (offset.toNat + data.length) })))

/-- CONFIG_COMMIT in COMMISSION: BUSY while a commit is in flight; a length outside 416 to 1,024 or a check that differs
gives CHECK_FAILED, the first setting or binding that fails gives RANGE with its offset, and otherwise the marker, L and
the check are written into the staging image and the erase of sector 0 begins (R183). The checks in their order: the
recorder settings in image order, with the station table and the witness set (R134); the fields of each slot in use that
its kind holds (R3); a source that a slot of lower number has; too many slots of a kind; a required kind that is lacking;
and a WET basis without an H2O slot (R2, R6). The first that fails names the least offset it can, and an image that meets
them all has no error. -/
def Obligations.ConfigCommitChecksThenErases : Prop :=
  (∀ (head : QueryHead) (length check : BitVec 16) (s : Machine.State),
    TakesQuery s head → s.supply.station = some .commission →
    let answer (b : PendingBody) : Machine.State :=
      (s.setRetr { s.retr with answers := s.retr.answers ++ [⟨head.terminal.toNat, head.tag, b, s.port.ticket⟩] }).setPort
        { s.port with ticket := s.port.ticket + 1 }
    let fits := 416 ≤ length.toNat ∧ length.toNat ≤ 1024 ∧ check = crc16 (slice s.supply.staging 8 (length.toNat - 8))
    (s.supply.commit ≠ .idle → exec (.configCommit head length check) s = .next (answer .busy))
    ∧ (s.supply.commit = .idle → ¬ fits →
        exec (.configCommit head length check) s = .next (answer (.configResult .checkFailed 0)))
    ∧ (s.supply.commit = .idle → fits → ∀ off, imageError s.supply.staging = some off →
        exec (.configCommit head length check) s = .next (answer (.configResult .range off)))
    ∧ (s.supply.commit = .idle → fits → imageError s.supply.staging = none →
        exec (.configCommit head length check) s = .next ((s.setSupply { s.supply with
          staging := [0x3C#8, 0x5A#8] ++ beBytes 2 length.toNat ++ beBytes 2 check.toNat ++ s.supply.staging.drop 6
          commit := .inFlight head.terminal.toNat head.tag }).setArch { s.arch with op := .commitErase })))
  ∧ (∀ (b : List Byte) (off : Nat), FirstFault b off → imageError b = some off)
  ∧ (∀ b : List Byte, (∀ rank off, ¬ ImageFault b rank off) → imageError b = none)

/-- The flash work of a commit: a good erase leads to the first page and a good page to the next, each page's bytes
becoming the old ones and those of the staging image at 256 times its number; the fourth good page ends the commit with
OK, and a failure ends it with FLASH_FAILED and an image whose check fails (R152, R183). A failed page counts as one
defective page (R86) and not in the failure run, and a failed erase as neither (R183). How the image comes to fail is the
model's choice (log entry 12). -/
def Obligations.CommitWritesItsPagesInOrder : Prop :=
  ∀ (s : Machine.State) (terminal : Nat) (tag : BitVec 8),
    FlashCanonical s → s.supply.commit = .inFlight terminal tag → s.supply.staging.length = 1024 →
    let holds (p : Nat) (t : Machine.State) : Prop :=
      (∀ a, (a < 256 * p ∨ 256 * p + 256 ≤ a) → t.arch.flash.read a = s.arch.flash.read a)
        ∧ ∀ i, i < 256 → t.arch.flash.read (256 * p + i)
            = s.arch.flash.read (256 * p + i) &&& s.supply.staging.getD (256 * p + i) 0
    (s.arch.op = .commitErase → ∃ t, exec (.commitFlashComplete true) s = .next t ∧ t.arch.op = .commitPage 0
        ∧ t = s.setArch t.arch ∧ ∀ a, t.arch.flash.read a = if a < 4096 then 0xFF else s.arch.flash.read a)
    ∧ (∀ p, s.arch.op = .commitPage p → p < 3 → ∃ t, exec (.commitFlashComplete true) s = .next t
        ∧ t.arch.op = .commitPage (p + 1) ∧ t = s.setArch t.arch ∧ holds p t)
    ∧ (s.arch.op = .commitPage 3 → ∃ t, exec (.commitFlashComplete true) s = .next t ∧ t.arch.op = .idle
        ∧ t.supply = { s.supply with commit := .idle } ∧ holds 3 t
        ∧ t.retr.answers = s.retr.answers ++ [⟨terminal, tag, .configResult .ok 0, s.port.ticket⟩]
        ∧ t = (((s.setSupply t.supply).setArch t.arch).setRetr t.retr).setPort t.port)
    ∧ (s.arch.op = .commitErase ∨ (∃ p, p ≤ 3 ∧ s.arch.op = .commitPage p) →
        ∃ t, exec (.commitFlashComplete false) s = .next t ∧ t.arch.op = .idle ∧ t.supply.commit = .idle
          ∧ t.retr.answers = s.retr.answers ++ [⟨terminal, tag, .configResult .flashFailed 0, s.port.ticket⟩]
          ∧ imageCheckHolds (storedImage t) = false ∧ t.arch.failureRun = s.arch.failureRun
          ∧ (∀ a, 4096 ≤ a → t.arch.flash.read a = s.arch.flash.read a)
          ∧ (s.arch.op = .commitErase → t.year = s.year)
          ∧ (s.arch.op ≠ .commitErase → t.year = { s.year with day := { s.year.day with
              defective := min 4294967295 (s.year.day.defective + 1) } })
          ∧ t = (((((s.setSupply t.supply).setArch t.arch).setRetr t.retr).setPort t.port).setYear t.year).setDraws
              t.draws)

/-! ## Supply, reset and start -/

/-- The supply-fail event: HOLD is entered with the state left noted, the port goes OFF, the FSTOP and ATTN lines are
released with the FSTOP state kept, no flash operation goes on, and plant time, T_c, the accumulators and the minute
tables are kept; the from-time of the HOLD entry that a warm return adds is the end of the minute that plant time is in,
or T_c + 60 s in a freeze (R117, R121, R174, R176). With no flash operation in flight the archive, the witness state, the
retrieval unit and the tallies are kept. A program in flight completes and is acted on in this event (the model's reading,
log entry 33); an erase in flight is abandoned and noted (R165; log entry 42), and a commit cut off, with no byte outside its
sector or page changed but the image's marker, its page in flight a defective page when it reads back wrong (R86, R176, R183; log entries 12 and
46). -/
def Obligations.SupplyFailEntersHold : Prop :=
  ∀ (good : Bool) (s : Machine.State) (st : Station), s.supply.station = some st → st ≠ .hold →
    ∃ t, exec (.supplyFail good) s = .next t ∧ t.supply.station = some .hold ∧ t.supply.heldFrom = some st
      ∧ t.supply.ramIntact = true ∧ t.port.state = .off ∧ t.port.onLine = none ∧ fstopLine t = false
      ∧ attnLine t = false ∧ t.arch.op = .idle ∧ t.tb.plant = s.tb.plant
      ∧ t.tb = { s.tb with holdFrom := t.tb.holdFrom, stored := [], window := none }
      ∧ (∀ p, s.tb.plant = some p → s.tb.state ≠ .frozen → t.tb.holdFrom = (p / 61440 + 1) * 60)
      ∧ (∀ c, s.tb.closed = some c → s.tb.state = .frozen → t.tb.holdFrom = c + 60)
      ∧ t.port.recordQ = s.port.recordQ ∧ t.port.answerQ = s.port.answerQ ∧ CutOff good s t
      ∧ t = (((((((s.setSupply t.supply).setPort t.port).setTb t.tb).setArch t.arch).setWit t.wit).setRetr t.retr).setYear t.year).setDraws t.draws

/-- A rise of the supply sense starts the good interval; a fall in HOLD or in reset is no supply-fail event and changes
nothing else (R177, R179). The backup cell runs out in HOLD or in reset: plant time is lost, the validity flag cleared,
and the retained-RAM check no longer holds (R101, R177); that the timebase is UNSET at once, and that the event is taken
in reset too, is the model's reading (log entry 34). -/
def Obligations.SupplyEventsWhileThePartWaits : Prop :=
  (∀ s : Machine.State,
    (s.supply.sense = false →
      exec .supplySenseRise s = .next (s.setSupply { s.supply with sense := true, goodSince := s.elapsed }))
    ∧ (s.supply.station = none ∨ s.supply.station = some .hold → s.supply.sense = true →
      exec .supplySenseBounce s = .next (s.setSupply { s.supply with sense := false })))
  ∧ (∀ s : Machine.State, s.supply.station = none ∨ s.supply.station = some .hold →
    exec .backupCellRanOut s = .next ((s.setSupply { s.supply with ramIntact := false, clockValid := false }).setTb
      { s.tb with plant := none, state := .unset }))

/-- A warm return: with the RAM intact and no RESET, HOLD from CATCH_UP or RECORDING goes to CATCH_UP with a HOLD entry in
the gap list, or on to RECORDING when no minute is due, which empties the gap list (R106, R117), with the outputs
permitted, the FSTOP line at the FSTOP state and the ATTN line at the flags that the enable set names (R48, R174); HOLD from
TIME_UNSET goes back there, with the lines released. The port is ACTIVE with the error run at 0 (R126), the transmit queues
are as they were kept, but for the GAPs that RECORDING adds, and so are the account, the tallies, the minutes, T_c, plant
time, the peer offsets, the reference and the step count. The marks of 10 minutes, the GAPs of 10 s and the jobs silent
for 5 minutes go at the return (R147, R150, R170; the model's reading, log entry 29), a read of such a job with nobody left
to answer; the retention is tested (R162), and then the flash has its idle event, the first one, which serves the reads
that wait and reissues the erase that the supply-fail event abandoned (R165, R178), before any other work, where its
target still needs it and the archive state and the retention allow it (log entry 42). A return that is not warm leaves the part in reset for a cold
start; before 150 ms of good supply there is no return at all (R177, R178). That the 150 ms are counted in ticks of
1/1024 s is the model's choice (log entry 23), and that a command before them changes nothing is too (log entry 3). -/
def Obligations.SupplyReturnIsWarmOrCold : Prop :=
  (∀ s : Machine.State, s.supply.station = some .hold → s.supply.sense = true →
    153600 ≤ 1000 * (s.elapsed - s.supply.goodSince) → s.supply.ramIntact = true → s.supply.resetInHold = false →
    let silent (n : Nat) : Bool :=
      s.retr.jobs.any (fun j => j.terminal == n && decide (307200 ≤ s.elapsed - j.heardAt))
    let frame (t : Machine.State) : Prop :=
      t = (((((s.setSupply t.supply).setPort t.port).setTb t.tb).setWit t.wit).setArch t.arch).setRetr t.retr
      ∧ t.port = { s.port with
          state := .active, errorRun := 0, activeSince := s.elapsed, gapQ := t.port.gapQ, ticket := t.port.ticket }
      ∧ (∃ new, t.port.gapQ = s.port.gapQ ++ new)
      ∧ (t.supply.station ≠ some .recording → t.port.gapQ = s.port.gapQ)
      ∧ ∃ u, t.arch = (flashIdle u).arch ∧ t.retr = (flashIdle u).retr
        ∧ t.wit = { (flashIdle u).wit with origins := t.wit.origins }
        ∧ u.supply = (if s.supply.heldFrom = some .timeUnset
            then { s.supply with station := some .timeUnset, heldFrom := none }
            else { s.supply with station := some .catchUp, heldFrom := none, output := true })
        ∧ u.cfg = s.cfg ∧ u.year = s.year ∧ u.port.ticket = s.port.ticket
        ∧ u.wit = { s.wit with
            marks := s.wit.marks.filter (fun m => decide (s.elapsed - m.at_ < 614400))
            origins := s.wit.origins.map (fun o => match o.gap with
              | some ⟨_, _, .sent n⟩ => if n + 10240 ≤ s.elapsed then { o with gap := none } else o
              | _ => o) }
        ∧ u.retr = { s.retr with flags := u.retr.flags, jobs := s.retr.jobs.filter (fun j => !silent j.terminal) }
        ∧ (s.arch.state = .ready ∧ OwnEraseBarred s → u.retr.flags = s.retr.flags ||| 0x40#9)
        ∧ (¬ (s.arch.state = .ready ∧ OwnEraseBarred s) → u.retr.flags = s.retr.flags)
        ∧ u.arch = { s.arch with
            state := t.arch.state
            requests := s.arch.requests.map (fun q => match q.who with
              | .job n => if silent n then { q with who := .nobody } else q
              | _ => q) }
        ∧ ∀ a k, s.arch.abandoned = some (a, k) → s.arch.op = .idle → EraseMayStart u a k →
          t.arch.op = .erasing a k ∧ t.arch.abandoned = none
    (s.supply.heldFrom = some .catchUp ∨ s.supply.heldFrom = some .recording →
      ∃ t, exec .supplyReturn s = .next t ∧ CatchingUpOrRecording t ∧ t.supply.output = true
        ∧ fstopLine t = s.line.fstop
        ∧ (attnLine t = true ↔ ∃ (i : Nat) (c : Cause), attentionOrder[i]? = some c ∧ flagSet t c = true
            ∧ s.cfg.enable.getLsbD i = true)
        ∧ t.line = s.line ∧ t.accs = s.accs ∧ t.minutes = s.minutes ∧ t.year = s.year ∧ t.avg = s.avg
        ∧ t.tb = { s.tb with
            gaps := t.tb.gaps, catchUp := t.tb.catchUp, state := t.tb.state, sampled := t.tb.sampled }
        ∧ (s.tb.state ≠ .frozen → t.tb.state = s.tb.state)
        ∧ t.arch.flash = s.arch.flash ∧ AgedGone s t ∧ frame t
        ∧ (∀ p c, s.tb.plant = some p → s.tb.closed = some c →
            ((c + 60) * 1024 ≤ p → t.supply.station = some .catchUp ∧ t.tb.catchUp = true
              ∧ t.tb.gaps = gapsWith s.tb.holdFrom .hold s.tb.gaps ∧ t.tb.sampled = s.tb.sampled
              ∧ (s.tb.state = .frozen → t.tb.state = .running))
            ∧ (p < (c + 60) * 1024 → CaughtUp c p t ∧ t.tb.state = s.tb.state)))
    ∧ (s.supply.heldFrom = some .timeUnset →
      ∃ t, exec .supplyReturn s = .next t ∧ t.supply.station = some .timeUnset
        ∧ (s.supply.output = false → fstopLine t = false ∧ attnLine t = false) ∧ t.year = s.year
        ∧ t.line = s.line ∧ t.accs = s.accs ∧ t.minutes = s.minutes ∧ t.avg = s.avg
        ∧ t.arch.flash = s.arch.flash ∧ t.supply = { s.supply with station := some .timeUnset, heldFrom := none }
        ∧ (s.tb.catchUp = false → t.tb = s.tb) ∧ AgedGone s t ∧ frame t))
  ∧ (∀ s : Machine.State, s.supply.station = some .hold →
    ((s.supply.sense = false ∨ 1000 * (s.elapsed - s.supply.goodSince) < 153600) → exec .supplyReturn s = .next s)
    ∧ (s.supply.sense = true → 153600 ≤ 1000 * (s.elapsed - s.supply.goodSince) →
        (s.supply.ramIntact = false ∨ s.supply.resetInHold = true ∨ s.supply.heldFrom = some .unconfigured
          ∨ s.supply.heldFrom = some .commission ∨ s.supply.heldFrom = some .scan) →
        exec .supplyReturn s = .next (s.setSupply { s.supply with station := none, heldFrom := none })))

/-- RESET asserted: the part is in reset, with no station state, the port OFF, the outputs released and no flash
operation in flight; released, the line is noted with its time and nothing else changes (R179). An operation in flight is
cut as at a supply failure, its page in flight a defective page when it reads back wrong (R86), and without one the
archive, the witness state, the retrieval unit and the tallies are kept (R176, R179, R183; log entries 12, 33 and 46). That RESET asserted in HOLD puts the part in reset at once is the model's
reading (log entry 11). -/
def Obligations.ResetLineStopsThePart : Prop :=
  ∀ (good : Bool) (s : Machine.State),
    (s.supply.resetLine = false →
      ∃ t, exec (.resetAssert good) s = .next t ∧ t.supply.station = none ∧ t.supply.resetLine = true
        ∧ t.port.state = .off ∧ t.port.onLine = none ∧ fstopLine t = false ∧ attnLine t = false
        ∧ t.arch.op = .idle ∧ CutOff good s t
        ∧ t = ((((((s.setSupply t.supply).setPort t.port).setArch t.arch).setWit t.wit).setRetr t.retr).setYear t.year).setDraws t.draws)
    ∧ (s.supply.resetLine = true →
      exec .resetRelease s = .next (s.setSupply { s.supply with resetLine := false, releasedAt := s.elapsed }))

/-- A cold start with SVC asserted is COMMISSION with the stored image staged and the validity flag cleared; without SVC
and without a valid image it is UNCONFIGURED, with the station number at offset 8 when it is 1 to 31 and 31 otherwise;
COMMISSION uses the settings of a valid image, and else those of UNCONFIGURED. That every setting which R179 does not name
is 0 or none there is the model's choice (log entry 54). An image is valid with the marker 3C5A, a length L of 416 to
1,024, the CRC-16 of bytes 8 to L - 1 as its check, and no setting or slot out of range (R6, R133, R134, 7.7.6); its
settings are its fields as 7.7.6 lays them out. In both the port is ACTIVE with every queue empty, no flag, answer or job stands, no record is queued, no minute, account,
tally or witness state is kept, and the flash is untouched (R121, R179, R182). -/
def Obligations.ColdStartWithoutRecording : Prop :=
  ∀ s : Machine.State, coldStartDue s = true →
    let empty (t : Machine.State) : Prop :=
      t.port = { state := .active, activeSince := s.elapsed } ∧ t.retr = {} ∧ t.arch = { flash := s.arch.flash }
        ∧ t.accs = List.replicate 16 {} ∧ t.minutes = {} ∧ t.line = {} ∧ t.avg = {} ∧ t.year = {} ∧ t.wit = {}
    let image := s.arch.flash.bytes 0 1024
    let fallback : Settings := { own := if 1 ≤ field image 8 1 ∧ field image 8 1 ≤ 31 then field image 8 1 else 31 }
    (∀ b : List Byte, ImageSettings b (settingsOf b))
    ∧ (∀ b : List Byte, imageValid b = true ↔
        b.take 2 = [0x3C, 0x5A] ∧ 416 ≤ field b 2 2 ∧ field b 2 2 ≤ 1024
          ∧ field b 4 2 = (crc16 (slice b 8 (field b 2 2 - 8))).toNat ∧ ∀ rank off, ¬ ImageFault b rank off)
    ∧ (∃ t, exec (.coldStart true) s = .next t ∧ t.supply.station = some .commission
      ∧ t.supply.staging = image ∧ t.supply.clockValid = false ∧ t.supply.commit = .idle
      ∧ t.cfg = (if imageValid image then settingsOf image else fallback)
      ∧ empty t)
    ∧ (imageValid image = false →
      ∃ t, exec (.coldStart false) s = .next t ∧ t.supply.station = some .unconfigured ∧ t.cfg = fallback
        ∧ t.cfg.line = 0 ∧ t.cfg.enable = 0 ∧ slotsInUse t.cfg = [] ∧ t.supply.output = false
        ∧ empty t)

/-- A cold start with a valid image and SVC not asserted ends SCAN in TIME_UNSET without a plant time and in CATCH_UP, or
at once in RECORDING, with the plant time of the backup domain, T_c and the gap list by the resume point (R116); the image
is in use, the port is ACTIVE with every transmit queue empty (R121), nothing is secured or staged, known latest and floor of
each origin are 0 and no GAP stands (R135), the mark table and the backfill queue are empty (R144, R147), the hold-off of the
lag test begins (R149), no job or answer stands (R166, R167), no minute is closed and no offset held (R38, R109), the flash is
untouched, and FSTOP stays released in CATCH_UP (R48, R136, R148, R179, R180). That SCAN passes within the one command is the model's choice (log entry 19). SCAN finds directories and write
positions (R154, R165), the last assigned (R157) and the latest archived number, and each origin's held mark and unbroken run
(R135). From the readable own records it finds the resume point (R94), rebuilds tallies, account, day table and mass rates
(R95 to R97) and finds the own witness floor and the year start sequence (R140). That a missing record ends a series of
half-hours counted as one FSTOP assertion is the model's reading (log entry 26), that a status code 0 read back counts as
NOT_OPERATING is its choice (log entry 21), and the record count and highest sequence of
a directory entry are its own fields (log entries 32 and 46). Then the pending closes are made (R98): of the day that the
resume point ends, unless its DAY record or its year's YEAR_GENERAL stands; of the year, or of its lacking YEAR_SLOT records.
Their records wait in the outbound record queue and their causes are raised; the retention is tested (R162), and the flash
has its idle event (R153). -/
def Obligations.ColdStartScansAndGoesOn : Prop :=
  (∀ s : Machine.State, coldStartDue s = true → imageValid (s.arch.flash.bytes 0 1024) = true →
    ∃ t, exec (.coldStart false) s = .next t ∧ t.cfg = settingsOf (s.arch.flash.bytes 0 1024)
      ∧ t.arch.flash = s.arch.flash ∧ t.arch.requests = [] ∧ t.arch.failureRun = 0
      ∧ t.port = { state := .active, activeSince := s.elapsed, ticket := t.port.ticket }
      ∧ t.wit = {
          origins := t.wit.origins, ownFloor := t.wit.ownFloor, yearStart := t.wit.yearStart
          lagHoldoff := some s.elapsed }
      ∧ (∀ o ∈ t.wit.origins, o.staged = [] ∧ o.known = 0 ∧ o.floor = 0 ∧ o.gap = none)
      ∧ t.retr = { flags := t.retr.flags } ∧ t.accs = List.replicate 16 {} ∧ t.minutes = {}
      ∧ t.tb = {
          plant := t.tb.plant, state := t.tb.state, closed := t.tb.closed, sampled := t.tb.sampled
          gaps := t.tb.gaps, catchUp := t.tb.catchUp }
      ∧ t.supply = { s.supply with
          station := t.supply.station, heldFrom := none, resetInHold := false, ramIntact := false
          output := t.supply.output, staging := [], commit := .idle }
      ∧ (s.supply.clockValid = false → t.supply.station = some .timeUnset ∧ t.tb = {})
      ∧ (s.supply.clockValid = true → CatchingUpOrRecording t ∧ t.tb.plant = s.tb.plant
          ∧ ∀ p, s.tb.plant = some p → EntersCatchUp t.year.resume p t)
      ∧ (t.supply.station ≠ some .recording → fstopLine t = false ∧ attnLine t = false)
      ∧ (∃ u, t = flashIdle u ∧ u.arch.op = .idle ∧ u.arch.requests = [] ∧ u.arch.roundRobin = 2
          ∧ u.arch.abandoned = none
          ∧ LastAssignedFound t u.arch.lastAssigned
          ∧ ∀ e ∈ u.arch.outbound, e.state = .waitingArchive ∧ e.seq = none)
      ∧ (t.arch.state = .ringFull ↔ OwnEraseBarred t) ∧ (t.arch.state ≠ .ringFull → t.arch.state = .ready)
      ∧ (t.arch.state = .ringFull → flagSet t .archive = true)
      ∧ AreaScanned .own t
      ∧ t.wit.origins.map (fun o => (o.place, o.station)) = witnessed t.cfg
      ∧ (∀ o ∈ t.wit.origins, AreaScanned (.part o.place) t
          ∧ ((∀ p x, p < 49152 → readPage t (.part o.place) p ≠ .record x) → o.held = 0 ∧ o.oldest = none)
          ∧ (∀ p x, p < 49152 → readPage t (.part o.place) p = .record x → x.seq ≤ o.held ∧ o.oldest.isSome = true)
          ∧ (o.held = 0 ∨ ∃ p x, p < 49152 ∧ readPage t (.part o.place) p = .record x ∧ x.seq = o.held)
          ∧ ∀ b, o.oldest = some b →
            (∀ n, b ≤ n → n ≤ o.held → ∃ p x, p < 49152 ∧ readPage t (.part o.place) p = .record x ∧ x.seq = n)
            ∧ ∀ p x, p < 49152 → readPage t (.part o.place) p = .record x → x.seq + 1 ≠ b)
      ∧ (let recs := ownRecords t
        (∀ x, x ∈ recs ↔ ∃ p, p < 114672 ∧ readPage t .own p = .record x)
        ∧ (∀ x ∈ recs, x.seq ≤ t.arch.latest) ∧ (t.arch.latest = 0 ∨ ∃ x ∈ recs, x.seq = t.arch.latest)
        ∧ t.year.compareDue = true
        ∧ (recs = [] → t.year.resume = none ∧ RebuiltAt [] 0 t ∧ t.wit.ownFloor = t.arch.latest + 1
            ∧ t.wit.yearStart = none)
        ∧ (∀ x ∈ recs, ∃ r, t.year.resume = some r ∧ periodEnd x ≤ r)
        ∧ (∀ r, t.year.resume = some r → (∃ x ∈ recs, periodEnd x = r) ∧ OwnFloorFound recs (yearOf r) t
          ∧ ∃ u : Machine.State, u.cfg = t.cfg ∧ RebuiltAt recs r u ∧ u.wit.secured = 0 ∧ u.retr.flags = 0
            ∧ (let year := yearOf (r - 1800)
              let day := if r % 86400 = 0 ∧ dayClosed recs (dayStart (r - 1800)) = false ∧ yearClosed recs year = false
                then closeDay r u else u
              let done := if yearStart (yearOf r) = r then
                  (if yearClosed recs year = true then missingYearSlots recs year day else closeYear r day)
                else day
              t.line = done.line ∧ t.avg = done.avg
              ∧ t.year = { done.year with openYear := t.year.openYear, resume := some r, compareDue := true }
              ∧ t.year.openYear = some (yearOf r)
              ∧ t.arch.outbound.map (fun e => (e.kind, e.start, e.body))
                = done.arch.outbound.map (fun e => (e.kind, e.start, e.body))
              ∧ ∀ c : Cause, c ≠ .archive → flagSet t c = flagSet done c))))
  ∧ (∀ (recs : List Rec) (year : Nat) (s : Machine.State), s.arch.outbound.length + s.year.rows.length ≤ 16 →
    let t := missingYearSlots recs year s
    ∃ rows : List YearRow, rows.map (·.slot) = s.year.rows.map (·.slot)
      ∧ (∀ x ∈ rows, RowRebuilt s.cfg (halfHoursOf recs year) (daysOf recs year) x)
      ∧ t.arch.outbound = s.arch.outbound ++ (rows.filter (fun x => !yearSlotClosed recs year x.slot)).map (fun x =>
          { kind := .yearSlot, start := yearStart year, body := yearSlotBody (yearSlotOf s.cfg year x) })
      ∧ t.year.rows = s.year.rows.map (fun x => { slot := x.slot }) ∧ t.year.minutes = {} ∧ t.year.totals = {}
      ∧ t.line = s.line ∧ t.avg = s.avg)

/-! ## The day close -/

/-- The day close. The DAY record holds the common count of operating half-hours, the nine station counters as they stand
and one entry for each pollutant slot (R79): NOT_OPERATING without operating half-hours, VALID with a valid one and at
most the day allowance of invalid ones, INVALID otherwise, with the rounded daily average when VALID (R77), and
DAY_EXCEEDED above a daily limit, which raises LIMIT (R78). The record joins the tail of the outbound record queue, which
makes room first when it holds 16 entries, what leaves being counted for the day that begins (R156); the counters enter the year totals and restart (R87), the statuses enter the year rows (R85), and every day row is emptied,
while channel loss, mass rates and the last half-hour stay (R79). -/
def Obligations.DayCloseAppendsItsRecordAndRestartsTheDay : Prop :=
  ∀ (boundary : Nat) (s : Machine.State),
    let d := dayRecord (boundary - 86400) s
    let t := closeDay boundary s
    (d.start = boundary - 86400 ∧ d.counters = s.year.day
      ∧ (∀ r rest, s.avg.rows = r :: rest → d.operating = r.day.operating)
      ∧ d.entries.map (·.slot) = (pollutants s.cfg).map (·.1)
      ∧ (∀ e ∈ d.entries,
          let r := (avgRowAt s.avg e.slot).day
          let limit := (s.cfg.slots.getD e.slot {}).dailyLimit
          e.valid = r.valid ∧ e.invalid = r.invalid ∧ e.aExceed = r.aExceed
          ∧ (e.status = .notOperating ↔ r.operating = 0)
          ∧ (e.status = .valid ↔ 0 < r.operating ∧ 1 ≤ r.valid ∧ r.invalid ≤ s.cfg.dayAllowance)
          ∧ (e.average.isSome = true ↔ e.status = .valid)
          ∧ (∀ v, e.average = some v → v = (2 * r.sum + r.valid) / (2 * r.valid))
          ∧ (e.exceeded = true ↔ ∃ v, e.average = some v ∧ 0 < limit ∧ limit < v)
          ∧ (e.exceeded = true → flagSet t .limit = true)))
    ∧ (∃ before, t.arch.outbound = before ++ [{ kind := .day, start := boundary - 86400, body := dayBody d }]
        ∧ (s.arch.outbound.length < 16 → before = s.arch.outbound ∧ t.year.day = {}))
    ∧ (∃ u v, RecordAppended .day (boundary - 86400) (dayBody d) u v ∧ u.arch = s.arch ∧ u.port = s.port
        ∧ u.year.day = {} ∧ (∀ c : Cause, flagSet u c = true ↔
            flagSet s c = true ∨ (c = .limit ∧ ∃ e ∈ d.entries, e.exceeded = true))
        ∧ t.arch = v.arch ∧ t.port = v.port ∧ t.year = v.year ∧ t.retr = v.retr)
    ∧ t.year.totals.toList
        = List.zipWith (fun a b => min 4294967295 (a + b)) s.year.totals.toList s.year.day.toList
    ∧ t.year.rows = s.year.rows.map (fun r =>
        match d.entries.find? (fun e => e.slot == r.slot) with
        | none => r
        | some e => { r with
            validDays := r.validDays + (if e.status = .valid then 1 else 0)
            invalidDays := r.invalidDays + (if e.status = .invalid then 1 else 0)
            idleDays := r.idleDays + (if e.status = .notOperating then 1 else 0)
            dayExceed := r.dayExceed + (if e.exceeded then 1 else 0) })
    ∧ t.avg = { s.avg with rows := s.avg.rows.map (fun r => { r with day := {} }) }
    ∧ t.year.minutes = s.year.minutes ∧ t.year.fstops = s.year.fstops ∧ t.year.coldFiring = s.year.coldFiring
    ∧ t.tb = s.tb ∧ t.accs = s.accs ∧ t.minutes = s.minutes ∧ t.line = s.line ∧ t.wit = s.wit
    ∧ t.supply = s.supply ∧ t.arch.flash = s.arch.flash ∧ t.arch.latest = s.arch.latest
end

