-- ==== Sys2Proof/Laws/State.lean ====
section
/-! SUPPORT. What each setter leaves in each field of the state. -/

namespace Sys2Proof.Machine

@[simp] theorem State.setSupply_supply (s : State) (x : Supply) : (s.setSupply x).supply = x := rfl
@[simp] theorem State.setSupply_cfg (s : State) (x : Supply) : (s.setSupply x).cfg = s.cfg := rfl
@[simp] theorem State.setSupply_port (s : State) (x : Supply) : (s.setSupply x).port = s.port := rfl
@[simp] theorem State.setSupply_accs (s : State) (x : Supply) : (s.setSupply x).accs = s.accs := rfl
@[simp] theorem State.setSupply_minutes (s : State) (x : Supply) : (s.setSupply x).minutes = s.minutes := rfl
@[simp] theorem State.setSupply_line (s : State) (x : Supply) : (s.setSupply x).line = s.line := rfl
@[simp] theorem State.setSupply_avg (s : State) (x : Supply) : (s.setSupply x).avg = s.avg := rfl
@[simp] theorem State.setSupply_year (s : State) (x : Supply) : (s.setSupply x).year = s.year := rfl
@[simp] theorem State.setSupply_tb (s : State) (x : Supply) : (s.setSupply x).tb = s.tb := rfl
@[simp] theorem State.setSupply_wit (s : State) (x : Supply) : (s.setSupply x).wit = s.wit := rfl
@[simp] theorem State.setSupply_arch (s : State) (x : Supply) : (s.setSupply x).arch = s.arch := rfl
@[simp] theorem State.setSupply_retr (s : State) (x : Supply) : (s.setSupply x).retr = s.retr := rfl
@[simp] theorem State.setSupply_elapsed (s : State) (x : Supply) : (s.setSupply x).elapsed = s.elapsed := rfl
@[simp] theorem State.setSupply_draws (s : State) (x : Supply) : (s.setSupply x).draws = s.draws := rfl
@[simp] theorem State.setSupply_pending (s : State) (x : Supply) : (s.setSupply x).pending = s.pending := rfl

@[simp] theorem State.setCfg_supply (s : State) (x : Settings) : (s.setCfg x).supply = s.supply := rfl
@[simp] theorem State.setCfg_cfg (s : State) (x : Settings) : (s.setCfg x).cfg = x := rfl
@[simp] theorem State.setCfg_port (s : State) (x : Settings) : (s.setCfg x).port = s.port := rfl
@[simp] theorem State.setCfg_accs (s : State) (x : Settings) : (s.setCfg x).accs = s.accs := rfl
@[simp] theorem State.setCfg_minutes (s : State) (x : Settings) : (s.setCfg x).minutes = s.minutes := rfl
@[simp] theorem State.setCfg_line (s : State) (x : Settings) : (s.setCfg x).line = s.line := rfl
@[simp] theorem State.setCfg_avg (s : State) (x : Settings) : (s.setCfg x).avg = s.avg := rfl
@[simp] theorem State.setCfg_year (s : State) (x : Settings) : (s.setCfg x).year = s.year := rfl
@[simp] theorem State.setCfg_tb (s : State) (x : Settings) : (s.setCfg x).tb = s.tb := rfl
@[simp] theorem State.setCfg_wit (s : State) (x : Settings) : (s.setCfg x).wit = s.wit := rfl
@[simp] theorem State.setCfg_arch (s : State) (x : Settings) : (s.setCfg x).arch = s.arch := rfl
@[simp] theorem State.setCfg_retr (s : State) (x : Settings) : (s.setCfg x).retr = s.retr := rfl
@[simp] theorem State.setCfg_elapsed (s : State) (x : Settings) : (s.setCfg x).elapsed = s.elapsed := rfl
@[simp] theorem State.setCfg_draws (s : State) (x : Settings) : (s.setCfg x).draws = s.draws := rfl
@[simp] theorem State.setCfg_pending (s : State) (x : Settings) : (s.setCfg x).pending = s.pending := rfl

@[simp] theorem State.setPort_supply (s : State) (x : Port) : (s.setPort x).supply = s.supply := rfl
@[simp] theorem State.setPort_cfg (s : State) (x : Port) : (s.setPort x).cfg = s.cfg := rfl
@[simp] theorem State.setPort_port (s : State) (x : Port) : (s.setPort x).port = x := rfl
@[simp] theorem State.setPort_accs (s : State) (x : Port) : (s.setPort x).accs = s.accs := rfl
@[simp] theorem State.setPort_minutes (s : State) (x : Port) : (s.setPort x).minutes = s.minutes := rfl
@[simp] theorem State.setPort_line (s : State) (x : Port) : (s.setPort x).line = s.line := rfl
@[simp] theorem State.setPort_avg (s : State) (x : Port) : (s.setPort x).avg = s.avg := rfl
@[simp] theorem State.setPort_year (s : State) (x : Port) : (s.setPort x).year = s.year := rfl
@[simp] theorem State.setPort_tb (s : State) (x : Port) : (s.setPort x).tb = s.tb := rfl
@[simp] theorem State.setPort_wit (s : State) (x : Port) : (s.setPort x).wit = s.wit := rfl
@[simp] theorem State.setPort_arch (s : State) (x : Port) : (s.setPort x).arch = s.arch := rfl
@[simp] theorem State.setPort_retr (s : State) (x : Port) : (s.setPort x).retr = s.retr := rfl
@[simp] theorem State.setPort_elapsed (s : State) (x : Port) : (s.setPort x).elapsed = s.elapsed := rfl
@[simp] theorem State.setPort_draws (s : State) (x : Port) : (s.setPort x).draws = s.draws := rfl
@[simp] theorem State.setPort_pending (s : State) (x : Port) : (s.setPort x).pending = s.pending := rfl

@[simp] theorem State.setAccs_supply (s : State) (x : List Acc) : (s.setAccs x).supply = s.supply := rfl
@[simp] theorem State.setAccs_cfg (s : State) (x : List Acc) : (s.setAccs x).cfg = s.cfg := rfl
@[simp] theorem State.setAccs_port (s : State) (x : List Acc) : (s.setAccs x).port = s.port := rfl
@[simp] theorem State.setAccs_accs (s : State) (x : List Acc) : (s.setAccs x).accs = x := rfl
@[simp] theorem State.setAccs_minutes (s : State) (x : List Acc) : (s.setAccs x).minutes = s.minutes := rfl
@[simp] theorem State.setAccs_line (s : State) (x : List Acc) : (s.setAccs x).line = s.line := rfl
@[simp] theorem State.setAccs_avg (s : State) (x : List Acc) : (s.setAccs x).avg = s.avg := rfl
@[simp] theorem State.setAccs_year (s : State) (x : List Acc) : (s.setAccs x).year = s.year := rfl
@[simp] theorem State.setAccs_tb (s : State) (x : List Acc) : (s.setAccs x).tb = s.tb := rfl
@[simp] theorem State.setAccs_wit (s : State) (x : List Acc) : (s.setAccs x).wit = s.wit := rfl
@[simp] theorem State.setAccs_arch (s : State) (x : List Acc) : (s.setAccs x).arch = s.arch := rfl
@[simp] theorem State.setAccs_retr (s : State) (x : List Acc) : (s.setAccs x).retr = s.retr := rfl
@[simp] theorem State.setAccs_elapsed (s : State) (x : List Acc) : (s.setAccs x).elapsed = s.elapsed := rfl
@[simp] theorem State.setAccs_draws (s : State) (x : List Acc) : (s.setAccs x).draws = s.draws := rfl
@[simp] theorem State.setAccs_pending (s : State) (x : List Acc) : (s.setAccs x).pending = s.pending := rfl

@[simp] theorem State.setMinutes_supply (s : State) (x : Minutes) : (s.setMinutes x).supply = s.supply := rfl
@[simp] theorem State.setMinutes_cfg (s : State) (x : Minutes) : (s.setMinutes x).cfg = s.cfg := rfl
@[simp] theorem State.setMinutes_port (s : State) (x : Minutes) : (s.setMinutes x).port = s.port := rfl
@[simp] theorem State.setMinutes_accs (s : State) (x : Minutes) : (s.setMinutes x).accs = s.accs := rfl
@[simp] theorem State.setMinutes_minutes (s : State) (x : Minutes) : (s.setMinutes x).minutes = x := rfl
@[simp] theorem State.setMinutes_line (s : State) (x : Minutes) : (s.setMinutes x).line = s.line := rfl
@[simp] theorem State.setMinutes_avg (s : State) (x : Minutes) : (s.setMinutes x).avg = s.avg := rfl
@[simp] theorem State.setMinutes_year (s : State) (x : Minutes) : (s.setMinutes x).year = s.year := rfl
@[simp] theorem State.setMinutes_tb (s : State) (x : Minutes) : (s.setMinutes x).tb = s.tb := rfl
@[simp] theorem State.setMinutes_wit (s : State) (x : Minutes) : (s.setMinutes x).wit = s.wit := rfl
@[simp] theorem State.setMinutes_arch (s : State) (x : Minutes) : (s.setMinutes x).arch = s.arch := rfl
@[simp] theorem State.setMinutes_retr (s : State) (x : Minutes) : (s.setMinutes x).retr = s.retr := rfl
@[simp] theorem State.setMinutes_elapsed (s : State) (x : Minutes) : (s.setMinutes x).elapsed = s.elapsed := rfl
@[simp] theorem State.setMinutes_draws (s : State) (x : Minutes) : (s.setMinutes x).draws = s.draws := rfl
@[simp] theorem State.setMinutes_pending (s : State) (x : Minutes) : (s.setMinutes x).pending = s.pending := rfl

@[simp] theorem State.setLine_supply (s : State) (x : LineAccount) : (s.setLine x).supply = s.supply := rfl
@[simp] theorem State.setLine_cfg (s : State) (x : LineAccount) : (s.setLine x).cfg = s.cfg := rfl
@[simp] theorem State.setLine_port (s : State) (x : LineAccount) : (s.setLine x).port = s.port := rfl
@[simp] theorem State.setLine_accs (s : State) (x : LineAccount) : (s.setLine x).accs = s.accs := rfl
@[simp] theorem State.setLine_minutes (s : State) (x : LineAccount) : (s.setLine x).minutes = s.minutes := rfl
@[simp] theorem State.setLine_line (s : State) (x : LineAccount) : (s.setLine x).line = x := rfl
@[simp] theorem State.setLine_avg (s : State) (x : LineAccount) : (s.setLine x).avg = s.avg := rfl
@[simp] theorem State.setLine_year (s : State) (x : LineAccount) : (s.setLine x).year = s.year := rfl
@[simp] theorem State.setLine_tb (s : State) (x : LineAccount) : (s.setLine x).tb = s.tb := rfl
@[simp] theorem State.setLine_wit (s : State) (x : LineAccount) : (s.setLine x).wit = s.wit := rfl
@[simp] theorem State.setLine_arch (s : State) (x : LineAccount) : (s.setLine x).arch = s.arch := rfl
@[simp] theorem State.setLine_retr (s : State) (x : LineAccount) : (s.setLine x).retr = s.retr := rfl
@[simp] theorem State.setLine_elapsed (s : State) (x : LineAccount) : (s.setLine x).elapsed = s.elapsed := rfl
@[simp] theorem State.setLine_draws (s : State) (x : LineAccount) : (s.setLine x).draws = s.draws := rfl
@[simp] theorem State.setLine_pending (s : State) (x : LineAccount) : (s.setLine x).pending = s.pending := rfl

@[simp] theorem State.setAvg_supply (s : State) (x : Averaging) : (s.setAvg x).supply = s.supply := rfl
@[simp] theorem State.setAvg_cfg (s : State) (x : Averaging) : (s.setAvg x).cfg = s.cfg := rfl
@[simp] theorem State.setAvg_port (s : State) (x : Averaging) : (s.setAvg x).port = s.port := rfl
@[simp] theorem State.setAvg_accs (s : State) (x : Averaging) : (s.setAvg x).accs = s.accs := rfl
@[simp] theorem State.setAvg_minutes (s : State) (x : Averaging) : (s.setAvg x).minutes = s.minutes := rfl
@[simp] theorem State.setAvg_line (s : State) (x : Averaging) : (s.setAvg x).line = s.line := rfl
@[simp] theorem State.setAvg_avg (s : State) (x : Averaging) : (s.setAvg x).avg = x := rfl
@[simp] theorem State.setAvg_year (s : State) (x : Averaging) : (s.setAvg x).year = s.year := rfl
@[simp] theorem State.setAvg_tb (s : State) (x : Averaging) : (s.setAvg x).tb = s.tb := rfl
@[simp] theorem State.setAvg_wit (s : State) (x : Averaging) : (s.setAvg x).wit = s.wit := rfl
@[simp] theorem State.setAvg_arch (s : State) (x : Averaging) : (s.setAvg x).arch = s.arch := rfl
@[simp] theorem State.setAvg_retr (s : State) (x : Averaging) : (s.setAvg x).retr = s.retr := rfl
@[simp] theorem State.setAvg_elapsed (s : State) (x : Averaging) : (s.setAvg x).elapsed = s.elapsed := rfl
@[simp] theorem State.setAvg_draws (s : State) (x : Averaging) : (s.setAvg x).draws = s.draws := rfl
@[simp] theorem State.setAvg_pending (s : State) (x : Averaging) : (s.setAvg x).pending = s.pending := rfl

@[simp] theorem State.setYear_supply (s : State) (x : YearUnit) : (s.setYear x).supply = s.supply := rfl
@[simp] theorem State.setYear_cfg (s : State) (x : YearUnit) : (s.setYear x).cfg = s.cfg := rfl
@[simp] theorem State.setYear_port (s : State) (x : YearUnit) : (s.setYear x).port = s.port := rfl
@[simp] theorem State.setYear_accs (s : State) (x : YearUnit) : (s.setYear x).accs = s.accs := rfl
@[simp] theorem State.setYear_minutes (s : State) (x : YearUnit) : (s.setYear x).minutes = s.minutes := rfl
@[simp] theorem State.setYear_line (s : State) (x : YearUnit) : (s.setYear x).line = s.line := rfl
@[simp] theorem State.setYear_avg (s : State) (x : YearUnit) : (s.setYear x).avg = s.avg := rfl
@[simp] theorem State.setYear_year (s : State) (x : YearUnit) : (s.setYear x).year = x := rfl
@[simp] theorem State.setYear_tb (s : State) (x : YearUnit) : (s.setYear x).tb = s.tb := rfl
@[simp] theorem State.setYear_wit (s : State) (x : YearUnit) : (s.setYear x).wit = s.wit := rfl
@[simp] theorem State.setYear_arch (s : State) (x : YearUnit) : (s.setYear x).arch = s.arch := rfl
@[simp] theorem State.setYear_retr (s : State) (x : YearUnit) : (s.setYear x).retr = s.retr := rfl
@[simp] theorem State.setYear_elapsed (s : State) (x : YearUnit) : (s.setYear x).elapsed = s.elapsed := rfl
@[simp] theorem State.setYear_draws (s : State) (x : YearUnit) : (s.setYear x).draws = s.draws := rfl
@[simp] theorem State.setYear_pending (s : State) (x : YearUnit) : (s.setYear x).pending = s.pending := rfl

@[simp] theorem State.setTb_supply (s : State) (x : Timebase) : (s.setTb x).supply = s.supply := rfl
@[simp] theorem State.setTb_cfg (s : State) (x : Timebase) : (s.setTb x).cfg = s.cfg := rfl
@[simp] theorem State.setTb_port (s : State) (x : Timebase) : (s.setTb x).port = s.port := rfl
@[simp] theorem State.setTb_accs (s : State) (x : Timebase) : (s.setTb x).accs = s.accs := rfl
@[simp] theorem State.setTb_minutes (s : State) (x : Timebase) : (s.setTb x).minutes = s.minutes := rfl
@[simp] theorem State.setTb_line (s : State) (x : Timebase) : (s.setTb x).line = s.line := rfl
@[simp] theorem State.setTb_avg (s : State) (x : Timebase) : (s.setTb x).avg = s.avg := rfl
@[simp] theorem State.setTb_year (s : State) (x : Timebase) : (s.setTb x).year = s.year := rfl
@[simp] theorem State.setTb_tb (s : State) (x : Timebase) : (s.setTb x).tb = x := rfl
@[simp] theorem State.setTb_wit (s : State) (x : Timebase) : (s.setTb x).wit = s.wit := rfl
@[simp] theorem State.setTb_arch (s : State) (x : Timebase) : (s.setTb x).arch = s.arch := rfl
@[simp] theorem State.setTb_retr (s : State) (x : Timebase) : (s.setTb x).retr = s.retr := rfl
@[simp] theorem State.setTb_elapsed (s : State) (x : Timebase) : (s.setTb x).elapsed = s.elapsed := rfl
@[simp] theorem State.setTb_draws (s : State) (x : Timebase) : (s.setTb x).draws = s.draws := rfl
@[simp] theorem State.setTb_pending (s : State) (x : Timebase) : (s.setTb x).pending = s.pending := rfl

@[simp] theorem State.setWit_supply (s : State) (x : Witness) : (s.setWit x).supply = s.supply := rfl
@[simp] theorem State.setWit_cfg (s : State) (x : Witness) : (s.setWit x).cfg = s.cfg := rfl
@[simp] theorem State.setWit_port (s : State) (x : Witness) : (s.setWit x).port = s.port := rfl
@[simp] theorem State.setWit_accs (s : State) (x : Witness) : (s.setWit x).accs = s.accs := rfl
@[simp] theorem State.setWit_minutes (s : State) (x : Witness) : (s.setWit x).minutes = s.minutes := rfl
@[simp] theorem State.setWit_line (s : State) (x : Witness) : (s.setWit x).line = s.line := rfl
@[simp] theorem State.setWit_avg (s : State) (x : Witness) : (s.setWit x).avg = s.avg := rfl
@[simp] theorem State.setWit_year (s : State) (x : Witness) : (s.setWit x).year = s.year := rfl
@[simp] theorem State.setWit_tb (s : State) (x : Witness) : (s.setWit x).tb = s.tb := rfl
@[simp] theorem State.setWit_wit (s : State) (x : Witness) : (s.setWit x).wit = x := rfl
@[simp] theorem State.setWit_arch (s : State) (x : Witness) : (s.setWit x).arch = s.arch := rfl
@[simp] theorem State.setWit_retr (s : State) (x : Witness) : (s.setWit x).retr = s.retr := rfl
@[simp] theorem State.setWit_elapsed (s : State) (x : Witness) : (s.setWit x).elapsed = s.elapsed := rfl
@[simp] theorem State.setWit_draws (s : State) (x : Witness) : (s.setWit x).draws = s.draws := rfl
@[simp] theorem State.setWit_pending (s : State) (x : Witness) : (s.setWit x).pending = s.pending := rfl

@[simp] theorem State.setArch_supply (s : State) (x : Archive) : (s.setArch x).supply = s.supply := rfl
@[simp] theorem State.setArch_cfg (s : State) (x : Archive) : (s.setArch x).cfg = s.cfg := rfl
@[simp] theorem State.setArch_port (s : State) (x : Archive) : (s.setArch x).port = s.port := rfl
@[simp] theorem State.setArch_accs (s : State) (x : Archive) : (s.setArch x).accs = s.accs := rfl
@[simp] theorem State.setArch_minutes (s : State) (x : Archive) : (s.setArch x).minutes = s.minutes := rfl
@[simp] theorem State.setArch_line (s : State) (x : Archive) : (s.setArch x).line = s.line := rfl
@[simp] theorem State.setArch_avg (s : State) (x : Archive) : (s.setArch x).avg = s.avg := rfl
@[simp] theorem State.setArch_year (s : State) (x : Archive) : (s.setArch x).year = s.year := rfl
@[simp] theorem State.setArch_tb (s : State) (x : Archive) : (s.setArch x).tb = s.tb := rfl
@[simp] theorem State.setArch_wit (s : State) (x : Archive) : (s.setArch x).wit = s.wit := rfl
@[simp] theorem State.setArch_arch (s : State) (x : Archive) : (s.setArch x).arch = x := rfl
@[simp] theorem State.setArch_retr (s : State) (x : Archive) : (s.setArch x).retr = s.retr := rfl
@[simp] theorem State.setArch_elapsed (s : State) (x : Archive) : (s.setArch x).elapsed = s.elapsed := rfl
@[simp] theorem State.setArch_draws (s : State) (x : Archive) : (s.setArch x).draws = s.draws := rfl
@[simp] theorem State.setArch_pending (s : State) (x : Archive) : (s.setArch x).pending = s.pending := rfl

@[simp] theorem State.setRetr_supply (s : State) (x : Retrieval) : (s.setRetr x).supply = s.supply := rfl
@[simp] theorem State.setRetr_cfg (s : State) (x : Retrieval) : (s.setRetr x).cfg = s.cfg := rfl
@[simp] theorem State.setRetr_port (s : State) (x : Retrieval) : (s.setRetr x).port = s.port := rfl
@[simp] theorem State.setRetr_accs (s : State) (x : Retrieval) : (s.setRetr x).accs = s.accs := rfl
@[simp] theorem State.setRetr_minutes (s : State) (x : Retrieval) : (s.setRetr x).minutes = s.minutes := rfl
@[simp] theorem State.setRetr_line (s : State) (x : Retrieval) : (s.setRetr x).line = s.line := rfl
@[simp] theorem State.setRetr_avg (s : State) (x : Retrieval) : (s.setRetr x).avg = s.avg := rfl
@[simp] theorem State.setRetr_year (s : State) (x : Retrieval) : (s.setRetr x).year = s.year := rfl
@[simp] theorem State.setRetr_tb (s : State) (x : Retrieval) : (s.setRetr x).tb = s.tb := rfl
@[simp] theorem State.setRetr_wit (s : State) (x : Retrieval) : (s.setRetr x).wit = s.wit := rfl
@[simp] theorem State.setRetr_arch (s : State) (x : Retrieval) : (s.setRetr x).arch = s.arch := rfl
@[simp] theorem State.setRetr_retr (s : State) (x : Retrieval) : (s.setRetr x).retr = x := rfl
@[simp] theorem State.setRetr_elapsed (s : State) (x : Retrieval) : (s.setRetr x).elapsed = s.elapsed := rfl
@[simp] theorem State.setRetr_draws (s : State) (x : Retrieval) : (s.setRetr x).draws = s.draws := rfl
@[simp] theorem State.setRetr_pending (s : State) (x : Retrieval) : (s.setRetr x).pending = s.pending := rfl

@[simp] theorem State.setElapsed_supply (s : State) (x : Nat) : (s.setElapsed x).supply = s.supply := rfl
@[simp] theorem State.setElapsed_cfg (s : State) (x : Nat) : (s.setElapsed x).cfg = s.cfg := rfl
@[simp] theorem State.setElapsed_port (s : State) (x : Nat) : (s.setElapsed x).port = s.port := rfl
@[simp] theorem State.setElapsed_accs (s : State) (x : Nat) : (s.setElapsed x).accs = s.accs := rfl
@[simp] theorem State.setElapsed_minutes (s : State) (x : Nat) : (s.setElapsed x).minutes = s.minutes := rfl
@[simp] theorem State.setElapsed_line (s : State) (x : Nat) : (s.setElapsed x).line = s.line := rfl
@[simp] theorem State.setElapsed_avg (s : State) (x : Nat) : (s.setElapsed x).avg = s.avg := rfl
@[simp] theorem State.setElapsed_year (s : State) (x : Nat) : (s.setElapsed x).year = s.year := rfl
@[simp] theorem State.setElapsed_tb (s : State) (x : Nat) : (s.setElapsed x).tb = s.tb := rfl
@[simp] theorem State.setElapsed_wit (s : State) (x : Nat) : (s.setElapsed x).wit = s.wit := rfl
@[simp] theorem State.setElapsed_arch (s : State) (x : Nat) : (s.setElapsed x).arch = s.arch := rfl
@[simp] theorem State.setElapsed_retr (s : State) (x : Nat) : (s.setElapsed x).retr = s.retr := rfl
@[simp] theorem State.setElapsed_elapsed (s : State) (x : Nat) : (s.setElapsed x).elapsed = x := rfl
@[simp] theorem State.setElapsed_draws (s : State) (x : Nat) : (s.setElapsed x).draws = s.draws := rfl
@[simp] theorem State.setElapsed_pending (s : State) (x : Nat) : (s.setElapsed x).pending = s.pending := rfl

@[simp] theorem State.setDraws_supply (s : State) (x : Nat) : (s.setDraws x).supply = s.supply := rfl
@[simp] theorem State.setDraws_cfg (s : State) (x : Nat) : (s.setDraws x).cfg = s.cfg := rfl
@[simp] theorem State.setDraws_port (s : State) (x : Nat) : (s.setDraws x).port = s.port := rfl
@[simp] theorem State.setDraws_accs (s : State) (x : Nat) : (s.setDraws x).accs = s.accs := rfl
@[simp] theorem State.setDraws_minutes (s : State) (x : Nat) : (s.setDraws x).minutes = s.minutes := rfl
@[simp] theorem State.setDraws_line (s : State) (x : Nat) : (s.setDraws x).line = s.line := rfl
@[simp] theorem State.setDraws_avg (s : State) (x : Nat) : (s.setDraws x).avg = s.avg := rfl
@[simp] theorem State.setDraws_year (s : State) (x : Nat) : (s.setDraws x).year = s.year := rfl
@[simp] theorem State.setDraws_tb (s : State) (x : Nat) : (s.setDraws x).tb = s.tb := rfl
@[simp] theorem State.setDraws_wit (s : State) (x : Nat) : (s.setDraws x).wit = s.wit := rfl
@[simp] theorem State.setDraws_arch (s : State) (x : Nat) : (s.setDraws x).arch = s.arch := rfl
@[simp] theorem State.setDraws_retr (s : State) (x : Nat) : (s.setDraws x).retr = s.retr := rfl
@[simp] theorem State.setDraws_elapsed (s : State) (x : Nat) : (s.setDraws x).elapsed = s.elapsed := rfl
@[simp] theorem State.setDraws_draws (s : State) (x : Nat) : (s.setDraws x).draws = x := rfl
@[simp] theorem State.setDraws_pending (s : State) (x : Nat) : (s.setDraws x).pending = s.pending := rfl

@[simp] theorem State.setPending_supply (s : State) (x : List Instr) : (s.setPending x).supply = s.supply := rfl
@[simp] theorem State.setPending_cfg (s : State) (x : List Instr) : (s.setPending x).cfg = s.cfg := rfl
@[simp] theorem State.setPending_port (s : State) (x : List Instr) : (s.setPending x).port = s.port := rfl
@[simp] theorem State.setPending_accs (s : State) (x : List Instr) : (s.setPending x).accs = s.accs := rfl
@[simp] theorem State.setPending_minutes (s : State) (x : List Instr) : (s.setPending x).minutes = s.minutes := rfl
@[simp] theorem State.setPending_line (s : State) (x : List Instr) : (s.setPending x).line = s.line := rfl
@[simp] theorem State.setPending_avg (s : State) (x : List Instr) : (s.setPending x).avg = s.avg := rfl
@[simp] theorem State.setPending_year (s : State) (x : List Instr) : (s.setPending x).year = s.year := rfl
@[simp] theorem State.setPending_tb (s : State) (x : List Instr) : (s.setPending x).tb = s.tb := rfl
@[simp] theorem State.setPending_wit (s : State) (x : List Instr) : (s.setPending x).wit = s.wit := rfl
@[simp] theorem State.setPending_arch (s : State) (x : List Instr) : (s.setPending x).arch = s.arch := rfl
@[simp] theorem State.setPending_retr (s : State) (x : List Instr) : (s.setPending x).retr = s.retr := rfl
@[simp] theorem State.setPending_elapsed (s : State) (x : List Instr) : (s.setPending x).elapsed = s.elapsed := rfl
@[simp] theorem State.setPending_draws (s : State) (x : List Instr) : (s.setPending x).draws = s.draws := rfl
@[simp] theorem State.setPending_pending (s : State) (x : List Instr) : (s.setPending x).pending = x := rfl

end Sys2Proof.Machine
end

