-- ==== Sys2Proof/Laws/Frames.lean ====
section
/-! SUPPORT. Which blocks of the state each shared operation leaves alone: one frame for each operation. -/

namespace Sys2Proof.Machine

@[simp] theorem countUp_frame (k : Counter) (n : Nat) (s : State) :
    (countUp k n s).supply = s.supply ∧ (countUp k n s).cfg = s.cfg ∧ (countUp k n s).port = s.port
    ∧ (countUp k n s).accs = s.accs ∧ (countUp k n s).minutes = s.minutes ∧ (countUp k n s).line = s.line
    ∧ (countUp k n s).avg = s.avg ∧ (countUp k n s).tb = s.tb ∧ (countUp k n s).wit = s.wit
    ∧ (countUp k n s).arch = s.arch ∧ (countUp k n s).retr = s.retr ∧ (countUp k n s).elapsed = s.elapsed
    ∧ (countUp k n s).draws = s.draws ∧ (countUp k n s).pending = s.pending := by
  simp [countUp]

@[simp] theorem raiseCause_frame (c : Cause) (s : State) :
    (raiseCause c s).supply = s.supply ∧ (raiseCause c s).cfg = s.cfg ∧ (raiseCause c s).port = s.port
    ∧ (raiseCause c s).accs = s.accs ∧ (raiseCause c s).minutes = s.minutes ∧ (raiseCause c s).line = s.line
    ∧ (raiseCause c s).avg = s.avg ∧ (raiseCause c s).year = s.year ∧ (raiseCause c s).tb = s.tb
    ∧ (raiseCause c s).wit = s.wit ∧ (raiseCause c s).arch = s.arch ∧ (raiseCause c s).elapsed = s.elapsed
    ∧ (raiseCause c s).draws = s.draws ∧ (raiseCause c s).pending = s.pending := by
  simp [raiseCause]

@[simp] theorem raiseIf_frame (b : Bool) (c : Cause) (s : State) :
    (raiseIf b c s).supply = s.supply ∧ (raiseIf b c s).cfg = s.cfg ∧ (raiseIf b c s).port = s.port
    ∧ (raiseIf b c s).accs = s.accs ∧ (raiseIf b c s).minutes = s.minutes ∧ (raiseIf b c s).line = s.line
    ∧ (raiseIf b c s).avg = s.avg ∧ (raiseIf b c s).year = s.year ∧ (raiseIf b c s).tb = s.tb
    ∧ (raiseIf b c s).wit = s.wit ∧ (raiseIf b c s).arch = s.arch ∧ (raiseIf b c s).elapsed = s.elapsed
    ∧ (raiseIf b c s).draws = s.draws ∧ (raiseIf b c s).pending = s.pending := by
  unfold raiseIf; (repeat' split) <;> simp

@[simp] theorem nextTicket_frame (s : State) :
    (nextTicket s).supply = s.supply ∧ (nextTicket s).cfg = s.cfg ∧ (nextTicket s).accs = s.accs
    ∧ (nextTicket s).minutes = s.minutes ∧ (nextTicket s).line = s.line ∧ (nextTicket s).avg = s.avg
    ∧ (nextTicket s).year = s.year ∧ (nextTicket s).tb = s.tb ∧ (nextTicket s).wit = s.wit
    ∧ (nextTicket s).arch = s.arch ∧ (nextTicket s).retr = s.retr ∧ (nextTicket s).elapsed = s.elapsed
    ∧ (nextTicket s).draws = s.draws ∧ (nextTicket s).pending = s.pending := by
  simp [nextTicket]

@[simp] theorem setRing_frame (a : Area) (r : Ring) (s : State) :
    (setRing a r s).supply = s.supply ∧ (setRing a r s).cfg = s.cfg ∧ (setRing a r s).port = s.port
    ∧ (setRing a r s).accs = s.accs ∧ (setRing a r s).minutes = s.minutes ∧ (setRing a r s).line = s.line
    ∧ (setRing a r s).avg = s.avg ∧ (setRing a r s).year = s.year ∧ (setRing a r s).tb = s.tb
    ∧ (setRing a r s).wit = s.wit ∧ (setRing a r s).retr = s.retr ∧ (setRing a r s).elapsed = s.elapsed
    ∧ (setRing a r s).draws = s.draws ∧ (setRing a r s).pending = s.pending := by
  cases a <;> simp [setRing]

@[simp] theorem noteBroken_frame (a : Area) (k : Nat) (s : State) :
    (noteBroken a k s).supply = s.supply ∧ (noteBroken a k s).cfg = s.cfg ∧ (noteBroken a k s).port = s.port
    ∧ (noteBroken a k s).accs = s.accs ∧ (noteBroken a k s).minutes = s.minutes ∧ (noteBroken a k s).line = s.line
    ∧ (noteBroken a k s).avg = s.avg ∧ (noteBroken a k s).year = s.year ∧ (noteBroken a k s).tb = s.tb
    ∧ (noteBroken a k s).wit = s.wit ∧ (noteBroken a k s).retr = s.retr ∧ (noteBroken a k s).elapsed = s.elapsed
    ∧ (noteBroken a k s).draws = s.draws ∧ (noteBroken a k s).pending = s.pending := by
  simp [noteBroken]

@[simp] theorem setFlash_frame (m : Memory) (s : State) :
    (setFlash m s).supply = s.supply ∧ (setFlash m s).cfg = s.cfg ∧ (setFlash m s).port = s.port
    ∧ (setFlash m s).accs = s.accs ∧ (setFlash m s).minutes = s.minutes ∧ (setFlash m s).line = s.line
    ∧ (setFlash m s).avg = s.avg ∧ (setFlash m s).year = s.year ∧ (setFlash m s).tb = s.tb
    ∧ (setFlash m s).wit = s.wit ∧ (setFlash m s).retr = s.retr ∧ (setFlash m s).elapsed = s.elapsed
    ∧ (setFlash m s).draws = s.draws ∧ (setFlash m s).pending = s.pending := by
  simp [setFlash]

@[simp] theorem setOp_frame (o : FlashOp) (s : State) :
    (setOp o s).supply = s.supply ∧ (setOp o s).cfg = s.cfg ∧ (setOp o s).port = s.port ∧ (setOp o s).accs = s.accs
    ∧ (setOp o s).minutes = s.minutes ∧ (setOp o s).line = s.line ∧ (setOp o s).avg = s.avg
    ∧ (setOp o s).year = s.year ∧ (setOp o s).tb = s.tb ∧ (setOp o s).wit = s.wit ∧ (setOp o s).retr = s.retr
    ∧ (setOp o s).elapsed = s.elapsed ∧ (setOp o s).draws = s.draws ∧ (setOp o s).pending = s.pending := by
  simp [setOp]

@[simp] theorem setOrigin_frame (o : Origin) (s : State) :
    (setOrigin o s).supply = s.supply ∧ (setOrigin o s).cfg = s.cfg ∧ (setOrigin o s).port = s.port
    ∧ (setOrigin o s).accs = s.accs ∧ (setOrigin o s).minutes = s.minutes ∧ (setOrigin o s).line = s.line
    ∧ (setOrigin o s).avg = s.avg ∧ (setOrigin o s).year = s.year ∧ (setOrigin o s).tb = s.tb
    ∧ (setOrigin o s).arch = s.arch ∧ (setOrigin o s).retr = s.retr ∧ (setOrigin o s).elapsed = s.elapsed
    ∧ (setOrigin o s).draws = s.draws ∧ (setOrigin o s).pending = s.pending := by
  simp [setOrigin]

@[simp] theorem retentionTest_frame (s : State) :
    (retentionTest s).supply = s.supply ∧ (retentionTest s).cfg = s.cfg ∧ (retentionTest s).port = s.port
    ∧ (retentionTest s).accs = s.accs ∧ (retentionTest s).minutes = s.minutes ∧ (retentionTest s).line = s.line
    ∧ (retentionTest s).avg = s.avg ∧ (retentionTest s).year = s.year ∧ (retentionTest s).tb = s.tb
    ∧ (retentionTest s).wit = s.wit ∧ (retentionTest s).elapsed = s.elapsed ∧ (retentionTest s).draws = s.draws
    ∧ (retentionTest s).pending = s.pending := by
  unfold retentionTest; (repeat' split) <;> simp

@[simp] theorem enterFault_frame (s : State) :
    (enterFault s).supply = s.supply ∧ (enterFault s).cfg = s.cfg ∧ (enterFault s).port = s.port
    ∧ (enterFault s).accs = s.accs ∧ (enterFault s).minutes = s.minutes ∧ (enterFault s).line = s.line
    ∧ (enterFault s).avg = s.avg ∧ (enterFault s).year = s.year ∧ (enterFault s).tb = s.tb
    ∧ (enterFault s).wit = s.wit ∧ (enterFault s).elapsed = s.elapsed ∧ (enterFault s).draws = s.draws
    ∧ (enterFault s).pending = s.pending := by
  unfold enterFault; (repeat' split) <;> simp

@[simp] theorem renewRelease_frame (s : State) :
    (renewRelease s).supply = s.supply ∧ (renewRelease s).cfg = s.cfg ∧ (renewRelease s).accs = s.accs
    ∧ (renewRelease s).minutes = s.minutes ∧ (renewRelease s).line = s.line ∧ (renewRelease s).avg = s.avg
    ∧ (renewRelease s).year = s.year ∧ (renewRelease s).tb = s.tb ∧ (renewRelease s).wit = s.wit
    ∧ (renewRelease s).retr = s.retr ∧ (renewRelease s).elapsed = s.elapsed ∧ (renewRelease s).draws = s.draws
    ∧ (renewRelease s).pending = s.pending := by
  unfold renewRelease; (repeat' split) <;> simp

@[simp] theorem makeRoom_frame (s : State) :
    (makeRoom s).supply = s.supply ∧ (makeRoom s).cfg = s.cfg ∧ (makeRoom s).accs = s.accs
    ∧ (makeRoom s).minutes = s.minutes ∧ (makeRoom s).line = s.line ∧ (makeRoom s).avg = s.avg
    ∧ (makeRoom s).tb = s.tb ∧ (makeRoom s).wit = s.wit ∧ (makeRoom s).elapsed = s.elapsed
    ∧ (makeRoom s).draws = s.draws ∧ (makeRoom s).pending = s.pending := by
  unfold makeRoom; (repeat' split) <;> simp

@[simp] theorem appendRecord_frame (k : RecordKind) (start : Nat) (b : List Byte) (s : State) :
    (appendRecord k start b s).supply = s.supply ∧ (appendRecord k start b s).cfg = s.cfg
    ∧ (appendRecord k start b s).accs = s.accs ∧ (appendRecord k start b s).minutes = s.minutes
    ∧ (appendRecord k start b s).line = s.line ∧ (appendRecord k start b s).avg = s.avg
    ∧ (appendRecord k start b s).tb = s.tb ∧ (appendRecord k start b s).wit = s.wit
    ∧ (appendRecord k start b s).elapsed = s.elapsed ∧ (appendRecord k start b s).draws = s.draws
    ∧ (appendRecord k start b s).pending = s.pending := by
  unfold appendRecord; (repeat' split) <;> simp

@[simp] theorem startOwnProgram_frame (s : State) :
    (startOwnProgram s).supply = s.supply ∧ (startOwnProgram s).cfg = s.cfg ∧ (startOwnProgram s).port = s.port
    ∧ (startOwnProgram s).accs = s.accs ∧ (startOwnProgram s).minutes = s.minutes ∧ (startOwnProgram s).line = s.line
    ∧ (startOwnProgram s).avg = s.avg ∧ (startOwnProgram s).year = s.year ∧ (startOwnProgram s).tb = s.tb
    ∧ (startOwnProgram s).wit = s.wit ∧ (startOwnProgram s).retr = s.retr ∧ (startOwnProgram s).elapsed = s.elapsed
    ∧ (startOwnProgram s).draws = s.draws ∧ (startOwnProgram s).pending = s.pending := by
  unfold startOwnProgram; (repeat' split) <;> simp

@[simp] theorem startWitnessWork_frame (s : State) :
    (startWitnessWork s).supply = s.supply ∧ (startWitnessWork s).cfg = s.cfg ∧ (startWitnessWork s).port = s.port
    ∧ (startWitnessWork s).accs = s.accs ∧ (startWitnessWork s).minutes = s.minutes
    ∧ (startWitnessWork s).line = s.line ∧ (startWitnessWork s).avg = s.avg ∧ (startWitnessWork s).year = s.year
    ∧ (startWitnessWork s).tb = s.tb ∧ (startWitnessWork s).wit = s.wit ∧ (startWitnessWork s).retr = s.retr
    ∧ (startWitnessWork s).elapsed = s.elapsed ∧ (startWitnessWork s).draws = s.draws
    ∧ (startWitnessWork s).pending = s.pending := by
  simp only [startWitnessWork]; split <;> simp

@[simp] theorem startByOrder_frame (s : State) :
    (startByOrder s).supply = s.supply ∧ (startByOrder s).cfg = s.cfg ∧ (startByOrder s).port = s.port
    ∧ (startByOrder s).accs = s.accs ∧ (startByOrder s).minutes = s.minutes ∧ (startByOrder s).line = s.line
    ∧ (startByOrder s).avg = s.avg ∧ (startByOrder s).year = s.year ∧ (startByOrder s).tb = s.tb
    ∧ (startByOrder s).wit = s.wit ∧ (startByOrder s).retr = s.retr ∧ (startByOrder s).elapsed = s.elapsed
    ∧ (startByOrder s).draws = s.draws ∧ (startByOrder s).pending = s.pending := by
  unfold startByOrder; (repeat' split) <;> simp

@[simp] theorem startErase_frame (a : Area) (k : Nat) (s : State) :
    (startErase a k s).supply = s.supply ∧ (startErase a k s).cfg = s.cfg ∧ (startErase a k s).port = s.port
    ∧ (startErase a k s).accs = s.accs ∧ (startErase a k s).minutes = s.minutes ∧ (startErase a k s).line = s.line
    ∧ (startErase a k s).avg = s.avg ∧ (startErase a k s).year = s.year ∧ (startErase a k s).tb = s.tb
    ∧ (startErase a k s).wit = s.wit ∧ (startErase a k s).retr = s.retr ∧ (startErase a k s).elapsed = s.elapsed
    ∧ (startErase a k s).draws = s.draws ∧ (startErase a k s).pending = s.pending := by
  simp [startErase]

@[simp] theorem startOperation_frame (s : State) :
    (startOperation s).supply = s.supply ∧ (startOperation s).cfg = s.cfg ∧ (startOperation s).port = s.port
    ∧ (startOperation s).accs = s.accs ∧ (startOperation s).minutes = s.minutes ∧ (startOperation s).line = s.line
    ∧ (startOperation s).avg = s.avg ∧ (startOperation s).year = s.year ∧ (startOperation s).tb = s.tb
    ∧ (startOperation s).wit = s.wit ∧ (startOperation s).retr = s.retr ∧ (startOperation s).elapsed = s.elapsed
    ∧ (startOperation s).draws = s.draws ∧ (startOperation s).pending = s.pending := by
  unfold startOperation; split
  · simp
  · dsimp only; split <;> simp

@[simp] theorem programPage_frame (p : Nat) (b : List Byte) (good : Bool) (s : State) :
    (programPage p b good s).supply = s.supply ∧ (programPage p b good s).cfg = s.cfg
    ∧ (programPage p b good s).port = s.port ∧ (programPage p b good s).accs = s.accs
    ∧ (programPage p b good s).minutes = s.minutes ∧ (programPage p b good s).line = s.line
    ∧ (programPage p b good s).avg = s.avg ∧ (programPage p b good s).year = s.year
    ∧ (programPage p b good s).tb = s.tb ∧ (programPage p b good s).wit = s.wit
    ∧ (programPage p b good s).retr = s.retr ∧ (programPage p b good s).elapsed = s.elapsed
    ∧ (programPage p b good s).pending = s.pending := by
  unfold programPage; (repeat' split) <;> simp

@[simp] theorem putSector_frame (p : Nat) (b : List Byte) (s : State) :
    (putSector p b s).supply = s.supply ∧ (putSector p b s).cfg = s.cfg ∧ (putSector p b s).port = s.port
    ∧ (putSector p b s).accs = s.accs ∧ (putSector p b s).minutes = s.minutes ∧ (putSector p b s).line = s.line
    ∧ (putSector p b s).avg = s.avg ∧ (putSector p b s).year = s.year ∧ (putSector p b s).tb = s.tb
    ∧ (putSector p b s).wit = s.wit ∧ (putSector p b s).retr = s.retr ∧ (putSector p b s).elapsed = s.elapsed
    ∧ (putSector p b s).draws = s.draws ∧ (putSector p b s).pending = s.pending := by
  simp [putSector]

@[simp] theorem eraseSector_frame (p : Nat) (s : State) :
    (eraseSector p s).supply = s.supply ∧ (eraseSector p s).cfg = s.cfg ∧ (eraseSector p s).port = s.port
    ∧ (eraseSector p s).accs = s.accs ∧ (eraseSector p s).minutes = s.minutes ∧ (eraseSector p s).line = s.line
    ∧ (eraseSector p s).avg = s.avg ∧ (eraseSector p s).year = s.year ∧ (eraseSector p s).tb = s.tb
    ∧ (eraseSector p s).wit = s.wit ∧ (eraseSector p s).retr = s.retr ∧ (eraseSector p s).elapsed = s.elapsed
    ∧ (eraseSector p s).draws = s.draws ∧ (eraseSector p s).pending = s.pending := by
  simp [eraseSector]

@[simp] theorem abandonErase_frame (p : Nat) (s : State) :
    (abandonErase p s).supply = s.supply ∧ (abandonErase p s).cfg = s.cfg ∧ (abandonErase p s).port = s.port
    ∧ (abandonErase p s).accs = s.accs ∧ (abandonErase p s).minutes = s.minutes ∧ (abandonErase p s).line = s.line
    ∧ (abandonErase p s).avg = s.avg ∧ (abandonErase p s).year = s.year ∧ (abandonErase p s).tb = s.tb
    ∧ (abandonErase p s).wit = s.wit ∧ (abandonErase p s).retr = s.retr ∧ (abandonErase p s).elapsed = s.elapsed
    ∧ (abandonErase p s).pending = s.pending := by
  simp [abandonErase]

@[simp] theorem failErase_frame (p : Nat) (s : State) :
    (failErase p s).supply = s.supply ∧ (failErase p s).cfg = s.cfg ∧ (failErase p s).port = s.port
    ∧ (failErase p s).accs = s.accs ∧ (failErase p s).minutes = s.minutes ∧ (failErase p s).line = s.line
    ∧ (failErase p s).avg = s.avg ∧ (failErase p s).year = s.year ∧ (failErase p s).tb = s.tb
    ∧ (failErase p s).wit = s.wit ∧ (failErase p s).retr = s.retr ∧ (failErase p s).elapsed = s.elapsed
    ∧ (failErase p s).pending = s.pending := by
  simp [failErase]

@[simp] theorem addRequest_frame (r : Request) (s : State) :
    (addRequest r s).supply = s.supply ∧ (addRequest r s).cfg = s.cfg ∧ (addRequest r s).port = s.port
    ∧ (addRequest r s).accs = s.accs ∧ (addRequest r s).minutes = s.minutes ∧ (addRequest r s).line = s.line
    ∧ (addRequest r s).avg = s.avg ∧ (addRequest r s).year = s.year ∧ (addRequest r s).tb = s.tb
    ∧ (addRequest r s).wit = s.wit ∧ (addRequest r s).retr = s.retr ∧ (addRequest r s).elapsed = s.elapsed
    ∧ (addRequest r s).draws = s.draws ∧ (addRequest r s).pending = s.pending := by
  simp [addRequest]

@[simp] theorem startBackfill_frame (s : State) :
    (startBackfill s).supply = s.supply ∧ (startBackfill s).cfg = s.cfg ∧ (startBackfill s).port = s.port
    ∧ (startBackfill s).accs = s.accs ∧ (startBackfill s).minutes = s.minutes ∧ (startBackfill s).line = s.line
    ∧ (startBackfill s).avg = s.avg ∧ (startBackfill s).year = s.year ∧ (startBackfill s).tb = s.tb
    ∧ (startBackfill s).retr = s.retr ∧ (startBackfill s).elapsed = s.elapsed ∧ (startBackfill s).draws = s.draws
    ∧ (startBackfill s).pending = s.pending := by
  unfold startBackfill; (repeat' split) <;> simp

@[simp] theorem advanceBackfill_frame (s : State) :
    (advanceBackfill s).supply = s.supply ∧ (advanceBackfill s).cfg = s.cfg ∧ (advanceBackfill s).port = s.port
    ∧ (advanceBackfill s).accs = s.accs ∧ (advanceBackfill s).minutes = s.minutes ∧ (advanceBackfill s).line = s.line
    ∧ (advanceBackfill s).avg = s.avg ∧ (advanceBackfill s).year = s.year ∧ (advanceBackfill s).tb = s.tb
    ∧ (advanceBackfill s).retr = s.retr ∧ (advanceBackfill s).elapsed = s.elapsed
    ∧ (advanceBackfill s).draws = s.draws ∧ (advanceBackfill s).pending = s.pending := by
  unfold advanceBackfill; (repeat' split) <;> simp

@[simp] theorem backfillResult_frame (r : Option Rec) (s : State) :
    (backfillResult r s).supply = s.supply ∧ (backfillResult r s).cfg = s.cfg ∧ (backfillResult r s).accs = s.accs
    ∧ (backfillResult r s).minutes = s.minutes ∧ (backfillResult r s).line = s.line
    ∧ (backfillResult r s).avg = s.avg ∧ (backfillResult r s).year = s.year ∧ (backfillResult r s).tb = s.tb
    ∧ (backfillResult r s).retr = s.retr ∧ (backfillResult r s).elapsed = s.elapsed
    ∧ (backfillResult r s).draws = s.draws ∧ (backfillResult r s).pending = s.pending := by
  unfold backfillResult; (repeat' split) <;> simp

@[simp] theorem setJob_frame (j : Job) (s : State) :
    (setJob j s).supply = s.supply ∧ (setJob j s).cfg = s.cfg ∧ (setJob j s).port = s.port
    ∧ (setJob j s).accs = s.accs ∧ (setJob j s).minutes = s.minutes ∧ (setJob j s).line = s.line
    ∧ (setJob j s).avg = s.avg ∧ (setJob j s).year = s.year ∧ (setJob j s).tb = s.tb ∧ (setJob j s).wit = s.wit
    ∧ (setJob j s).arch = s.arch ∧ (setJob j s).elapsed = s.elapsed ∧ (setJob j s).draws = s.draws
    ∧ (setJob j s).pending = s.pending := by
  simp [setJob]

@[simp] theorem jobReady_frame (j : Job) (x : Answer) (b : Bool) (s : State) :
    (jobReady j x b s).supply = s.supply ∧ (jobReady j x b s).cfg = s.cfg ∧ (jobReady j x b s).accs = s.accs
    ∧ (jobReady j x b s).minutes = s.minutes ∧ (jobReady j x b s).line = s.line ∧ (jobReady j x b s).avg = s.avg
    ∧ (jobReady j x b s).year = s.year ∧ (jobReady j x b s).tb = s.tb ∧ (jobReady j x b s).wit = s.wit
    ∧ (jobReady j x b s).arch = s.arch ∧ (jobReady j x b s).elapsed = s.elapsed ∧ (jobReady j x b s).draws = s.draws
    ∧ (jobReady j x b s).pending = s.pending := by
  simp [jobReady]

@[simp] theorem workJob_frame (j : Job) (s : State) :
    (workJob j s).supply = s.supply ∧ (workJob j s).cfg = s.cfg ∧ (workJob j s).accs = s.accs
    ∧ (workJob j s).minutes = s.minutes ∧ (workJob j s).line = s.line ∧ (workJob j s).avg = s.avg
    ∧ (workJob j s).year = s.year ∧ (workJob j s).tb = s.tb ∧ (workJob j s).wit = s.wit
    ∧ (workJob j s).elapsed = s.elapsed ∧ (workJob j s).draws = s.draws ∧ (workJob j s).pending = s.pending := by
  unfold workJob; (repeat' split) <;> simp

@[simp] theorem jobResult_frame (n : Nat) (r : Option Rec) (s : State) :
    (jobResult n r s).supply = s.supply ∧ (jobResult n r s).cfg = s.cfg ∧ (jobResult n r s).accs = s.accs
    ∧ (jobResult n r s).minutes = s.minutes ∧ (jobResult n r s).line = s.line ∧ (jobResult n r s).avg = s.avg
    ∧ (jobResult n r s).year = s.year ∧ (jobResult n r s).tb = s.tb ∧ (jobResult n r s).wit = s.wit
    ∧ (jobResult n r s).elapsed = s.elapsed ∧ (jobResult n r s).draws = s.draws
    ∧ (jobResult n r s).pending = s.pending := by
  unfold jobResult; (repeat' split) <;> simp

@[simp] theorem removeJob_frame (n : Nat) (s : State) :
    (removeJob n s).supply = s.supply ∧ (removeJob n s).cfg = s.cfg ∧ (removeJob n s).port = s.port
    ∧ (removeJob n s).accs = s.accs ∧ (removeJob n s).minutes = s.minutes ∧ (removeJob n s).line = s.line
    ∧ (removeJob n s).avg = s.avg ∧ (removeJob n s).year = s.year ∧ (removeJob n s).tb = s.tb
    ∧ (removeJob n s).wit = s.wit ∧ (removeJob n s).elapsed = s.elapsed ∧ (removeJob n s).draws = s.draws
    ∧ (removeJob n s).pending = s.pending := by
  simp [removeJob]

@[simp] theorem afterPlaced_frame (j : Job) (x : Answer) (b : Bool) (s : State) :
    (afterPlaced j x b s).supply = s.supply ∧ (afterPlaced j x b s).cfg = s.cfg ∧ (afterPlaced j x b s).accs = s.accs
    ∧ (afterPlaced j x b s).minutes = s.minutes ∧ (afterPlaced j x b s).line = s.line
    ∧ (afterPlaced j x b s).avg = s.avg ∧ (afterPlaced j x b s).year = s.year ∧ (afterPlaced j x b s).tb = s.tb
    ∧ (afterPlaced j x b s).wit = s.wit ∧ (afterPlaced j x b s).elapsed = s.elapsed
    ∧ (afterPlaced j x b s).draws = s.draws ∧ (afterPlaced j x b s).pending = s.pending := by
  unfold afterPlaced; (repeat' split) <;> simp

/-- A fold of `workJob` changes what `workJob` does. -/
@[simp] theorem foldl_workJob_frame (l : List Job) : ∀ s : State,
    (l.foldl (fun t j => workJob j t) s).supply = s.supply ∧ (l.foldl (fun t j => workJob j t) s).cfg = s.cfg
    ∧ (l.foldl (fun t j => workJob j t) s).accs = s.accs ∧ (l.foldl (fun t j => workJob j t) s).minutes = s.minutes
    ∧ (l.foldl (fun t j => workJob j t) s).line = s.line ∧ (l.foldl (fun t j => workJob j t) s).avg = s.avg
    ∧ (l.foldl (fun t j => workJob j t) s).year = s.year ∧ (l.foldl (fun t j => workJob j t) s).tb = s.tb
    ∧ (l.foldl (fun t j => workJob j t) s).wit = s.wit ∧ (l.foldl (fun t j => workJob j t) s).elapsed = s.elapsed
    ∧ (l.foldl (fun t j => workJob j t) s).draws = s.draws ∧ (l.foldl (fun t j => workJob j t) s).pending = s.pending := by
  induction l with
  | nil => simp
  | cons j r ih => intro s; simpa using ih (workJob j s)

@[simp] theorem wakeFollows_frame (n : Nat) (s : State) :
    (wakeFollows n s).supply = s.supply ∧ (wakeFollows n s).cfg = s.cfg ∧ (wakeFollows n s).accs = s.accs
    ∧ (wakeFollows n s).minutes = s.minutes ∧ (wakeFollows n s).line = s.line ∧ (wakeFollows n s).avg = s.avg
    ∧ (wakeFollows n s).year = s.year ∧ (wakeFollows n s).tb = s.tb ∧ (wakeFollows n s).wit = s.wit
    ∧ (wakeFollows n s).elapsed = s.elapsed ∧ (wakeFollows n s).draws = s.draws
    ∧ (wakeFollows n s).pending = s.pending := by
  simp [wakeFollows]

@[simp] theorem addAnswer_frame (n : Nat) (tag : BitVec 8) (b : PendingBody) (s : State) :
    (addAnswer n tag b s).supply = s.supply ∧ (addAnswer n tag b s).cfg = s.cfg ∧ (addAnswer n tag b s).accs = s.accs
    ∧ (addAnswer n tag b s).minutes = s.minutes ∧ (addAnswer n tag b s).line = s.line
    ∧ (addAnswer n tag b s).avg = s.avg ∧ (addAnswer n tag b s).year = s.year ∧ (addAnswer n tag b s).tb = s.tb
    ∧ (addAnswer n tag b s).wit = s.wit ∧ (addAnswer n tag b s).arch = s.arch
    ∧ (addAnswer n tag b s).elapsed = s.elapsed ∧ (addAnswer n tag b s).draws = s.draws
    ∧ (addAnswer n tag b s).pending = s.pending := by
  simp [addAnswer]

@[simp] theorem formGap_frame (p : Nat) (s : State) :
    (formGap p s).supply = s.supply ∧ (formGap p s).cfg = s.cfg ∧ (formGap p s).accs = s.accs
    ∧ (formGap p s).minutes = s.minutes ∧ (formGap p s).line = s.line ∧ (formGap p s).avg = s.avg
    ∧ (formGap p s).year = s.year ∧ (formGap p s).tb = s.tb ∧ (formGap p s).arch = s.arch
    ∧ (formGap p s).retr = s.retr ∧ (formGap p s).elapsed = s.elapsed ∧ (formGap p s).draws = s.draws
    ∧ (formGap p s).pending = s.pending := by
  unfold formGap; (repeat' split) <;> simp

@[simp] theorem testGaps_frame (s : State) :
    (testGaps s).supply = s.supply ∧ (testGaps s).cfg = s.cfg ∧ (testGaps s).accs = s.accs
    ∧ (testGaps s).minutes = s.minutes ∧ (testGaps s).line = s.line ∧ (testGaps s).avg = s.avg
    ∧ (testGaps s).year = s.year ∧ (testGaps s).tb = s.tb ∧ (testGaps s).arch = s.arch ∧ (testGaps s).retr = s.retr
    ∧ (testGaps s).elapsed = s.elapsed ∧ (testGaps s).draws = s.draws ∧ (testGaps s).pending = s.pending := by
  simp [testGaps]

@[simp] theorem floorJump_frame (p : Nat) (s : State) :
    (floorJump p s).supply = s.supply ∧ (floorJump p s).cfg = s.cfg ∧ (floorJump p s).accs = s.accs
    ∧ (floorJump p s).minutes = s.minutes ∧ (floorJump p s).line = s.line ∧ (floorJump p s).avg = s.avg
    ∧ (floorJump p s).tb = s.tb ∧ (floorJump p s).elapsed = s.elapsed ∧ (floorJump p s).draws = s.draws
    ∧ (floorJump p s).pending = s.pending := by
  unfold floorJump; (repeat' split) <;> simp

@[simp] theorem reportHeld_frame (o : Origin) (s : State) :
    (reportHeld o s).supply = s.supply ∧ (reportHeld o s).cfg = s.cfg ∧ (reportHeld o s).accs = s.accs
    ∧ (reportHeld o s).minutes = s.minutes ∧ (reportHeld o s).line = s.line ∧ (reportHeld o s).avg = s.avg
    ∧ (reportHeld o s).tb = s.tb ∧ (reportHeld o s).elapsed = s.elapsed ∧ (reportHeld o s).draws = s.draws
    ∧ (reportHeld o s).pending = s.pending := by
  unfold reportHeld; (repeat' split) <;> simp

@[simp] theorem lagTest_frame (s : State) :
    (lagTest s).supply = s.supply ∧ (lagTest s).cfg = s.cfg ∧ (lagTest s).port = s.port ∧ (lagTest s).accs = s.accs
    ∧ (lagTest s).minutes = s.minutes ∧ (lagTest s).line = s.line ∧ (lagTest s).avg = s.avg
    ∧ (lagTest s).year = s.year ∧ (lagTest s).tb = s.tb ∧ (lagTest s).wit = s.wit ∧ (lagTest s).arch = s.arch
    ∧ (lagTest s).elapsed = s.elapsed ∧ (lagTest s).draws = s.draws ∧ (lagTest s).pending = s.pending := by
  simp [lagTest]

@[simp] theorem serveOne_frame (s : State) :
    (serveOne s).supply = s.supply ∧ (serveOne s).cfg = s.cfg ∧ (serveOne s).accs = s.accs
    ∧ (serveOne s).minutes = s.minutes ∧ (serveOne s).line = s.line ∧ (serveOne s).avg = s.avg
    ∧ (serveOne s).year = s.year ∧ (serveOne s).tb = s.tb ∧ (serveOne s).elapsed = s.elapsed
    ∧ (serveOne s).draws = s.draws ∧ (serveOne s).pending = s.pending := by
  unfold serveOne; (repeat' split) <;> simp

@[simp] theorem serveReads_frame (n : Nat) : ∀ s : State,
    (serveReads n s).supply = s.supply ∧ (serveReads n s).cfg = s.cfg ∧ (serveReads n s).accs = s.accs
    ∧ (serveReads n s).minutes = s.minutes ∧ (serveReads n s).line = s.line ∧ (serveReads n s).avg = s.avg
    ∧ (serveReads n s).year = s.year ∧ (serveReads n s).tb = s.tb ∧ (serveReads n s).elapsed = s.elapsed
    ∧ (serveReads n s).draws = s.draws ∧ (serveReads n s).pending = s.pending := by
  induction n with
  | zero => intro s; simp [serveReads]
  | succ n ih =>
    intro s
    simp only [serveReads]
    split
    · simp
    · simpa using ih (serveOne s)

@[simp] theorem flashIdle_frame (s : State) :
    (flashIdle s).supply = s.supply ∧ (flashIdle s).cfg = s.cfg ∧ (flashIdle s).accs = s.accs
    ∧ (flashIdle s).minutes = s.minutes ∧ (flashIdle s).line = s.line ∧ (flashIdle s).avg = s.avg
    ∧ (flashIdle s).year = s.year ∧ (flashIdle s).tb = s.tb ∧ (flashIdle s).elapsed = s.elapsed
    ∧ (flashIdle s).draws = s.draws ∧ (flashIdle s).pending = s.pending := by
  simp only [flashIdle]; (repeat' split) <;> simp

@[simp] theorem programFailed_frame (s : State) :
    (programFailed s).supply = s.supply ∧ (programFailed s).cfg = s.cfg ∧ (programFailed s).port = s.port
    ∧ (programFailed s).accs = s.accs ∧ (programFailed s).minutes = s.minutes ∧ (programFailed s).line = s.line
    ∧ (programFailed s).avg = s.avg ∧ (programFailed s).tb = s.tb ∧ (programFailed s).wit = s.wit
    ∧ (programFailed s).elapsed = s.elapsed ∧ (programFailed s).draws = s.draws
    ∧ (programFailed s).pending = s.pending := by
  simp only [programFailed]; (repeat' split) <;> simp

@[simp] theorem ringAfterProgram_frame (a : Area) (good : Bool) (r : Rec) (s : State) :
    (ringAfterProgram a good r s).supply = s.supply ∧ (ringAfterProgram a good r s).cfg = s.cfg
    ∧ (ringAfterProgram a good r s).port = s.port ∧ (ringAfterProgram a good r s).accs = s.accs
    ∧ (ringAfterProgram a good r s).minutes = s.minutes ∧ (ringAfterProgram a good r s).line = s.line
    ∧ (ringAfterProgram a good r s).avg = s.avg ∧ (ringAfterProgram a good r s).year = s.year
    ∧ (ringAfterProgram a good r s).tb = s.tb ∧ (ringAfterProgram a good r s).wit = s.wit
    ∧ (ringAfterProgram a good r s).retr = s.retr ∧ (ringAfterProgram a good r s).elapsed = s.elapsed
    ∧ (ringAfterProgram a good r s).draws = s.draws ∧ (ringAfterProgram a good r s).pending = s.pending := by
  simp [ringAfterProgram]

@[simp] theorem ownArchived_frame (r : Rec) (s : State) :
    (ownArchived r s).supply = s.supply ∧ (ownArchived r s).cfg = s.cfg ∧ (ownArchived r s).port = s.port
    ∧ (ownArchived r s).accs = s.accs ∧ (ownArchived r s).minutes = s.minutes ∧ (ownArchived r s).line = s.line
    ∧ (ownArchived r s).avg = s.avg ∧ (ownArchived r s).year = s.year ∧ (ownArchived r s).tb = s.tb
    ∧ (ownArchived r s).arch = s.arch ∧ (ownArchived r s).elapsed = s.elapsed ∧ (ownArchived r s).draws = s.draws
    ∧ (ownArchived r s).pending = s.pending := by
  unfold ownArchived; (repeat' split) <;> simp

@[simp] theorem ownProgramEnd_frame (good : Bool) (s : State) :
    (ownProgramEnd good s).supply = s.supply ∧ (ownProgramEnd good s).cfg = s.cfg
    ∧ (ownProgramEnd good s).accs = s.accs ∧ (ownProgramEnd good s).minutes = s.minutes
    ∧ (ownProgramEnd good s).line = s.line ∧ (ownProgramEnd good s).avg = s.avg ∧ (ownProgramEnd good s).tb = s.tb
    ∧ (ownProgramEnd good s).elapsed = s.elapsed ∧ (ownProgramEnd good s).pending = s.pending := by
  unfold ownProgramEnd; (repeat' split) <;> simp

@[simp] theorem partProgramEnd_frame (p : Nat) (good : Bool) (s : State) :
    (partProgramEnd p good s).supply = s.supply ∧ (partProgramEnd p good s).cfg = s.cfg
    ∧ (partProgramEnd p good s).accs = s.accs ∧ (partProgramEnd p good s).minutes = s.minutes
    ∧ (partProgramEnd p good s).line = s.line ∧ (partProgramEnd p good s).avg = s.avg
    ∧ (partProgramEnd p good s).tb = s.tb ∧ (partProgramEnd p good s).elapsed = s.elapsed
    ∧ (partProgramEnd p good s).pending = s.pending := by
  unfold partProgramEnd; (repeat' split) <;> simp

@[simp] theorem programEnd_frame (good : Bool) (s : State) :
    (programEnd good s).supply = s.supply ∧ (programEnd good s).cfg = s.cfg ∧ (programEnd good s).accs = s.accs
    ∧ (programEnd good s).minutes = s.minutes ∧ (programEnd good s).line = s.line ∧ (programEnd good s).avg = s.avg
    ∧ (programEnd good s).tb = s.tb ∧ (programEnd good s).elapsed = s.elapsed
    ∧ (programEnd good s).pending = s.pending := by
  unfold programEnd; (repeat' split) <;> simp

@[simp] theorem raiseOldest_frame (p : Nat) (h : Option Nat) (s : State) :
    (raiseOldest p h s).supply = s.supply ∧ (raiseOldest p h s).cfg = s.cfg ∧ (raiseOldest p h s).port = s.port
    ∧ (raiseOldest p h s).accs = s.accs ∧ (raiseOldest p h s).minutes = s.minutes ∧ (raiseOldest p h s).line = s.line
    ∧ (raiseOldest p h s).avg = s.avg ∧ (raiseOldest p h s).year = s.year ∧ (raiseOldest p h s).tb = s.tb
    ∧ (raiseOldest p h s).arch = s.arch ∧ (raiseOldest p h s).retr = s.retr ∧ (raiseOldest p h s).elapsed = s.elapsed
    ∧ (raiseOldest p h s).draws = s.draws ∧ (raiseOldest p h s).pending = s.pending := by
  unfold raiseOldest; (repeat' split) <;> simp

@[simp] theorem areaEraseEnd_frame (a : Area) (k : Nat) (good : Bool) (s : State) :
    (areaEraseEnd a k good s).supply = s.supply ∧ (areaEraseEnd a k good s).cfg = s.cfg
    ∧ (areaEraseEnd a k good s).port = s.port ∧ (areaEraseEnd a k good s).accs = s.accs
    ∧ (areaEraseEnd a k good s).minutes = s.minutes ∧ (areaEraseEnd a k good s).line = s.line
    ∧ (areaEraseEnd a k good s).avg = s.avg ∧ (areaEraseEnd a k good s).year = s.year
    ∧ (areaEraseEnd a k good s).tb = s.tb ∧ (areaEraseEnd a k good s).elapsed = s.elapsed
    ∧ (areaEraseEnd a k good s).pending = s.pending := by
  simp only [areaEraseEnd]; (repeat' split) <;> simp

@[simp] theorem eraseEnd_frame (good : Bool) (s : State) :
    (eraseEnd good s).supply = s.supply ∧ (eraseEnd good s).cfg = s.cfg ∧ (eraseEnd good s).port = s.port
    ∧ (eraseEnd good s).accs = s.accs ∧ (eraseEnd good s).minutes = s.minutes ∧ (eraseEnd good s).line = s.line
    ∧ (eraseEnd good s).avg = s.avg ∧ (eraseEnd good s).year = s.year ∧ (eraseEnd good s).tb = s.tb
    ∧ (eraseEnd good s).elapsed = s.elapsed ∧ (eraseEnd good s).pending = s.pending := by
  unfold eraseEnd; (repeat' split) <;> simp

@[simp] theorem placeRelease_frame (e : OutEntry) (s : State) :
    (placeRelease e s).supply = s.supply ∧ (placeRelease e s).cfg = s.cfg ∧ (placeRelease e s).accs = s.accs
    ∧ (placeRelease e s).minutes = s.minutes ∧ (placeRelease e s).line = s.line ∧ (placeRelease e s).avg = s.avg
    ∧ (placeRelease e s).year = s.year ∧ (placeRelease e s).tb = s.tb ∧ (placeRelease e s).wit = s.wit
    ∧ (placeRelease e s).retr = s.retr ∧ (placeRelease e s).elapsed = s.elapsed ∧ (placeRelease e s).draws = s.draws
    ∧ (placeRelease e s).pending = s.pending := by
  simp [placeRelease]

@[simp] theorem receiveErrorEffect_frame (s : State) :
    (receiveErrorEffect s).supply = s.supply ∧ (receiveErrorEffect s).cfg = s.cfg
    ∧ (receiveErrorEffect s).port = s.port ∧ (receiveErrorEffect s).accs = s.accs
    ∧ (receiveErrorEffect s).minutes = s.minutes ∧ (receiveErrorEffect s).line = s.line
    ∧ (receiveErrorEffect s).avg = s.avg ∧ (receiveErrorEffect s).tb = s.tb ∧ (receiveErrorEffect s).wit = s.wit
    ∧ (receiveErrorEffect s).arch = s.arch ∧ (receiveErrorEffect s).retr = s.retr
    ∧ (receiveErrorEffect s).elapsed = s.elapsed ∧ (receiveErrorEffect s).draws = s.draws
    ∧ (receiveErrorEffect s).pending = s.pending := by
  simp [receiveErrorEffect]

@[simp] theorem clashEffect_frame (s : State) :
    (clashEffect s).supply = s.supply ∧ (clashEffect s).cfg = s.cfg ∧ (clashEffect s).port = s.port
    ∧ (clashEffect s).accs = s.accs ∧ (clashEffect s).minutes = s.minutes ∧ (clashEffect s).line = s.line
    ∧ (clashEffect s).avg = s.avg ∧ (clashEffect s).tb = s.tb ∧ (clashEffect s).wit = s.wit
    ∧ (clashEffect s).arch = s.arch ∧ (clashEffect s).elapsed = s.elapsed ∧ (clashEffect s).draws = s.draws
    ∧ (clashEffect s).pending = s.pending := by
  simp [clashEffect]

@[simp] theorem portOff_frame (s : State) :
    (portOff s).supply = s.supply ∧ (portOff s).cfg = s.cfg ∧ (portOff s).accs = s.accs
    ∧ (portOff s).minutes = s.minutes ∧ (portOff s).line = s.line ∧ (portOff s).avg = s.avg
    ∧ (portOff s).year = s.year ∧ (portOff s).tb = s.tb ∧ (portOff s).wit = s.wit ∧ (portOff s).arch = s.arch
    ∧ (portOff s).retr = s.retr ∧ (portOff s).elapsed = s.elapsed ∧ (portOff s).draws = s.draws
    ∧ (portOff s).pending = s.pending := by
  simp [portOff]

@[simp] theorem portActive_frame (s : State) :
    (portActive s).supply = s.supply ∧ (portActive s).cfg = s.cfg ∧ (portActive s).accs = s.accs ∧ (portActive s).minutes = s.minutes
    ∧ (portActive s).line = s.line ∧ (portActive s).avg = s.avg ∧ (portActive s).year = s.year ∧ (portActive s).tb = s.tb
    ∧ (portActive s).wit = s.wit ∧ (portActive s).arch = s.arch ∧ (portActive s).retr = s.retr ∧ (portActive s).elapsed = s.elapsed
    ∧ (portActive s).draws = s.draws ∧ (portActive s).pending = s.pending := by
  simp [portActive]

@[simp] theorem portOn_frame (s : State) :
    (portOn s).supply = s.supply ∧ (portOn s).cfg = s.cfg ∧ (portOn s).accs = s.accs ∧ (portOn s).minutes = s.minutes
    ∧ (portOn s).line = s.line ∧ (portOn s).avg = s.avg ∧ (portOn s).year = s.year ∧ (portOn s).tb = s.tb
    ∧ (portOn s).wit = s.wit ∧ (portOn s).arch = s.arch ∧ (portOn s).retr = s.retr ∧ (portOn s).elapsed = s.elapsed
    ∧ (portOn s).draws = s.draws ∧ (portOn s).pending = s.pending := by
  simp only [portOn]; (repeat' split) <;> simp

@[simp] theorem gapSent_frame (t : GapTel) (s : State) :
    (gapSent t s).supply = s.supply ∧ (gapSent t s).cfg = s.cfg ∧ (gapSent t s).port = s.port
    ∧ (gapSent t s).accs = s.accs ∧ (gapSent t s).minutes = s.minutes ∧ (gapSent t s).line = s.line
    ∧ (gapSent t s).avg = s.avg ∧ (gapSent t s).year = s.year ∧ (gapSent t s).tb = s.tb ∧ (gapSent t s).arch = s.arch
    ∧ (gapSent t s).retr = s.retr ∧ (gapSent t s).elapsed = s.elapsed ∧ (gapSent t s).draws = s.draws
    ∧ (gapSent t s).pending = s.pending := by
  simp [gapSent]

@[simp] theorem releaseSent_frame (q : Nat) (s : State) :
    (releaseSent q s).supply = s.supply ∧ (releaseSent q s).cfg = s.cfg ∧ (releaseSent q s).port = s.port
    ∧ (releaseSent q s).accs = s.accs ∧ (releaseSent q s).minutes = s.minutes ∧ (releaseSent q s).line = s.line
    ∧ (releaseSent q s).avg = s.avg ∧ (releaseSent q s).year = s.year ∧ (releaseSent q s).tb = s.tb
    ∧ (releaseSent q s).wit = s.wit ∧ (releaseSent q s).retr = s.retr ∧ (releaseSent q s).elapsed = s.elapsed
    ∧ (releaseSent q s).draws = s.draws ∧ (releaseSent q s).pending = s.pending := by
  simp [releaseSent]

@[simp] theorem transmitted_frame (q : TxQueue) (s : State) :
    (transmitted q s).supply = s.supply ∧ (transmitted q s).cfg = s.cfg ∧ (transmitted q s).accs = s.accs
    ∧ (transmitted q s).minutes = s.minutes ∧ (transmitted q s).line = s.line ∧ (transmitted q s).avg = s.avg
    ∧ (transmitted q s).year = s.year ∧ (transmitted q s).tb = s.tb ∧ (transmitted q s).retr = s.retr
    ∧ (transmitted q s).elapsed = s.elapsed ∧ (transmitted q s).draws = s.draws
    ∧ (transmitted q s).pending = s.pending := by
  simp only [transmitted]; (repeat' split) <;> simp

@[simp] theorem enterSilent_frame (s : State) :
    (enterSilent s).supply = s.supply ∧ (enterSilent s).cfg = s.cfg ∧ (enterSilent s).accs = s.accs
    ∧ (enterSilent s).minutes = s.minutes ∧ (enterSilent s).line = s.line ∧ (enterSilent s).avg = s.avg
    ∧ (enterSilent s).tb = s.tb ∧ (enterSilent s).wit = s.wit ∧ (enterSilent s).arch = s.arch
    ∧ (enterSilent s).elapsed = s.elapsed ∧ (enterSilent s).draws = s.draws ∧ (enterSilent s).pending = s.pending := by
  simp [enterSilent]

@[simp] theorem restartAccs_frame (s : State) :
    (restartAccs s).supply = s.supply ∧ (restartAccs s).cfg = s.cfg ∧ (restartAccs s).port = s.port
    ∧ (restartAccs s).minutes = s.minutes ∧ (restartAccs s).line = s.line ∧ (restartAccs s).avg = s.avg
    ∧ (restartAccs s).year = s.year ∧ (restartAccs s).tb = s.tb ∧ (restartAccs s).wit = s.wit
    ∧ (restartAccs s).arch = s.arch ∧ (restartAccs s).retr = s.retr ∧ (restartAccs s).elapsed = s.elapsed
    ∧ (restartAccs s).draws = s.draws ∧ (restartAccs s).pending = s.pending := by
  simp [restartAccs]

@[simp] theorem takeSamples_frame (s : State) :
    (takeSamples s).supply = s.supply ∧ (takeSamples s).cfg = s.cfg ∧ (takeSamples s).port = s.port
    ∧ (takeSamples s).minutes.rows = s.minutes.rows ∧ (takeSamples s).minutes.last = s.minutes.last
    ∧ (takeSamples s).line = s.line ∧ (takeSamples s).avg = s.avg
    ∧ (takeSamples s).year = s.year ∧ (takeSamples s).tb = s.tb ∧ (takeSamples s).wit = s.wit
    ∧ (takeSamples s).arch = s.arch ∧ (takeSamples s).retr = s.retr ∧ (takeSamples s).elapsed = s.elapsed
    ∧ (takeSamples s).draws = s.draws ∧ (takeSamples s).pending = s.pending := by
  unfold takeSamples; split <;> simp

@[simp] theorem setSamplesAside_frame (s : State) :
    (setSamplesAside s).supply = s.supply ∧ (setSamplesAside s).cfg = s.cfg ∧ (setSamplesAside s).port = s.port
    ∧ (setSamplesAside s).minutes.rows = s.minutes.rows ∧ (setSamplesAside s).minutes.last = s.minutes.last
    ∧ (setSamplesAside s).line = s.line ∧ (setSamplesAside s).avg = s.avg
    ∧ (setSamplesAside s).year = s.year ∧ (setSamplesAside s).tb = s.tb ∧ (setSamplesAside s).wit = s.wit
    ∧ (setSamplesAside s).arch = s.arch ∧ (setSamplesAside s).retr = s.retr ∧ (setSamplesAside s).elapsed = s.elapsed
    ∧ (setSamplesAside s).draws = s.draws ∧ (setSamplesAside s).pending = s.pending := by
  unfold setSamplesAside; split <;> simp

@[simp] theorem intakeReading_frame (sender : BitVec 5) (channel tag : BitVec 4) (status : BitVec 8) (value : BitVec 24) (s : State) :
    (intakeReading sender channel tag status value s).supply = s.supply
    ∧ (intakeReading sender channel tag status value s).cfg = s.cfg
    ∧ (intakeReading sender channel tag status value s).port = s.port
    ∧ (intakeReading sender channel tag status value s).minutes = s.minutes
    ∧ (intakeReading sender channel tag status value s).line = s.line
    ∧ (intakeReading sender channel tag status value s).avg = s.avg
    ∧ (intakeReading sender channel tag status value s).year = s.year
    ∧ (intakeReading sender channel tag status value s).tb = s.tb
    ∧ (intakeReading sender channel tag status value s).wit = s.wit
    ∧ (intakeReading sender channel tag status value s).arch = s.arch
    ∧ (intakeReading sender channel tag status value s).retr = s.retr
    ∧ (intakeReading sender channel tag status value s).elapsed = s.elapsed
    ∧ (intakeReading sender channel tag status value s).draws = s.draws
    ∧ (intakeReading sender channel tag status value s).pending = s.pending := by
  simp only [intakeReading]; (repeat' split) <;> simp

@[simp] theorem fstopDecision_frame (b : Bool) (s : State) :
    (fstopDecision b s).supply = s.supply ∧ (fstopDecision b s).cfg = s.cfg ∧ (fstopDecision b s).port = s.port
    ∧ (fstopDecision b s).accs = s.accs ∧ (fstopDecision b s).minutes = s.minutes ∧ (fstopDecision b s).avg = s.avg
    ∧ (fstopDecision b s).tb = s.tb ∧ (fstopDecision b s).wit = s.wit ∧ (fstopDecision b s).arch = s.arch
    ∧ (fstopDecision b s).elapsed = s.elapsed ∧ (fstopDecision b s).draws = s.draws
    ∧ (fstopDecision b s).pending = s.pending := by
  simp only [fstopDecision]; (repeat' split) <;> simp

@[simp] theorem warnDecision_frame (b : Bool) (s : State) :
    (warnDecision b s).supply = s.supply ∧ (warnDecision b s).cfg = s.cfg ∧ (warnDecision b s).port = s.port
    ∧ (warnDecision b s).accs = s.accs ∧ (warnDecision b s).minutes = s.minutes ∧ (warnDecision b s).avg = s.avg
    ∧ (warnDecision b s).year = s.year ∧ (warnDecision b s).tb = s.tb ∧ (warnDecision b s).wit = s.wit
    ∧ (warnDecision b s).arch = s.arch ∧ (warnDecision b s).elapsed = s.elapsed ∧ (warnDecision b s).draws = s.draws
    ∧ (warnDecision b s).pending = s.pending := by
  simp only [warnDecision]; (repeat' split) <;> simp

@[simp] theorem coldFeedDecision_frame (st : OpState) (s : State) :
    (coldFeedDecision st s).supply = s.supply ∧ (coldFeedDecision st s).cfg = s.cfg
    ∧ (coldFeedDecision st s).port = s.port ∧ (coldFeedDecision st s).accs = s.accs
    ∧ (coldFeedDecision st s).minutes = s.minutes ∧ (coldFeedDecision st s).avg = s.avg
    ∧ (coldFeedDecision st s).year = s.year ∧ (coldFeedDecision st s).tb = s.tb ∧ (coldFeedDecision st s).wit = s.wit
    ∧ (coldFeedDecision st s).arch = s.arch ∧ (coldFeedDecision st s).elapsed = s.elapsed
    ∧ (coldFeedDecision st s).draws = s.draws ∧ (coldFeedDecision st s).pending = s.pending := by
  simp only [coldFeedDecision]; (repeat' split) <;> simp

@[simp] theorem lineMinute_frame (st : OpState) (b : Bool) (s : State) :
    (lineMinute st b s).supply = s.supply ∧ (lineMinute st b s).cfg = s.cfg ∧ (lineMinute st b s).port = s.port
    ∧ (lineMinute st b s).accs = s.accs ∧ (lineMinute st b s).minutes = s.minutes ∧ (lineMinute st b s).avg = s.avg
    ∧ (lineMinute st b s).tb = s.tb ∧ (lineMinute st b s).wit = s.wit ∧ (lineMinute st b s).arch = s.arch
    ∧ (lineMinute st b s).elapsed = s.elapsed ∧ (lineMinute st b s).draws = s.draws
    ∧ (lineMinute st b s).pending = s.pending := by
  simp [lineMinute]

@[simp] theorem closeMinute_frame (k : CloseKind) (s : State) :
    (closeMinute k s).supply = s.supply ∧ (closeMinute k s).cfg = s.cfg ∧ (closeMinute k s).port = s.port
    ∧ (closeMinute k s).avg = s.avg ∧ (closeMinute k s).tb = s.tb ∧ (closeMinute k s).wit = s.wit
    ∧ (closeMinute k s).arch = s.arch ∧ (closeMinute k s).elapsed = s.elapsed ∧ (closeMinute k s).draws = s.draws
    ∧ (closeMinute k s).pending = s.pending := by
  simp only [closeMinute]; (repeat' split) <;> simp

@[simp] theorem fillMinutes_frame (n : Nat) : ∀ s : State,
    (fillMinutes n s).supply = s.supply ∧ (fillMinutes n s).cfg = s.cfg ∧ (fillMinutes n s).port = s.port
    ∧ (fillMinutes n s).avg = s.avg ∧ (fillMinutes n s).tb = s.tb ∧ (fillMinutes n s).wit = s.wit
    ∧ (fillMinutes n s).arch = s.arch ∧ (fillMinutes n s).elapsed = s.elapsed ∧ (fillMinutes n s).draws = s.draws
    ∧ (fillMinutes n s).pending = s.pending := by
  induction n with
  | zero => intro s; simp [fillMinutes]
  | succ n ih => intro s; simpa [fillMinutes] using ih (closeMinute .powerLoss s)

@[simp] theorem closeNumbered_frame (n : Nat) (k : CloseKind) (s : State) :
    (closeNumbered n k s).supply = s.supply ∧ (closeNumbered n k s).cfg = s.cfg ∧ (closeNumbered n k s).port = s.port
    ∧ (closeNumbered n k s).avg = s.avg ∧ (closeNumbered n k s).tb = s.tb ∧ (closeNumbered n k s).wit = s.wit
    ∧ (closeNumbered n k s).arch = s.arch ∧ (closeNumbered n k s).elapsed = s.elapsed
    ∧ (closeNumbered n k s).draws = s.draws ∧ (closeNumbered n k s).pending = s.pending := by
  simp [closeNumbered]

@[simp] theorem lineHalfHour_frame (s : State) :
    (lineHalfHour s).supply = s.supply ∧ (lineHalfHour s).cfg = s.cfg ∧ (lineHalfHour s).port = s.port
    ∧ (lineHalfHour s).accs = s.accs ∧ (lineHalfHour s).minutes = s.minutes ∧ (lineHalfHour s).avg = s.avg
    ∧ (lineHalfHour s).year = s.year ∧ (lineHalfHour s).tb = s.tb ∧ (lineHalfHour s).wit = s.wit
    ∧ (lineHalfHour s).arch = s.arch ∧ (lineHalfHour s).retr = s.retr ∧ (lineHalfHour s).elapsed = s.elapsed
    ∧ (lineHalfHour s).draws = s.draws ∧ (lineHalfHour s).pending = s.pending := by
  simp [lineHalfHour]

@[simp] theorem lineYear_frame (s : State) :
    (lineYear s).supply = s.supply ∧ (lineYear s).cfg = s.cfg ∧ (lineYear s).port = s.port
    ∧ (lineYear s).accs = s.accs ∧ (lineYear s).minutes = s.minutes ∧ (lineYear s).avg = s.avg
    ∧ (lineYear s).year = s.year ∧ (lineYear s).tb = s.tb ∧ (lineYear s).wit = s.wit ∧ (lineYear s).arch = s.arch
    ∧ (lineYear s).retr = s.retr ∧ (lineYear s).elapsed = s.elapsed ∧ (lineYear s).draws = s.draws
    ∧ (lineYear s).pending = s.pending := by
  simp [lineYear]

@[simp] theorem closeHalfHour_frame (t : Nat) (s : State) :
    (closeHalfHour t s).supply = s.supply ∧ (closeHalfHour t s).cfg = s.cfg ∧ (closeHalfHour t s).accs = s.accs
    ∧ (closeHalfHour t s).tb = s.tb ∧ (closeHalfHour t s).wit = s.wit ∧ (closeHalfHour t s).elapsed = s.elapsed
    ∧ (closeHalfHour t s).draws = s.draws ∧ (closeHalfHour t s).pending = s.pending := by
  simp [closeHalfHour]

@[simp] theorem closeDay_frame (t : Nat) (s : State) :
    (closeDay t s).supply = s.supply ∧ (closeDay t s).cfg = s.cfg ∧ (closeDay t s).accs = s.accs
    ∧ (closeDay t s).minutes = s.minutes ∧ (closeDay t s).line = s.line ∧ (closeDay t s).tb = s.tb
    ∧ (closeDay t s).wit = s.wit ∧ (closeDay t s).elapsed = s.elapsed ∧ (closeDay t s).draws = s.draws
    ∧ (closeDay t s).pending = s.pending := by
  simp [closeDay]

@[simp] theorem appendYearSlot_frame (c : Settings) (y : Nat) (s : State) (r : YearRow) :
    (appendYearSlot c y s r).supply = s.supply ∧ (appendYearSlot c y s r).cfg = s.cfg
    ∧ (appendYearSlot c y s r).accs = s.accs ∧ (appendYearSlot c y s r).minutes = s.minutes
    ∧ (appendYearSlot c y s r).line = s.line ∧ (appendYearSlot c y s r).avg = s.avg
    ∧ (appendYearSlot c y s r).tb = s.tb ∧ (appendYearSlot c y s r).wit = s.wit
    ∧ (appendYearSlot c y s r).elapsed = s.elapsed ∧ (appendYearSlot c y s r).draws = s.draws
    ∧ (appendYearSlot c y s r).pending = s.pending := by
  simp [appendYearSlot]

@[simp] theorem foldl_appendYearSlot_frame (c : Settings) (y : Nat) (l : List YearRow) : ∀ s : State,
    (l.foldl (appendYearSlot c y) s).supply = s.supply ∧ (l.foldl (appendYearSlot c y) s).cfg = s.cfg
    ∧ (l.foldl (appendYearSlot c y) s).accs = s.accs ∧ (l.foldl (appendYearSlot c y) s).minutes = s.minutes
    ∧ (l.foldl (appendYearSlot c y) s).line = s.line ∧ (l.foldl (appendYearSlot c y) s).avg = s.avg
    ∧ (l.foldl (appendYearSlot c y) s).tb = s.tb ∧ (l.foldl (appendYearSlot c y) s).wit = s.wit
    ∧ (l.foldl (appendYearSlot c y) s).elapsed = s.elapsed ∧ (l.foldl (appendYearSlot c y) s).draws = s.draws
    ∧ (l.foldl (appendYearSlot c y) s).pending = s.pending := by
  induction l with
  | nil => simp
  | cons r l ih => intro s; simpa using ih (appendYearSlot c y s r)

@[simp] theorem appendYearRecords_frame (y : Nat) (s : State) :
    (appendYearRecords y s).supply = s.supply ∧ (appendYearRecords y s).cfg = s.cfg
    ∧ (appendYearRecords y s).accs = s.accs ∧ (appendYearRecords y s).minutes = s.minutes
    ∧ (appendYearRecords y s).line = s.line ∧ (appendYearRecords y s).avg = s.avg ∧ (appendYearRecords y s).tb = s.tb
    ∧ (appendYearRecords y s).wit = s.wit ∧ (appendYearRecords y s).elapsed = s.elapsed
    ∧ (appendYearRecords y s).draws = s.draws ∧ (appendYearRecords y s).pending = s.pending := by
  simp [appendYearRecords]

@[simp] theorem witnessYearClose_frame (s : State) :
    (witnessYearClose s).supply = s.supply ∧ (witnessYearClose s).cfg = s.cfg ∧ (witnessYearClose s).port = s.port
    ∧ (witnessYearClose s).accs = s.accs ∧ (witnessYearClose s).minutes = s.minutes
    ∧ (witnessYearClose s).line = s.line ∧ (witnessYearClose s).avg = s.avg ∧ (witnessYearClose s).year = s.year
    ∧ (witnessYearClose s).tb = s.tb ∧ (witnessYearClose s).arch = s.arch ∧ (witnessYearClose s).retr = s.retr
    ∧ (witnessYearClose s).elapsed = s.elapsed ∧ (witnessYearClose s).draws = s.draws
    ∧ (witnessYearClose s).pending = s.pending := by
  simp [witnessYearClose]

@[simp] theorem restartYear_frame (s : State) :
    (restartYear s).supply = s.supply ∧ (restartYear s).cfg = s.cfg ∧ (restartYear s).port = s.port
    ∧ (restartYear s).accs = s.accs ∧ (restartYear s).minutes = s.minutes ∧ (restartYear s).tb = s.tb
    ∧ (restartYear s).elapsed = s.elapsed ∧ (restartYear s).draws = s.draws ∧ (restartYear s).pending = s.pending := by
  simp [restartYear]

@[simp] theorem closeYear_frame (t : Nat) (s : State) :
    (closeYear t s).supply = s.supply ∧ (closeYear t s).cfg = s.cfg ∧ (closeYear t s).accs = s.accs
    ∧ (closeYear t s).minutes = s.minutes ∧ (closeYear t s).tb = s.tb ∧ (closeYear t s).elapsed = s.elapsed
    ∧ (closeYear t s).draws = s.draws ∧ (closeYear t s).pending = s.pending := by
  simp [closeYear]

@[simp] theorem rebuildFrom_frame (l : List Rec) (r : Nat) (s : State) :
    (rebuildFrom l r s).supply = s.supply ∧ (rebuildFrom l r s).cfg = s.cfg ∧ (rebuildFrom l r s).port = s.port
    ∧ (rebuildFrom l r s).accs = s.accs ∧ (rebuildFrom l r s).minutes = s.minutes ∧ (rebuildFrom l r s).tb = s.tb
    ∧ (rebuildFrom l r s).wit = s.wit ∧ (rebuildFrom l r s).arch = s.arch ∧ (rebuildFrom l r s).retr = s.retr
    ∧ (rebuildFrom l r s).elapsed = s.elapsed ∧ (rebuildFrom l r s).draws = s.draws
    ∧ (rebuildFrom l r s).pending = s.pending := by
  simp [rebuildFrom]

@[simp] theorem missingYearSlots_frame (l : List Rec) (y : Nat) (s : State) :
    (missingYearSlots l y s).supply = s.supply ∧ (missingYearSlots l y s).cfg = s.cfg
    ∧ (missingYearSlots l y s).accs = s.accs ∧ (missingYearSlots l y s).minutes = s.minutes
    ∧ (missingYearSlots l y s).line = s.line ∧ (missingYearSlots l y s).avg = s.avg
    ∧ (missingYearSlots l y s).tb = s.tb ∧ (missingYearSlots l y s).wit = s.wit
    ∧ (missingYearSlots l y s).elapsed = s.elapsed ∧ (missingYearSlots l y s).draws = s.draws
    ∧ (missingYearSlots l y s).pending = s.pending := by
  simp [missingYearSlots]

@[simp] theorem pendingCloses_frame (l : List Rec) (r : Nat) (s : State) :
    (pendingCloses l r s).supply = s.supply ∧ (pendingCloses l r s).cfg = s.cfg ∧ (pendingCloses l r s).accs = s.accs
    ∧ (pendingCloses l r s).minutes = s.minutes ∧ (pendingCloses l r s).tb = s.tb
    ∧ (pendingCloses l r s).elapsed = s.elapsed ∧ (pendingCloses l r s).draws = s.draws
    ∧ (pendingCloses l r s).pending = s.pending := by
  simp only [pendingCloses]; (repeat' split) <;> simp

@[simp] theorem openYearAt_frame (l : List Rec) (y : Nat) (s : State) :
    (openYearAt l y s).supply = s.supply ∧ (openYearAt l y s).cfg = s.cfg ∧ (openYearAt l y s).port = s.port
    ∧ (openYearAt l y s).accs = s.accs ∧ (openYearAt l y s).minutes = s.minutes ∧ (openYearAt l y s).line = s.line
    ∧ (openYearAt l y s).avg = s.avg ∧ (openYearAt l y s).tb = s.tb ∧ (openYearAt l y s).arch = s.arch
    ∧ (openYearAt l y s).retr = s.retr ∧ (openYearAt l y s).elapsed = s.elapsed ∧ (openYearAt l y s).draws = s.draws
    ∧ (openYearAt l y s).pending = s.pending := by
  simp [openYearAt]

@[simp] theorem startingValues_frame (h : Nat) (s : State) :
    (startingValues h s).supply = s.supply ∧ (startingValues h s).cfg = s.cfg ∧ (startingValues h s).port = s.port
    ∧ (startingValues h s).accs = s.accs ∧ (startingValues h s).minutes = s.minutes ∧ (startingValues h s).tb = s.tb
    ∧ (startingValues h s).elapsed = s.elapsed ∧ (startingValues h s).draws = s.draws
    ∧ (startingValues h s).pending = s.pending := by
  simp [startingValues]

@[simp] theorem compareResume_frame (h : Nat) (s : State) :
    (compareResume h s).supply = s.supply ∧ (compareResume h s).cfg = s.cfg ∧ (compareResume h s).port = s.port
    ∧ (compareResume h s).accs = s.accs ∧ (compareResume h s).minutes = s.minutes ∧ (compareResume h s).tb = s.tb
    ∧ (compareResume h s).elapsed = s.elapsed ∧ (compareResume h s).draws = s.draws
    ∧ (compareResume h s).pending = s.pending := by
  simp only [compareResume]; (repeat' split) <;> simp

@[simp] theorem scanFlash_frame (s : State) :
    (scanFlash s).supply = s.supply ∧ (scanFlash s).cfg = s.cfg ∧ (scanFlash s).port = s.port
    ∧ (scanFlash s).accs = s.accs ∧ (scanFlash s).minutes = s.minutes ∧ (scanFlash s).line = s.line
    ∧ (scanFlash s).avg = s.avg ∧ (scanFlash s).year = s.year ∧ (scanFlash s).tb = s.tb ∧ (scanFlash s).retr = s.retr
    ∧ (scanFlash s).elapsed = s.elapsed ∧ (scanFlash s).draws = s.draws ∧ (scanFlash s).pending = s.pending := by
  simp [scanFlash]

@[simp] theorem thaw_frame (s : State) :
    (thaw s).supply = s.supply ∧ (thaw s).cfg = s.cfg ∧ (thaw s).port = s.port ∧ (thaw s).accs = s.accs
    ∧ (thaw s).minutes = s.minutes ∧ (thaw s).line = s.line ∧ (thaw s).avg = s.avg ∧ (thaw s).year = s.year
    ∧ (thaw s).wit = s.wit ∧ (thaw s).arch = s.arch ∧ (thaw s).retr = s.retr ∧ (thaw s).elapsed = s.elapsed
    ∧ (thaw s).draws = s.draws ∧ (thaw s).pending = s.pending := by
  simp only [thaw]; (repeat' split) <;> simp

@[simp] theorem beginCatchUp_frame (s : State) :
    (beginCatchUp s).supply = s.supply ∧ (beginCatchUp s).cfg = s.cfg ∧ (beginCatchUp s).port = s.port
    ∧ (beginCatchUp s).accs = s.accs ∧ (beginCatchUp s).minutes = s.minutes ∧ (beginCatchUp s).line = s.line
    ∧ (beginCatchUp s).avg = s.avg ∧ (beginCatchUp s).year = s.year ∧ (beginCatchUp s).wit = s.wit
    ∧ (beginCatchUp s).arch = s.arch ∧ (beginCatchUp s).retr = s.retr ∧ (beginCatchUp s).elapsed = s.elapsed
    ∧ (beginCatchUp s).draws = s.draws ∧ (beginCatchUp s).pending = s.pending := by
  simp only [beginCatchUp]; (repeat' split) <;> simp

@[simp] theorem tick_frame (s : State) :
    (tick s).supply = s.supply ∧ (tick s).cfg = s.cfg ∧ (tick s).port = s.port ∧ (tick s).accs = s.accs
    ∧ (tick s).minutes = s.minutes ∧ (tick s).line = s.line ∧ (tick s).avg = s.avg ∧ (tick s).year = s.year
    ∧ (tick s).wit = s.wit ∧ (tick s).arch = s.arch ∧ (tick s).retr = s.retr ∧ (tick s).draws = s.draws
    ∧ (tick s).pending = s.pending := by
  simp only [tick]; (repeat' split) <;> simp

@[simp] theorem enterRecording_frame (s : State) :
    (enterRecording s).cfg = s.cfg ∧ (enterRecording s).accs = s.accs ∧ (enterRecording s).minutes = s.minutes
    ∧ (enterRecording s).line = s.line ∧ (enterRecording s).avg = s.avg ∧ (enterRecording s).year = s.year
    ∧ (enterRecording s).arch = s.arch ∧ (enterRecording s).retr = s.retr ∧ (enterRecording s).elapsed = s.elapsed
    ∧ (enterRecording s).draws = s.draws ∧ (enterRecording s).pending = s.pending := by
  simp [enterRecording]

@[simp] theorem endCatchUp_frame (s : State) :
    (endCatchUp s).cfg = s.cfg ∧ (endCatchUp s).accs = s.accs ∧ (endCatchUp s).minutes = s.minutes
    ∧ (endCatchUp s).line = s.line ∧ (endCatchUp s).avg = s.avg ∧ (endCatchUp s).year = s.year
    ∧ (endCatchUp s).arch = s.arch ∧ (endCatchUp s).retr = s.retr ∧ (endCatchUp s).elapsed = s.elapsed
    ∧ (endCatchUp s).draws = s.draws ∧ (endCatchUp s).pending = s.pending := by
  simp only [endCatchUp]; (repeat' split) <;> simp

@[simp] theorem enterCatchUp_frame (s : State) :
    (enterCatchUp s).cfg = s.cfg ∧ (enterCatchUp s).accs = s.accs ∧ (enterCatchUp s).minutes = s.minutes
    ∧ (enterCatchUp s).line = s.line ∧ (enterCatchUp s).avg = s.avg ∧ (enterCatchUp s).year = s.year
    ∧ (enterCatchUp s).arch = s.arch ∧ (enterCatchUp s).retr = s.retr ∧ (enterCatchUp s).elapsed = s.elapsed
    ∧ (enterCatchUp s).draws = s.draws ∧ (enterCatchUp s).pending = s.pending := by
  simp [enterCatchUp]

@[simp] theorem reportStep_frame (s : State) :
    (reportStep s).supply = s.supply ∧ (reportStep s).cfg = s.cfg ∧ (reportStep s).port = s.port
    ∧ (reportStep s).accs = s.accs ∧ (reportStep s).minutes = s.minutes ∧ (reportStep s).line = s.line
    ∧ (reportStep s).avg = s.avg ∧ (reportStep s).tb = s.tb ∧ (reportStep s).wit = s.wit
    ∧ (reportStep s).arch = s.arch ∧ (reportStep s).elapsed = s.elapsed ∧ (reportStep s).draws = s.draws
    ∧ (reportStep s).pending = s.pending := by
  simp [reportStep]

@[simp] theorem applyStep_frame (c : Int) (s : State) :
    (applyStep c s).supply = s.supply ∧ (applyStep c s).cfg = s.cfg ∧ (applyStep c s).port = s.port
    ∧ (applyStep c s).minutes.rows = s.minutes.rows ∧ (applyStep c s).minutes.last = s.minutes.last ∧ (applyStep c s).line = s.line
    ∧ (applyStep c s).avg = s.avg ∧ (applyStep c s).wit = s.wit ∧ (applyStep c s).arch = s.arch
    ∧ (applyStep c s).elapsed = s.elapsed ∧ (applyStep c s).draws = s.draws ∧ (applyStep c s).pending = s.pending := by
  simp only [applyStep]; (repeat' split) <;> simp

@[simp] theorem roundAction_frame (c : Int) (r : Bool) (s : State) :
    (roundAction c r s).supply = s.supply ∧ (roundAction c r s).cfg = s.cfg ∧ (roundAction c r s).port = s.port
    ∧ (roundAction c r s).minutes.rows = s.minutes.rows ∧ (roundAction c r s).minutes.last = s.minutes.last ∧ (roundAction c r s).line = s.line
    ∧ (roundAction c r s).avg = s.avg ∧ (roundAction c r s).wit = s.wit ∧ (roundAction c r s).arch = s.arch
    ∧ (roundAction c r s).elapsed = s.elapsed ∧ (roundAction c r s).draws = s.draws
    ∧ (roundAction c r s).pending = s.pending := by
  simp only [roundAction]; (repeat' split) <;> simp

@[simp] theorem agreementRound_frame (s : State) :
    (agreementRound s).supply = s.supply ∧ (agreementRound s).cfg = s.cfg ∧ (agreementRound s).port = s.port
    ∧ (agreementRound s).minutes.rows = s.minutes.rows ∧ (agreementRound s).minutes.last = s.minutes.last ∧ (agreementRound s).line = s.line
    ∧ (agreementRound s).avg = s.avg ∧ (agreementRound s).wit = s.wit ∧ (agreementRound s).arch = s.arch
    ∧ (agreementRound s).elapsed = s.elapsed ∧ (agreementRound s).draws = s.draws
    ∧ (agreementRound s).pending = s.pending := by
  simp only [agreementRound]; (repeat' split) <;> simp

@[simp] theorem adopt_frame (t : Nat) (s : State) :
    (adopt t s).cfg = s.cfg ∧ (adopt t s).accs = s.accs ∧ (adopt t s).minutes = s.minutes ∧ (adopt t s).line = s.line
    ∧ (adopt t s).avg = s.avg ∧ (adopt t s).year = s.year ∧ (adopt t s).elapsed = s.elapsed
    ∧ (adopt t s).draws = s.draws ∧ (adopt t s).pending = s.pending := by
  simp [adopt]

@[simp] theorem collectTime_frame (n t : Nat) (r : Bool) (s : State) :
    (collectTime n t r s).cfg = s.cfg ∧ (collectTime n t r s).accs = s.accs
    ∧ (collectTime n t r s).minutes = s.minutes ∧ (collectTime n t r s).line = s.line
    ∧ (collectTime n t r s).avg = s.avg ∧ (collectTime n t r s).year = s.year
    ∧ (collectTime n t r s).elapsed = s.elapsed ∧ (collectTime n t r s).draws = s.draws
    ∧ (collectTime n t r s).pending = s.pending := by
  simp only [collectTime]; (repeat' split) <;> simp

@[simp] theorem takeOffset_frame (n t : Nat) (r : Bool) (s : State) :
    (takeOffset n t r s).supply = s.supply ∧ (takeOffset n t r s).cfg = s.cfg ∧ (takeOffset n t r s).port = s.port
    ∧ (takeOffset n t r s).accs = s.accs ∧ (takeOffset n t r s).minutes = s.minutes
    ∧ (takeOffset n t r s).line = s.line ∧ (takeOffset n t r s).avg = s.avg ∧ (takeOffset n t r s).year = s.year
    ∧ (takeOffset n t r s).wit = s.wit ∧ (takeOffset n t r s).arch = s.arch ∧ (takeOffset n t r s).retr = s.retr
    ∧ (takeOffset n t r s).elapsed = s.elapsed ∧ (takeOffset n t r s).draws = s.draws
    ∧ (takeOffset n t r s).pending = s.pending := by
  simp only [takeOffset]; (repeat' split) <;> simp

@[simp] theorem takeTime_frame (n : BitVec 5) (t : BitVec 32) (k : BitVec 16) (r : Bool) (s : State) :
    (takeTime n t k r s).cfg = s.cfg ∧ (takeTime n t k r s).accs = s.accs ∧ (takeTime n t k r s).minutes = s.minutes
    ∧ (takeTime n t k r s).line = s.line ∧ (takeTime n t k r s).avg = s.avg ∧ (takeTime n t k r s).year = s.year
    ∧ (takeTime n t k r s).elapsed = s.elapsed ∧ (takeTime n t k r s).draws = s.draws
    ∧ (takeTime n t k r s).pending = s.pending := by
  simp only [takeTime]; (repeat' split) <;> simp

@[simp] theorem minuteStage_frame (m : Nat) (s : State) :
    (minuteStage m s).supply = s.supply ∧ (minuteStage m s).cfg = s.cfg ∧ (minuteStage m s).port = s.port
    ∧ (minuteStage m s).avg = s.avg ∧ (minuteStage m s).wit = s.wit ∧ (minuteStage m s).arch = s.arch
    ∧ (minuteStage m s).elapsed = s.elapsed ∧ (minuteStage m s).draws = s.draws
    ∧ (minuteStage m s).pending = s.pending := by
  simp [minuteStage]

@[simp] theorem periodStages_frame (t : Nat) (s : State) :
    (periodStages t s).supply = s.supply ∧ (periodStages t s).cfg = s.cfg ∧ (periodStages t s).accs = s.accs
    ∧ (periodStages t s).tb = s.tb ∧ (periodStages t s).elapsed = s.elapsed ∧ (periodStages t s).draws = s.draws
    ∧ (periodStages t s).pending = s.pending := by
  simp only [periodStages]; (repeat' split) <;> simp

@[simp] theorem closing_frame (m : Nat) (s : State) :
    (closing m s).supply = s.supply ∧ (closing m s).cfg = s.cfg ∧ (closing m s).elapsed = s.elapsed
    ∧ (closing m s).draws = s.draws ∧ (closing m s).pending = s.pending := by
  simp [closing]

@[simp] theorem acceptRecord_frame (x : Origin) (r : Rec) (p : Pool) (s : State) :
    (acceptRecord x r p s).supply = s.supply ∧ (acceptRecord x r p s).cfg = s.cfg
    ∧ (acceptRecord x r p s).accs = s.accs ∧ (acceptRecord x r p s).minutes = s.minutes
    ∧ (acceptRecord x r p s).line = s.line ∧ (acceptRecord x r p s).avg = s.avg
    ∧ (acceptRecord x r p s).year = s.year ∧ (acceptRecord x r p s).tb = s.tb
    ∧ (acceptRecord x r p s).elapsed = s.elapsed ∧ (acceptRecord x r p s).draws = s.draws
    ∧ (acceptRecord x r p s).pending = s.pending := by
  simp [acceptRecord]

@[simp] theorem refuseRecord_frame (s : State) :
    (refuseRecord s).supply = s.supply ∧ (refuseRecord s).cfg = s.cfg ∧ (refuseRecord s).accs = s.accs
    ∧ (refuseRecord s).minutes = s.minutes ∧ (refuseRecord s).line = s.line ∧ (refuseRecord s).avg = s.avg
    ∧ (refuseRecord s).tb = s.tb ∧ (refuseRecord s).arch = s.arch ∧ (refuseRecord s).retr = s.retr
    ∧ (refuseRecord s).elapsed = s.elapsed ∧ (refuseRecord s).draws = s.draws ∧ (refuseRecord s).pending = s.pending := by
  simp [refuseRecord]

@[simp] theorem expectedRecord_frame (x : Origin) (r : Rec) (s : State) :
    (expectedRecord x r s).supply = s.supply ∧ (expectedRecord x r s).cfg = s.cfg
    ∧ (expectedRecord x r s).accs = s.accs ∧ (expectedRecord x r s).minutes = s.minutes
    ∧ (expectedRecord x r s).line = s.line ∧ (expectedRecord x r s).avg = s.avg ∧ (expectedRecord x r s).tb = s.tb
    ∧ (expectedRecord x r s).elapsed = s.elapsed ∧ (expectedRecord x r s).draws = s.draws
    ∧ (expectedRecord x r s).pending = s.pending := by
  simp only [expectedRecord]; (repeat' split) <;> simp

@[simp] theorem witnessRecord_frame (x : Origin) (r : Rec) (s : State) :
    (witnessRecord x r s).supply = s.supply ∧ (witnessRecord x r s).cfg = s.cfg ∧ (witnessRecord x r s).accs = s.accs
    ∧ (witnessRecord x r s).minutes = s.minutes ∧ (witnessRecord x r s).line = s.line
    ∧ (witnessRecord x r s).avg = s.avg ∧ (witnessRecord x r s).tb = s.tb ∧ (witnessRecord x r s).elapsed = s.elapsed
    ∧ (witnessRecord x r s).draws = s.draws ∧ (witnessRecord x r s).pending = s.pending := by
  simp only [witnessRecord]; (repeat' split) <;> simp

@[simp] theorem takeRecord_frame (n : BitVec 5) (h : RecordHead) (b : List Byte) (s : State) :
    (takeRecord n h b s).supply = s.supply ∧ (takeRecord n h b s).cfg = s.cfg ∧ (takeRecord n h b s).accs = s.accs
    ∧ (takeRecord n h b s).minutes = s.minutes ∧ (takeRecord n h b s).line = s.line
    ∧ (takeRecord n h b s).avg = s.avg ∧ (takeRecord n h b s).tb = s.tb ∧ (takeRecord n h b s).elapsed = s.elapsed
    ∧ (takeRecord n h b s).draws = s.draws ∧ (takeRecord n h b s).pending = s.pending := by
  simp only [takeRecord]; (repeat' split) <;> simp

@[simp] theorem updateSecured_frame (s : State) :
    (updateSecured s).supply = s.supply ∧ (updateSecured s).cfg = s.cfg ∧ (updateSecured s).port = s.port
    ∧ (updateSecured s).accs = s.accs ∧ (updateSecured s).minutes = s.minutes ∧ (updateSecured s).line = s.line
    ∧ (updateSecured s).avg = s.avg ∧ (updateSecured s).year = s.year ∧ (updateSecured s).tb = s.tb
    ∧ (updateSecured s).arch = s.arch ∧ (updateSecured s).elapsed = s.elapsed ∧ (updateSecured s).draws = s.draws
    ∧ (updateSecured s).pending = s.pending := by
  simp [updateSecured]

@[simp] theorem ownMark_frame (n m : Nat) (s : State) :
    (ownMark n m s).supply = s.supply ∧ (ownMark n m s).cfg = s.cfg ∧ (ownMark n m s).port = s.port
    ∧ (ownMark n m s).accs = s.accs ∧ (ownMark n m s).minutes = s.minutes ∧ (ownMark n m s).line = s.line
    ∧ (ownMark n m s).avg = s.avg ∧ (ownMark n m s).year = s.year ∧ (ownMark n m s).tb = s.tb
    ∧ (ownMark n m s).arch = s.arch ∧ (ownMark n m s).elapsed = s.elapsed ∧ (ownMark n m s).draws = s.draws
    ∧ (ownMark n m s).pending = s.pending := by
  simp only [ownMark]; (repeat' split) <;> simp

@[simp] theorem takeMark_frame (n : BitVec 5) (l : List MarkEntry) (s : State) :
    (takeMark n l s).supply = s.supply ∧ (takeMark n l s).cfg = s.cfg ∧ (takeMark n l s).port = s.port
    ∧ (takeMark n l s).accs = s.accs ∧ (takeMark n l s).minutes = s.minutes ∧ (takeMark n l s).line = s.line
    ∧ (takeMark n l s).avg = s.avg ∧ (takeMark n l s).year = s.year ∧ (takeMark n l s).tb = s.tb
    ∧ (takeMark n l s).arch = s.arch ∧ (takeMark n l s).elapsed = s.elapsed ∧ (takeMark n l s).draws = s.draws
    ∧ (takeMark n l s).pending = s.pending := by
  simp only [takeMark]; (repeat' split) <;> simp

@[simp] theorem joinBackfill_frame (r : Backfill) (s : State) :
    (joinBackfill r s).supply = s.supply ∧ (joinBackfill r s).cfg = s.cfg ∧ (joinBackfill r s).accs = s.accs
    ∧ (joinBackfill r s).minutes = s.minutes ∧ (joinBackfill r s).line = s.line ∧ (joinBackfill r s).avg = s.avg
    ∧ (joinBackfill r s).year = s.year ∧ (joinBackfill r s).tb = s.tb ∧ (joinBackfill r s).elapsed = s.elapsed
    ∧ (joinBackfill r s).draws = s.draws ∧ (joinBackfill r s).pending = s.pending := by
  simp only [joinBackfill]; (repeat' split) <;> simp

@[simp] theorem takeGap_frame (t : BitVec 8) (f : BitVec 32) (c : BitVec 8) (s : State) :
    (takeGap t f c s).supply = s.supply ∧ (takeGap t f c s).cfg = s.cfg ∧ (takeGap t f c s).accs = s.accs
    ∧ (takeGap t f c s).minutes = s.minutes ∧ (takeGap t f c s).line = s.line ∧ (takeGap t f c s).avg = s.avg
    ∧ (takeGap t f c s).year = s.year ∧ (takeGap t f c s).tb = s.tb ∧ (takeGap t f c s).elapsed = s.elapsed
    ∧ (takeGap t f c s).draws = s.draws ∧ (takeGap t f c s).pending = s.pending := by
  simp only [takeGap]; (repeat' split) <;> simp

@[simp] theorem witnessPresence_frame (n : BitVec 5) (p : PresencePayload) (s : State) :
    (witnessPresence n p s).supply = s.supply ∧ (witnessPresence n p s).cfg = s.cfg
    ∧ (witnessPresence n p s).accs = s.accs ∧ (witnessPresence n p s).minutes = s.minutes
    ∧ (witnessPresence n p s).line = s.line ∧ (witnessPresence n p s).avg = s.avg ∧ (witnessPresence n p s).tb = s.tb
    ∧ (witnessPresence n p s).elapsed = s.elapsed ∧ (witnessPresence n p s).draws = s.draws
    ∧ (witnessPresence n p s).pending = s.pending := by
  simp only [witnessPresence]; (repeat' split) <;> simp

@[simp] theorem heardPresence_frame (n : BitVec 5) (s : State) :
    (heardPresence n s).supply = s.supply ∧ (heardPresence n s).cfg = s.cfg ∧ (heardPresence n s).port = s.port
    ∧ (heardPresence n s).accs = s.accs ∧ (heardPresence n s).minutes = s.minutes ∧ (heardPresence n s).line = s.line
    ∧ (heardPresence n s).avg = s.avg ∧ (heardPresence n s).year = s.year ∧ (heardPresence n s).tb = s.tb
    ∧ (heardPresence n s).wit = s.wit ∧ (heardPresence n s).arch = s.arch ∧ (heardPresence n s).elapsed = s.elapsed
    ∧ (heardPresence n s).draws = s.draws ∧ (heardPresence n s).pending = s.pending := by
  simp [heardPresence]

@[simp] theorem placePresence_frame (st : Station) (s : State) :
    (placePresence st s).supply = s.supply ∧ (placePresence st s).cfg = s.cfg ∧ (placePresence st s).accs = s.accs
    ∧ (placePresence st s).minutes = s.minutes ∧ (placePresence st s).line = s.line
    ∧ (placePresence st s).avg = s.avg ∧ (placePresence st s).year = s.year ∧ (placePresence st s).tb = s.tb
    ∧ (placePresence st s).wit = s.wit ∧ (placePresence st s).arch = s.arch ∧ (placePresence st s).retr = s.retr
    ∧ (placePresence st s).elapsed = s.elapsed ∧ (placePresence st s).draws = s.draws
    ∧ (placePresence st s).pending = s.pending := by
  simp only [placePresence]; (repeat' split) <;> simp

@[simp] theorem placeBackfill_frame (r : Rec) (s : State) :
    (placeBackfill r s).supply = s.supply ∧ (placeBackfill r s).cfg = s.cfg ∧ (placeBackfill r s).accs = s.accs
    ∧ (placeBackfill r s).minutes = s.minutes ∧ (placeBackfill r s).line = s.line ∧ (placeBackfill r s).avg = s.avg
    ∧ (placeBackfill r s).year = s.year ∧ (placeBackfill r s).tb = s.tb ∧ (placeBackfill r s).elapsed = s.elapsed
    ∧ (placeBackfill r s).draws = s.draws ∧ (placeBackfill r s).pending = s.pending := by
  simp [placeBackfill]

@[simp] theorem placeGap_frame (x : Origin) (g : Gap) (s : State) :
    (placeGap x g s).supply = s.supply ∧ (placeGap x g s).cfg = s.cfg ∧ (placeGap x g s).accs = s.accs
    ∧ (placeGap x g s).minutes = s.minutes ∧ (placeGap x g s).line = s.line ∧ (placeGap x g s).avg = s.avg
    ∧ (placeGap x g s).year = s.year ∧ (placeGap x g s).tb = s.tb ∧ (placeGap x g s).arch = s.arch
    ∧ (placeGap x g s).retr = s.retr ∧ (placeGap x g s).elapsed = s.elapsed ∧ (placeGap x g s).draws = s.draws
    ∧ (placeGap x g s).pending = s.pending := by
  simp [placeGap]

@[simp] theorem startJob_frame (j : Job) (s : State) :
    (startJob j s).supply = s.supply ∧ (startJob j s).cfg = s.cfg ∧ (startJob j s).accs = s.accs
    ∧ (startJob j s).minutes = s.minutes ∧ (startJob j s).line = s.line ∧ (startJob j s).avg = s.avg
    ∧ (startJob j s).year = s.year ∧ (startJob j s).tb = s.tb ∧ (startJob j s).elapsed = s.elapsed
    ∧ (startJob j s).draws = s.draws ∧ (startJob j s).pending = s.pending := by
  simp [startJob]

@[simp] theorem admitJob_frame (j : Job) (s : State) :
    (admitJob j s).supply = s.supply ∧ (admitJob j s).cfg = s.cfg ∧ (admitJob j s).accs = s.accs
    ∧ (admitJob j s).minutes = s.minutes ∧ (admitJob j s).line = s.line ∧ (admitJob j s).avg = s.avg
    ∧ (admitJob j s).year = s.year ∧ (admitJob j s).tb = s.tb ∧ (admitJob j s).elapsed = s.elapsed
    ∧ (admitJob j s).draws = s.draws ∧ (admitJob j s).pending = s.pending := by
  simp only [admitJob]; (repeat' split) <;> simp

@[simp] theorem clearAttention_frame (h : QueryHead) (c : BitVec 16) (s : State) :
    (clearAttention h c s).supply = s.supply ∧ (clearAttention h c s).cfg = s.cfg
    ∧ (clearAttention h c s).accs = s.accs ∧ (clearAttention h c s).minutes = s.minutes
    ∧ (clearAttention h c s).line = s.line ∧ (clearAttention h c s).avg = s.avg
    ∧ (clearAttention h c s).year = s.year ∧ (clearAttention h c s).tb = s.tb ∧ (clearAttention h c s).wit = s.wit
    ∧ (clearAttention h c s).arch = s.arch ∧ (clearAttention h c s).elapsed = s.elapsed
    ∧ (clearAttention h c s).draws = s.draws ∧ (clearAttention h c s).pending = s.pending := by
  simp [clearAttention]

@[simp] theorem placeAnswer_frame (t : AnswerTel) (s : State) :
    (placeAnswer t s).supply = s.supply ∧ (placeAnswer t s).cfg = s.cfg ∧ (placeAnswer t s).accs = s.accs
    ∧ (placeAnswer t s).minutes = s.minutes ∧ (placeAnswer t s).line = s.line ∧ (placeAnswer t s).avg = s.avg
    ∧ (placeAnswer t s).year = s.year ∧ (placeAnswer t s).tb = s.tb ∧ (placeAnswer t s).wit = s.wit
    ∧ (placeAnswer t s).arch = s.arch ∧ (placeAnswer t s).retr = s.retr ∧ (placeAnswer t s).elapsed = s.elapsed
    ∧ (placeAnswer t s).draws = s.draws ∧ (placeAnswer t s).pending = s.pending := by
  simp [placeAnswer]

@[simp] theorem setStaging_frame (b : List Byte) (s : State) :
    (setStaging b s).cfg = s.cfg ∧ (setStaging b s).port = s.port ∧ (setStaging b s).accs = s.accs
    ∧ (setStaging b s).minutes = s.minutes ∧ (setStaging b s).line = s.line ∧ (setStaging b s).avg = s.avg
    ∧ (setStaging b s).year = s.year ∧ (setStaging b s).tb = s.tb ∧ (setStaging b s).wit = s.wit
    ∧ (setStaging b s).arch = s.arch ∧ (setStaging b s).retr = s.retr ∧ (setStaging b s).elapsed = s.elapsed
    ∧ (setStaging b s).draws = s.draws ∧ (setStaging b s).pending = s.pending := by
  simp [setStaging]

@[simp] theorem configAnswer_frame (h : QueryHead) (r : ConfigResult) (off : Nat) (s : State) :
    (configAnswer h r off s).supply = s.supply ∧ (configAnswer h r off s).cfg = s.cfg
    ∧ (configAnswer h r off s).accs = s.accs ∧ (configAnswer h r off s).minutes = s.minutes
    ∧ (configAnswer h r off s).line = s.line ∧ (configAnswer h r off s).avg = s.avg
    ∧ (configAnswer h r off s).year = s.year ∧ (configAnswer h r off s).tb = s.tb
    ∧ (configAnswer h r off s).wit = s.wit ∧ (configAnswer h r off s).arch = s.arch
    ∧ (configAnswer h r off s).elapsed = s.elapsed ∧ (configAnswer h r off s).draws = s.draws
    ∧ (configAnswer h r off s).pending = s.pending := by
  simp [configAnswer]

@[simp] theorem configBlock_frame (h : QueryHead) (off : BitVec 16) (b : List Byte) (s : State) :
    (configBlock h off b s).cfg = s.cfg ∧ (configBlock h off b s).accs = s.accs
    ∧ (configBlock h off b s).minutes = s.minutes ∧ (configBlock h off b s).line = s.line
    ∧ (configBlock h off b s).avg = s.avg ∧ (configBlock h off b s).year = s.year ∧ (configBlock h off b s).tb = s.tb
    ∧ (configBlock h off b s).wit = s.wit ∧ (configBlock h off b s).arch = s.arch
    ∧ (configBlock h off b s).elapsed = s.elapsed ∧ (configBlock h off b s).draws = s.draws
    ∧ (configBlock h off b s).pending = s.pending := by
  simp only [configBlock]; (repeat' split) <;> simp

@[simp] theorem startCommit_frame (h : QueryHead) (l c : BitVec 16) (s : State) :
    (startCommit h l c s).cfg = s.cfg ∧ (startCommit h l c s).port = s.port ∧ (startCommit h l c s).accs = s.accs
    ∧ (startCommit h l c s).minutes = s.minutes ∧ (startCommit h l c s).line = s.line
    ∧ (startCommit h l c s).avg = s.avg ∧ (startCommit h l c s).year = s.year ∧ (startCommit h l c s).tb = s.tb
    ∧ (startCommit h l c s).wit = s.wit ∧ (startCommit h l c s).retr = s.retr
    ∧ (startCommit h l c s).elapsed = s.elapsed ∧ (startCommit h l c s).draws = s.draws
    ∧ (startCommit h l c s).pending = s.pending := by
  simp [startCommit]

@[simp] theorem configCommit_frame (h : QueryHead) (l c : BitVec 16) (s : State) :
    (configCommit h l c s).cfg = s.cfg ∧ (configCommit h l c s).accs = s.accs
    ∧ (configCommit h l c s).minutes = s.minutes ∧ (configCommit h l c s).line = s.line
    ∧ (configCommit h l c s).avg = s.avg ∧ (configCommit h l c s).year = s.year ∧ (configCommit h l c s).tb = s.tb
    ∧ (configCommit h l c s).wit = s.wit ∧ (configCommit h l c s).elapsed = s.elapsed
    ∧ (configCommit h l c s).draws = s.draws ∧ (configCommit h l c s).pending = s.pending := by
  simp only [configCommit]; (repeat' split) <;> simp

@[simp] theorem voidImage_frame (s : State) :
    (voidImage s).supply = s.supply ∧ (voidImage s).cfg = s.cfg ∧ (voidImage s).port = s.port
    ∧ (voidImage s).accs = s.accs ∧ (voidImage s).minutes = s.minutes ∧ (voidImage s).line = s.line
    ∧ (voidImage s).avg = s.avg ∧ (voidImage s).year = s.year ∧ (voidImage s).tb = s.tb ∧ (voidImage s).wit = s.wit
    ∧ (voidImage s).retr = s.retr ∧ (voidImage s).elapsed = s.elapsed ∧ (voidImage s).draws = s.draws
    ∧ (voidImage s).pending = s.pending := by
  simp only [voidImage]; (repeat' split) <;> simp

@[simp] theorem finishCommit_frame (r : ConfigResult) (s : State) :
    (finishCommit r s).cfg = s.cfg ∧ (finishCommit r s).accs = s.accs ∧ (finishCommit r s).minutes = s.minutes
    ∧ (finishCommit r s).line = s.line ∧ (finishCommit r s).avg = s.avg ∧ (finishCommit r s).year = s.year
    ∧ (finishCommit r s).tb = s.tb ∧ (finishCommit r s).wit = s.wit ∧ (finishCommit r s).elapsed = s.elapsed
    ∧ (finishCommit r s).draws = s.draws ∧ (finishCommit r s).pending = s.pending := by
  simp only [finishCommit]; (repeat' split) <;> simp

@[simp] theorem programImagePage_frame (p : Nat) (good : Bool) (s : State) :
    (programImagePage p good s).supply = s.supply ∧ (programImagePage p good s).cfg = s.cfg
    ∧ (programImagePage p good s).port = s.port ∧ (programImagePage p good s).accs = s.accs
    ∧ (programImagePage p good s).minutes = s.minutes ∧ (programImagePage p good s).line = s.line
    ∧ (programImagePage p good s).avg = s.avg
    ∧ (programImagePage p true s).year = s.year
    ∧ (programImagePage p false s).year = { s.year with day := s.year.day.bump .defective 1 }
    ∧ (programImagePage p good s).tb = s.tb ∧ (programImagePage p good s).wit = s.wit
    ∧ (programImagePage p good s).retr = s.retr ∧ (programImagePage p good s).elapsed = s.elapsed
    ∧ (programImagePage p good s).pending = s.pending := by
  cases good <;> simp [programImagePage, countUp]

@[simp] theorem noteAbandoned_frame (a : Area) (k : Nat) (s : State) :
    (noteAbandoned a k s).supply = s.supply ∧ (noteAbandoned a k s).cfg = s.cfg ∧ (noteAbandoned a k s).port = s.port
    ∧ (noteAbandoned a k s).accs = s.accs ∧ (noteAbandoned a k s).minutes = s.minutes ∧ (noteAbandoned a k s).line = s.line
    ∧ (noteAbandoned a k s).avg = s.avg ∧ (noteAbandoned a k s).year = s.year ∧ (noteAbandoned a k s).tb = s.tb
    ∧ (noteAbandoned a k s).wit = s.wit ∧ (noteAbandoned a k s).retr = s.retr ∧ (noteAbandoned a k s).elapsed = s.elapsed
    ∧ (noteAbandoned a k s).draws = s.draws ∧ (noteAbandoned a k s).pending = s.pending := by
  simp [noteAbandoned]

@[simp] theorem cutFlash_frame (good : Bool) (s : State) :
    (cutFlash good s).supply = s.supply ∧ (cutFlash good s).cfg = s.cfg ∧ (cutFlash good s).accs = s.accs
    ∧ (cutFlash good s).minutes = s.minutes ∧ (cutFlash good s).line = s.line ∧ (cutFlash good s).avg = s.avg
    ∧ (cutFlash good s).tb = s.tb ∧ (cutFlash good s).elapsed = s.elapsed ∧ (cutFlash good s).pending = s.pending := by
  simp only [cutFlash]; (repeat' split) <;> simp

@[simp] theorem cutSupply_frame (s : State) :
    (cutSupply s).cfg = s.cfg ∧ (cutSupply s).port = s.port ∧ (cutSupply s).accs = s.accs
    ∧ (cutSupply s).minutes = s.minutes ∧ (cutSupply s).line = s.line ∧ (cutSupply s).avg = s.avg
    ∧ (cutSupply s).year = s.year ∧ (cutSupply s).tb = s.tb ∧ (cutSupply s).wit = s.wit ∧ (cutSupply s).arch = s.arch
    ∧ (cutSupply s).retr = s.retr ∧ (cutSupply s).elapsed = s.elapsed ∧ (cutSupply s).draws = s.draws
    ∧ (cutSupply s).pending = s.pending := by
  simp [cutSupply]

@[simp] theorem enterHold_frame (st : Station) (s : State) :
    (enterHold st s).cfg = s.cfg ∧ (enterHold st s).port = s.port ∧ (enterHold st s).accs = s.accs
    ∧ (enterHold st s).minutes = s.minutes ∧ (enterHold st s).line = s.line ∧ (enterHold st s).avg = s.avg
    ∧ (enterHold st s).year = s.year ∧ (enterHold st s).tb = s.tb ∧ (enterHold st s).wit = s.wit
    ∧ (enterHold st s).arch = s.arch ∧ (enterHold st s).retr = s.retr ∧ (enterHold st s).elapsed = s.elapsed
    ∧ (enterHold st s).draws = s.draws ∧ (enterHold st s).pending = s.pending := by
  simp [enterHold]

@[simp] theorem foldl_removeJob_frame (l : List Nat) : ∀ s : State,
    (l.foldl (fun t n => removeJob n t) s).supply = s.supply ∧ (l.foldl (fun t n => removeJob n t) s).cfg = s.cfg
    ∧ (l.foldl (fun t n => removeJob n t) s).port = s.port ∧ (l.foldl (fun t n => removeJob n t) s).accs = s.accs
    ∧ (l.foldl (fun t n => removeJob n t) s).minutes = s.minutes
    ∧ (l.foldl (fun t n => removeJob n t) s).line = s.line ∧ (l.foldl (fun t n => removeJob n t) s).avg = s.avg
    ∧ (l.foldl (fun t n => removeJob n t) s).year = s.year ∧ (l.foldl (fun t n => removeJob n t) s).tb = s.tb
    ∧ (l.foldl (fun t n => removeJob n t) s).wit = s.wit ∧ (l.foldl (fun t n => removeJob n t) s).elapsed = s.elapsed
    ∧ (l.foldl (fun t n => removeJob n t) s).draws = s.draws
    ∧ (l.foldl (fun t n => removeJob n t) s).pending = s.pending := by
  induction l with
  | nil => simp
  | cons n r ih => intro s; simpa using ih (removeJob n s)

@[simp] theorem dropSilentJobs_frame (s : State) :
    (dropSilentJobs s).supply = s.supply ∧ (dropSilentJobs s).cfg = s.cfg ∧ (dropSilentJobs s).port = s.port
    ∧ (dropSilentJobs s).accs = s.accs ∧ (dropSilentJobs s).minutes = s.minutes ∧ (dropSilentJobs s).line = s.line
    ∧ (dropSilentJobs s).avg = s.avg ∧ (dropSilentJobs s).year = s.year ∧ (dropSilentJobs s).tb = s.tb
    ∧ (dropSilentJobs s).wit = s.wit ∧ (dropSilentJobs s).elapsed = s.elapsed ∧ (dropSilentJobs s).draws = s.draws
    ∧ (dropSilentJobs s).pending = s.pending := by
  simp [dropSilentJobs]

@[simp] theorem dropAged_frame (s : State) :
    (dropAged s).supply = s.supply ∧ (dropAged s).cfg = s.cfg ∧ (dropAged s).port = s.port
    ∧ (dropAged s).accs = s.accs ∧ (dropAged s).minutes = s.minutes ∧ (dropAged s).line = s.line
    ∧ (dropAged s).avg = s.avg ∧ (dropAged s).year = s.year ∧ (dropAged s).tb = s.tb ∧ (dropAged s).arch = s.arch
    ∧ (dropAged s).retr = s.retr ∧ (dropAged s).elapsed = s.elapsed ∧ (dropAged s).draws = s.draws
    ∧ (dropAged s).pending = s.pending := by
  simp [dropAged]

@[simp] theorem warmState_frame (s : State) :
    (warmState s).cfg = s.cfg ∧ (warmState s).accs = s.accs ∧ (warmState s).minutes = s.minutes
    ∧ (warmState s).line = s.line ∧ (warmState s).avg = s.avg ∧ (warmState s).year = s.year
    ∧ (warmState s).wit = s.wit ∧ (warmState s).arch = s.arch ∧ (warmState s).retr = s.retr
    ∧ (warmState s).elapsed = s.elapsed ∧ (warmState s).draws = s.draws ∧ (warmState s).pending = s.pending := by
  simp only [warmState]; (repeat' split) <;> simp

@[simp] theorem startCommission_frame (b : List Byte) (s : State) :
    (startCommission b s).cfg = s.cfg ∧ (startCommission b s).accs = s.accs
    ∧ (startCommission b s).minutes = s.minutes ∧ (startCommission b s).line = s.line
    ∧ (startCommission b s).avg = s.avg ∧ (startCommission b s).year = s.year ∧ (startCommission b s).tb = s.tb
    ∧ (startCommission b s).wit = s.wit ∧ (startCommission b s).arch = s.arch ∧ (startCommission b s).retr = s.retr
    ∧ (startCommission b s).elapsed = s.elapsed ∧ (startCommission b s).draws = s.draws
    ∧ (startCommission b s).pending = s.pending := by
  simp [startCommission]

@[simp] theorem startUnconfigured_frame (s : State) :
    (startUnconfigured s).cfg = s.cfg ∧ (startUnconfigured s).accs = s.accs
    ∧ (startUnconfigured s).minutes = s.minutes ∧ (startUnconfigured s).line = s.line
    ∧ (startUnconfigured s).avg = s.avg ∧ (startUnconfigured s).year = s.year ∧ (startUnconfigured s).tb = s.tb
    ∧ (startUnconfigured s).wit = s.wit ∧ (startUnconfigured s).arch = s.arch ∧ (startUnconfigured s).retr = s.retr
    ∧ (startUnconfigured s).elapsed = s.elapsed ∧ (startUnconfigured s).draws = s.draws
    ∧ (startUnconfigured s).pending = s.pending := by
  simp [startUnconfigured]

@[simp] theorem formRows_frame (s : State) :
    (formRows s).supply = s.supply ∧ (formRows s).cfg = s.cfg ∧ (formRows s).port = s.port
    ∧ (formRows s).accs = s.accs ∧ (formRows s).minutes = s.minutes ∧ (formRows s).line = s.line
    ∧ (formRows s).tb = s.tb ∧ (formRows s).arch = s.arch ∧ (formRows s).retr = s.retr
    ∧ (formRows s).elapsed = s.elapsed ∧ (formRows s).draws = s.draws ∧ (formRows s).pending = s.pending := by
  simp [formRows]

@[simp] theorem scanRecords_frame (l : List Rec) (s : State) :
    (scanRecords l s).supply = s.supply ∧ (scanRecords l s).cfg = s.cfg ∧ (scanRecords l s).accs = s.accs
    ∧ (scanRecords l s).minutes = s.minutes ∧ (scanRecords l s).tb = s.tb ∧ (scanRecords l s).elapsed = s.elapsed
    ∧ (scanRecords l s).draws = s.draws ∧ (scanRecords l s).pending = s.pending := by
  simp only [scanRecords]; (repeat' split) <;> simp

@[simp] theorem scan_frame (s : State) :
    (scan s).cfg = s.cfg ∧ (scan s).accs = s.accs ∧ (scan s).minutes = s.minutes ∧ (scan s).tb = s.tb
    ∧ (scan s).elapsed = s.elapsed ∧ (scan s).draws = s.draws ∧ (scan s).pending = s.pending := by
  simp [scan]

@[simp] theorem endScan_frame (s : State) :
    (endScan s).cfg = s.cfg ∧ (endScan s).accs = s.accs ∧ (endScan s).minutes = s.minutes ∧ (endScan s).line = s.line
    ∧ (endScan s).avg = s.avg ∧ (endScan s).year = s.year ∧ (endScan s).arch = s.arch ∧ (endScan s).retr = s.retr
    ∧ (endScan s).elapsed = s.elapsed ∧ (endScan s).draws = s.draws ∧ (endScan s).pending = s.pending := by
  simp only [endScan]; (repeat' split) <;> simp

end Sys2Proof.Machine
end

