-- ==== Sys2Proof/Laws/Fields.lean ====
section
/-! SUPPORT. Which fields each shared operation leaves alone in the blocks that it does change. -/

namespace Sys2Proof.Machine

@[simp] theorem countUp_fields (k : Counter) (n : Nat) (s : State) :
    (countUp k n s).year.rows = s.year.rows ∧ (countUp k n s).year.minutes = s.year.minutes
    ∧ (countUp k n s).year.fstops = s.year.fstops ∧ (countUp k n s).year.coldFiring = s.year.coldFiring
    ∧ (countUp k n s).year.totals = s.year.totals ∧ (countUp k n s).year.openYear = s.year.openYear
    ∧ (countUp k n s).year.resume = s.year.resume ∧ (countUp k n s).year.compareDue = s.year.compareDue := by
  simp [countUp]

@[simp] theorem raiseCause_fields (c : Cause) (s : State) :
    (raiseCause c s).retr.jobs = s.retr.jobs ∧ (raiseCause c s).retr.answers = s.retr.answers := by
  simp [raiseCause]

@[simp] theorem raiseIf_fields (b : Bool) (c : Cause) (s : State) :
    (raiseIf b c s).retr.jobs = s.retr.jobs ∧ (raiseIf b c s).retr.answers = s.retr.answers := by
  simp only [raiseIf]; (repeat' split) <;> simp

@[simp] theorem nextTicket_fields (s : State) :
    (nextTicket s).port.state = s.port.state ∧ (nextTicket s).port.timeQ = s.port.timeQ
    ∧ (nextTicket s).port.recordQ = s.port.recordQ ∧ (nextTicket s).port.markQ = s.port.markQ
    ∧ (nextTicket s).port.gapQ = s.port.gapQ ∧ (nextTicket s).port.answerQ = s.port.answerQ
    ∧ (nextTicket s).port.presenceQ = s.port.presenceQ ∧ (nextTicket s).port.onLine = s.port.onLine
    ∧ (nextTicket s).port.errorRun = s.port.errorRun ∧ (nextTicket s).port.silentSince = s.port.silentSince
    ∧ (nextTicket s).port.activeSince = s.port.activeSince := by
  simp [nextTicket]

@[simp] theorem setRing_fields (a : Area) (r : Ring) (s : State) :
    (setRing a r s).arch.flash = s.arch.flash ∧ (setRing a r s).arch.op = s.arch.op
    ∧ (setRing a r s).arch.outbound = s.arch.outbound ∧ (setRing a r s).arch.requests = s.arch.requests
    ∧ (setRing a r s).arch.lastAssigned = s.arch.lastAssigned ∧ (setRing a r s).arch.latest = s.arch.latest
    ∧ (setRing a r s).arch.failureRun = s.arch.failureRun ∧ (setRing a r s).arch.state = s.arch.state
    ∧ (setRing a r s).arch.roundRobin = s.arch.roundRobin ∧ (setRing a r s).arch.releaseTicket = s.arch.releaseTicket
    ∧ (setRing a r s).arch.abandoned = s.arch.abandoned := by
  cases a <;> simp [setRing]

@[simp] theorem noteBroken_fields (a : Area) (k : Nat) (s : State) :
    (noteBroken a k s).arch.flash = s.arch.flash ∧ (noteBroken a k s).arch.op = s.arch.op
    ∧ (noteBroken a k s).arch.outbound = s.arch.outbound ∧ (noteBroken a k s).arch.requests = s.arch.requests
    ∧ (noteBroken a k s).arch.lastAssigned = s.arch.lastAssigned ∧ (noteBroken a k s).arch.latest = s.arch.latest
    ∧ (noteBroken a k s).arch.failureRun = s.arch.failureRun ∧ (noteBroken a k s).arch.state = s.arch.state
    ∧ (noteBroken a k s).arch.roundRobin = s.arch.roundRobin
    ∧ (noteBroken a k s).arch.releaseTicket = s.arch.releaseTicket
    ∧ (noteBroken a k s).arch.abandoned = s.arch.abandoned := by
  simp [noteBroken]

@[simp] theorem setFlash_fields (m : Memory) (s : State) :
    (setFlash m s).arch.op = s.arch.op ∧ (setFlash m s).arch.own = s.arch.own
    ∧ (setFlash m s).arch.parts = s.arch.parts ∧ (setFlash m s).arch.outbound = s.arch.outbound
    ∧ (setFlash m s).arch.requests = s.arch.requests ∧ (setFlash m s).arch.lastAssigned = s.arch.lastAssigned
    ∧ (setFlash m s).arch.latest = s.arch.latest ∧ (setFlash m s).arch.failureRun = s.arch.failureRun
    ∧ (setFlash m s).arch.state = s.arch.state ∧ (setFlash m s).arch.roundRobin = s.arch.roundRobin
    ∧ (setFlash m s).arch.releaseTicket = s.arch.releaseTicket
    ∧ (setFlash m s).arch.abandoned = s.arch.abandoned := by
  simp [setFlash]

@[simp] theorem setFlash_flash (m : Memory) (s : State) : (setFlash m s).arch.flash = m := rfl

@[simp] theorem setOp_fields (o : FlashOp) (s : State) :
    (setOp o s).arch.flash = s.arch.flash ∧ (setOp o s).arch.own = s.arch.own ∧ (setOp o s).arch.parts = s.arch.parts
    ∧ (setOp o s).arch.outbound = s.arch.outbound ∧ (setOp o s).arch.requests = s.arch.requests
    ∧ (setOp o s).arch.lastAssigned = s.arch.lastAssigned ∧ (setOp o s).arch.latest = s.arch.latest
    ∧ (setOp o s).arch.failureRun = s.arch.failureRun ∧ (setOp o s).arch.state = s.arch.state
    ∧ (setOp o s).arch.roundRobin = s.arch.roundRobin ∧ (setOp o s).arch.releaseTicket = s.arch.releaseTicket
    ∧ (setOp o s).arch.abandoned = s.arch.abandoned := by
  simp [setOp]

@[simp] theorem setOp_op (x : FlashOp) (s : State) : (setOp x s).arch.op = x := rfl

@[simp] theorem setOrigin_fields (o : Origin) (s : State) :
    (setOrigin o s).wit.jobs = s.wit.jobs ∧ (setOrigin o s).wit.work = s.wit.work
    ∧ (setOrigin o s).wit.marks = s.wit.marks ∧ (setOrigin o s).wit.secured = s.wit.secured
    ∧ (setOrigin o s).wit.ownFloor = s.wit.ownFloor ∧ (setOrigin o s).wit.yearStart = s.wit.yearStart
    ∧ (setOrigin o s).wit.lagHoldoff = s.wit.lagHoldoff := by
  simp [setOrigin]

@[simp] theorem retentionTest_fields (s : State) :
    (retentionTest s).arch.flash = s.arch.flash ∧ (retentionTest s).arch.op = s.arch.op
    ∧ (retentionTest s).arch.own = s.arch.own ∧ (retentionTest s).arch.parts = s.arch.parts
    ∧ (retentionTest s).arch.outbound = s.arch.outbound ∧ (retentionTest s).arch.requests = s.arch.requests
    ∧ (retentionTest s).arch.lastAssigned = s.arch.lastAssigned ∧ (retentionTest s).arch.latest = s.arch.latest
    ∧ (retentionTest s).arch.failureRun = s.arch.failureRun ∧ (retentionTest s).arch.roundRobin = s.arch.roundRobin
    ∧ (retentionTest s).arch.releaseTicket = s.arch.releaseTicket
    ∧ (retentionTest s).arch.abandoned = s.arch.abandoned ∧ (retentionTest s).retr.jobs = s.retr.jobs
    ∧ (retentionTest s).retr.answers = s.retr.answers := by
  simp only [retentionTest]; (repeat' split) <;> simp

@[simp] theorem enterFault_fields (s : State) :
    (enterFault s).arch.flash = s.arch.flash ∧ (enterFault s).arch.op = s.arch.op
    ∧ (enterFault s).arch.own = s.arch.own ∧ (enterFault s).arch.parts = s.arch.parts
    ∧ (enterFault s).arch.outbound = s.arch.outbound ∧ (enterFault s).arch.requests = s.arch.requests
    ∧ (enterFault s).arch.lastAssigned = s.arch.lastAssigned ∧ (enterFault s).arch.latest = s.arch.latest
    ∧ (enterFault s).arch.failureRun = s.arch.failureRun ∧ (enterFault s).arch.roundRobin = s.arch.roundRobin
    ∧ (enterFault s).arch.releaseTicket = s.arch.releaseTicket
    ∧ (enterFault s).arch.abandoned = s.arch.abandoned ∧ (enterFault s).retr.jobs = s.retr.jobs
    ∧ (enterFault s).retr.answers = s.retr.answers := by
  simp only [enterFault]; (repeat' split) <;> simp

@[simp] theorem renewRelease_fields (s : State) :
    (renewRelease s).arch.flash = s.arch.flash ∧ (renewRelease s).arch.op = s.arch.op
    ∧ (renewRelease s).arch.own = s.arch.own ∧ (renewRelease s).arch.parts = s.arch.parts
    ∧ (renewRelease s).arch.outbound = s.arch.outbound ∧ (renewRelease s).arch.requests = s.arch.requests
    ∧ (renewRelease s).arch.lastAssigned = s.arch.lastAssigned ∧ (renewRelease s).arch.latest = s.arch.latest
    ∧ (renewRelease s).arch.failureRun = s.arch.failureRun ∧ (renewRelease s).arch.state = s.arch.state
    ∧ (renewRelease s).arch.roundRobin = s.arch.roundRobin ∧ (renewRelease s).port.state = s.port.state
    ∧ (renewRelease s).port.timeQ = s.port.timeQ ∧ (renewRelease s).port.recordQ = s.port.recordQ
    ∧ (renewRelease s).port.markQ = s.port.markQ ∧ (renewRelease s).port.gapQ = s.port.gapQ
    ∧ (renewRelease s).port.answerQ = s.port.answerQ ∧ (renewRelease s).port.presenceQ = s.port.presenceQ
    ∧ (renewRelease s).port.onLine = s.port.onLine ∧ (renewRelease s).port.errorRun = s.port.errorRun
    ∧ (renewRelease s).port.silentSince = s.port.silentSince ∧ (renewRelease s).port.activeSince = s.port.activeSince := by
  simp only [renewRelease]; (repeat' split) <;> simp

@[simp] theorem makeRoom_fields (s : State) :
    (makeRoom s).arch.flash = s.arch.flash ∧ (makeRoom s).arch.op = s.arch.op ∧ (makeRoom s).arch.own = s.arch.own
    ∧ (makeRoom s).arch.parts = s.arch.parts ∧ (makeRoom s).arch.requests = s.arch.requests
    ∧ (makeRoom s).arch.latest = s.arch.latest ∧ (makeRoom s).arch.failureRun = s.arch.failureRun
    ∧ (makeRoom s).arch.state = s.arch.state ∧ (makeRoom s).arch.roundRobin = s.arch.roundRobin
    ∧ (makeRoom s).port.state = s.port.state ∧ (makeRoom s).port.timeQ = s.port.timeQ
    ∧ (makeRoom s).port.markQ = s.port.markQ ∧ (makeRoom s).port.gapQ = s.port.gapQ
    ∧ (makeRoom s).port.answerQ = s.port.answerQ ∧ (makeRoom s).port.presenceQ = s.port.presenceQ
    ∧ (makeRoom s).port.onLine = s.port.onLine ∧ (makeRoom s).port.errorRun = s.port.errorRun
    ∧ (makeRoom s).port.silentSince = s.port.silentSince ∧ (makeRoom s).port.activeSince = s.port.activeSince
    ∧ (makeRoom s).retr.jobs = s.retr.jobs ∧ (makeRoom s).retr.answers = s.retr.answers
    ∧ (makeRoom s).year.rows = s.year.rows ∧ (makeRoom s).year.minutes = s.year.minutes
    ∧ (makeRoom s).year.fstops = s.year.fstops ∧ (makeRoom s).year.coldFiring = s.year.coldFiring
    ∧ (makeRoom s).year.totals = s.year.totals ∧ (makeRoom s).year.openYear = s.year.openYear
    ∧ (makeRoom s).year.resume = s.year.resume ∧ (makeRoom s).year.compareDue = s.year.compareDue := by
  simp only [makeRoom]; (repeat' split) <;> simp

@[simp] theorem appendRecord_fields (k : RecordKind) (start : Nat) (b : List Byte) (s : State) :
    (appendRecord k start b s).arch.flash = s.arch.flash ∧ (appendRecord k start b s).arch.op = s.arch.op
    ∧ (appendRecord k start b s).arch.own = s.arch.own ∧ (appendRecord k start b s).arch.parts = s.arch.parts
    ∧ (appendRecord k start b s).arch.requests = s.arch.requests
    ∧ (appendRecord k start b s).arch.latest = s.arch.latest
    ∧ (appendRecord k start b s).arch.failureRun = s.arch.failureRun
    ∧ (appendRecord k start b s).arch.state = s.arch.state
    ∧ (appendRecord k start b s).arch.roundRobin = s.arch.roundRobin
    ∧ (appendRecord k start b s).port.state = s.port.state ∧ (appendRecord k start b s).port.timeQ = s.port.timeQ
    ∧ (appendRecord k start b s).port.markQ = s.port.markQ ∧ (appendRecord k start b s).port.gapQ = s.port.gapQ
    ∧ (appendRecord k start b s).port.answerQ = s.port.answerQ
    ∧ (appendRecord k start b s).port.presenceQ = s.port.presenceQ
    ∧ (appendRecord k start b s).port.onLine = s.port.onLine
    ∧ (appendRecord k start b s).port.errorRun = s.port.errorRun
    ∧ (appendRecord k start b s).port.silentSince = s.port.silentSince
    ∧ (appendRecord k start b s).port.activeSince = s.port.activeSince
    ∧ (appendRecord k start b s).retr.jobs = s.retr.jobs ∧ (appendRecord k start b s).retr.answers = s.retr.answers
    ∧ (appendRecord k start b s).year.rows = s.year.rows ∧ (appendRecord k start b s).year.minutes = s.year.minutes
    ∧ (appendRecord k start b s).year.fstops = s.year.fstops
    ∧ (appendRecord k start b s).year.coldFiring = s.year.coldFiring
    ∧ (appendRecord k start b s).year.totals = s.year.totals
    ∧ (appendRecord k start b s).year.openYear = s.year.openYear
    ∧ (appendRecord k start b s).year.resume = s.year.resume
    ∧ (appendRecord k start b s).year.compareDue = s.year.compareDue := by
  simp only [appendRecord]; (repeat' split) <;> simp

@[simp] theorem startOwnProgram_fields (s : State) :
    (startOwnProgram s).arch.flash = s.arch.flash ∧ (startOwnProgram s).arch.own = s.arch.own
    ∧ (startOwnProgram s).arch.parts = s.arch.parts ∧ (startOwnProgram s).arch.requests = s.arch.requests
    ∧ (startOwnProgram s).arch.latest = s.arch.latest ∧ (startOwnProgram s).arch.failureRun = s.arch.failureRun
    ∧ (startOwnProgram s).arch.state = s.arch.state ∧ (startOwnProgram s).arch.roundRobin = s.arch.roundRobin
    ∧ (startOwnProgram s).arch.releaseTicket = s.arch.releaseTicket
    ∧ (startOwnProgram s).arch.abandoned = s.arch.abandoned := by
  simp only [startOwnProgram]; (repeat' split) <;> simp

@[simp] theorem startWitnessWork_fields (s : State) :
    (startWitnessWork s).arch.flash = s.arch.flash ∧ (startWitnessWork s).arch.own = s.arch.own
    ∧ (startWitnessWork s).arch.parts = s.arch.parts ∧ (startWitnessWork s).arch.outbound = s.arch.outbound
    ∧ (startWitnessWork s).arch.requests = s.arch.requests
    ∧ (startWitnessWork s).arch.lastAssigned = s.arch.lastAssigned ∧ (startWitnessWork s).arch.latest = s.arch.latest
    ∧ (startWitnessWork s).arch.failureRun = s.arch.failureRun ∧ (startWitnessWork s).arch.state = s.arch.state
    ∧ (startWitnessWork s).arch.releaseTicket = s.arch.releaseTicket
    ∧ (startWitnessWork s).arch.abandoned = s.arch.abandoned := by
  simp only [startWitnessWork]; (repeat' split) <;> simp

@[simp] theorem startByOrder_fields (s : State) :
    (startByOrder s).arch.flash = s.arch.flash ∧ (startByOrder s).arch.own = s.arch.own
    ∧ (startByOrder s).arch.parts = s.arch.parts ∧ (startByOrder s).arch.requests = s.arch.requests
    ∧ (startByOrder s).arch.latest = s.arch.latest ∧ (startByOrder s).arch.failureRun = s.arch.failureRun
    ∧ (startByOrder s).arch.state = s.arch.state ∧ (startByOrder s).arch.releaseTicket = s.arch.releaseTicket
    ∧ (startByOrder s).arch.abandoned = s.arch.abandoned := by
  simp only [startByOrder]; (repeat' split) <;> simp

@[simp] theorem startErase_fields (a : Area) (k : Nat) (s : State) :
    (startErase a k s).arch.flash = s.arch.flash ∧ (startErase a k s).arch.own = s.arch.own
    ∧ (startErase a k s).arch.parts = s.arch.parts ∧ (startErase a k s).arch.outbound = s.arch.outbound
    ∧ (startErase a k s).arch.requests = s.arch.requests ∧ (startErase a k s).arch.lastAssigned = s.arch.lastAssigned
    ∧ (startErase a k s).arch.latest = s.arch.latest ∧ (startErase a k s).arch.failureRun = s.arch.failureRun
    ∧ (startErase a k s).arch.state = s.arch.state ∧ (startErase a k s).arch.releaseTicket = s.arch.releaseTicket
    ∧ (startErase a k s).arch.abandoned = s.arch.abandoned ∧ (startErase a k s).arch.op = .erasing a k := by
  simp [startErase]

@[simp] theorem startOperation_fields (s : State) :
    (startOperation s).arch.flash = s.arch.flash ∧ (startOperation s).arch.own = s.arch.own
    ∧ (startOperation s).arch.parts = s.arch.parts ∧ (startOperation s).arch.requests = s.arch.requests
    ∧ (startOperation s).arch.latest = s.arch.latest ∧ (startOperation s).arch.failureRun = s.arch.failureRun
    ∧ (startOperation s).arch.state = s.arch.state ∧ (startOperation s).arch.releaseTicket = s.arch.releaseTicket := by
  unfold startOperation; split
  · simp
  · dsimp only; split <;> simp

@[simp] theorem programPage_fields (p : Nat) (b : List Byte) (good : Bool) (s : State) :
    (programPage p b good s).arch.op = s.arch.op ∧ (programPage p b good s).arch.own = s.arch.own
    ∧ (programPage p b good s).arch.parts = s.arch.parts ∧ (programPage p b good s).arch.outbound = s.arch.outbound
    ∧ (programPage p b good s).arch.requests = s.arch.requests
    ∧ (programPage p b good s).arch.lastAssigned = s.arch.lastAssigned
    ∧ (programPage p b good s).arch.latest = s.arch.latest
    ∧ (programPage p b good s).arch.failureRun = s.arch.failureRun
    ∧ (programPage p b good s).arch.state = s.arch.state
    ∧ (programPage p b good s).arch.roundRobin = s.arch.roundRobin
    ∧ (programPage p b good s).arch.releaseTicket = s.arch.releaseTicket
    ∧ (programPage p b good s).arch.abandoned = s.arch.abandoned := by
  simp only [programPage]; (repeat' split) <;> simp

@[simp] theorem putSector_fields (p : Nat) (b : List Byte) (s : State) :
    (putSector p b s).arch.op = s.arch.op ∧ (putSector p b s).arch.own = s.arch.own
    ∧ (putSector p b s).arch.parts = s.arch.parts ∧ (putSector p b s).arch.outbound = s.arch.outbound
    ∧ (putSector p b s).arch.requests = s.arch.requests ∧ (putSector p b s).arch.lastAssigned = s.arch.lastAssigned
    ∧ (putSector p b s).arch.latest = s.arch.latest ∧ (putSector p b s).arch.failureRun = s.arch.failureRun
    ∧ (putSector p b s).arch.state = s.arch.state ∧ (putSector p b s).arch.roundRobin = s.arch.roundRobin
    ∧ (putSector p b s).arch.releaseTicket = s.arch.releaseTicket
    ∧ (putSector p b s).arch.abandoned = s.arch.abandoned := by
  simp [putSector]

@[simp] theorem eraseSector_fields (p : Nat) (s : State) :
    (eraseSector p s).arch.op = s.arch.op ∧ (eraseSector p s).arch.own = s.arch.own
    ∧ (eraseSector p s).arch.parts = s.arch.parts ∧ (eraseSector p s).arch.outbound = s.arch.outbound
    ∧ (eraseSector p s).arch.requests = s.arch.requests ∧ (eraseSector p s).arch.lastAssigned = s.arch.lastAssigned
    ∧ (eraseSector p s).arch.latest = s.arch.latest ∧ (eraseSector p s).arch.failureRun = s.arch.failureRun
    ∧ (eraseSector p s).arch.state = s.arch.state ∧ (eraseSector p s).arch.roundRobin = s.arch.roundRobin
    ∧ (eraseSector p s).arch.releaseTicket = s.arch.releaseTicket
    ∧ (eraseSector p s).arch.abandoned = s.arch.abandoned := by
  simp [eraseSector]

@[simp] theorem abandonErase_fields (p : Nat) (s : State) :
    (abandonErase p s).arch.op = s.arch.op ∧ (abandonErase p s).arch.own = s.arch.own
    ∧ (abandonErase p s).arch.parts = s.arch.parts ∧ (abandonErase p s).arch.outbound = s.arch.outbound
    ∧ (abandonErase p s).arch.requests = s.arch.requests ∧ (abandonErase p s).arch.lastAssigned = s.arch.lastAssigned
    ∧ (abandonErase p s).arch.latest = s.arch.latest ∧ (abandonErase p s).arch.failureRun = s.arch.failureRun
    ∧ (abandonErase p s).arch.state = s.arch.state ∧ (abandonErase p s).arch.roundRobin = s.arch.roundRobin
    ∧ (abandonErase p s).arch.releaseTicket = s.arch.releaseTicket
    ∧ (abandonErase p s).arch.abandoned = s.arch.abandoned := by
  simp [abandonErase]

@[simp] theorem failErase_fields (p : Nat) (s : State) :
    (failErase p s).arch.op = s.arch.op ∧ (failErase p s).arch.own = s.arch.own
    ∧ (failErase p s).arch.parts = s.arch.parts ∧ (failErase p s).arch.outbound = s.arch.outbound
    ∧ (failErase p s).arch.requests = s.arch.requests ∧ (failErase p s).arch.lastAssigned = s.arch.lastAssigned
    ∧ (failErase p s).arch.latest = s.arch.latest ∧ (failErase p s).arch.failureRun = s.arch.failureRun
    ∧ (failErase p s).arch.state = s.arch.state ∧ (failErase p s).arch.roundRobin = s.arch.roundRobin
    ∧ (failErase p s).arch.releaseTicket = s.arch.releaseTicket
    ∧ (failErase p s).arch.abandoned = s.arch.abandoned := by
  simp [failErase]

@[simp] theorem addRequest_fields (r : Request) (s : State) :
    (addRequest r s).arch.flash = s.arch.flash ∧ (addRequest r s).arch.op = s.arch.op
    ∧ (addRequest r s).arch.own = s.arch.own ∧ (addRequest r s).arch.parts = s.arch.parts
    ∧ (addRequest r s).arch.outbound = s.arch.outbound ∧ (addRequest r s).arch.lastAssigned = s.arch.lastAssigned
    ∧ (addRequest r s).arch.latest = s.arch.latest ∧ (addRequest r s).arch.failureRun = s.arch.failureRun
    ∧ (addRequest r s).arch.state = s.arch.state ∧ (addRequest r s).arch.roundRobin = s.arch.roundRobin
    ∧ (addRequest r s).arch.releaseTicket = s.arch.releaseTicket
    ∧ (addRequest r s).arch.abandoned = s.arch.abandoned := by
  simp [addRequest]

@[simp] theorem startBackfill_fields (s : State) :
    (startBackfill s).arch.flash = s.arch.flash ∧ (startBackfill s).arch.op = s.arch.op
    ∧ (startBackfill s).arch.own = s.arch.own ∧ (startBackfill s).arch.parts = s.arch.parts
    ∧ (startBackfill s).arch.outbound = s.arch.outbound ∧ (startBackfill s).arch.lastAssigned = s.arch.lastAssigned
    ∧ (startBackfill s).arch.latest = s.arch.latest ∧ (startBackfill s).arch.failureRun = s.arch.failureRun
    ∧ (startBackfill s).arch.state = s.arch.state ∧ (startBackfill s).arch.roundRobin = s.arch.roundRobin
    ∧ (startBackfill s).arch.releaseTicket = s.arch.releaseTicket
    ∧ (startBackfill s).arch.abandoned = s.arch.abandoned ∧ (startBackfill s).wit.origins = s.wit.origins
    ∧ (startBackfill s).wit.jobs = s.wit.jobs ∧ (startBackfill s).wit.marks = s.wit.marks
    ∧ (startBackfill s).wit.secured = s.wit.secured ∧ (startBackfill s).wit.ownFloor = s.wit.ownFloor
    ∧ (startBackfill s).wit.yearStart = s.wit.yearStart ∧ (startBackfill s).wit.lagHoldoff = s.wit.lagHoldoff := by
  simp only [startBackfill]; (repeat' split) <;> simp

@[simp] theorem advanceBackfill_fields (s : State) :
    (advanceBackfill s).arch.flash = s.arch.flash ∧ (advanceBackfill s).arch.op = s.arch.op
    ∧ (advanceBackfill s).arch.own = s.arch.own ∧ (advanceBackfill s).arch.parts = s.arch.parts
    ∧ (advanceBackfill s).arch.outbound = s.arch.outbound
    ∧ (advanceBackfill s).arch.lastAssigned = s.arch.lastAssigned ∧ (advanceBackfill s).arch.latest = s.arch.latest
    ∧ (advanceBackfill s).arch.failureRun = s.arch.failureRun ∧ (advanceBackfill s).arch.state = s.arch.state
    ∧ (advanceBackfill s).arch.roundRobin = s.arch.roundRobin
    ∧ (advanceBackfill s).arch.releaseTicket = s.arch.releaseTicket
    ∧ (advanceBackfill s).arch.abandoned = s.arch.abandoned ∧ (advanceBackfill s).wit.origins = s.wit.origins
    ∧ (advanceBackfill s).wit.marks = s.wit.marks ∧ (advanceBackfill s).wit.secured = s.wit.secured
    ∧ (advanceBackfill s).wit.ownFloor = s.wit.ownFloor ∧ (advanceBackfill s).wit.yearStart = s.wit.yearStart
    ∧ (advanceBackfill s).wit.lagHoldoff = s.wit.lagHoldoff := by
  simp only [advanceBackfill]; (repeat' split) <;> simp

@[simp] theorem backfillResult_fields (r : Option Rec) (s : State) :
    (backfillResult r s).arch.flash = s.arch.flash ∧ (backfillResult r s).arch.op = s.arch.op
    ∧ (backfillResult r s).arch.own = s.arch.own ∧ (backfillResult r s).arch.parts = s.arch.parts
    ∧ (backfillResult r s).arch.outbound = s.arch.outbound
    ∧ (backfillResult r s).arch.lastAssigned = s.arch.lastAssigned ∧ (backfillResult r s).arch.latest = s.arch.latest
    ∧ (backfillResult r s).arch.failureRun = s.arch.failureRun ∧ (backfillResult r s).arch.state = s.arch.state
    ∧ (backfillResult r s).arch.roundRobin = s.arch.roundRobin
    ∧ (backfillResult r s).arch.releaseTicket = s.arch.releaseTicket
    ∧ (backfillResult r s).arch.abandoned = s.arch.abandoned
    ∧ (backfillResult r s).wit.origins = s.wit.origins ∧ (backfillResult r s).wit.marks = s.wit.marks
    ∧ (backfillResult r s).wit.secured = s.wit.secured ∧ (backfillResult r s).wit.ownFloor = s.wit.ownFloor
    ∧ (backfillResult r s).wit.yearStart = s.wit.yearStart ∧ (backfillResult r s).wit.lagHoldoff = s.wit.lagHoldoff
    ∧ (backfillResult r s).port.state = s.port.state ∧ (backfillResult r s).port.timeQ = s.port.timeQ
    ∧ (backfillResult r s).port.recordQ = s.port.recordQ ∧ (backfillResult r s).port.markQ = s.port.markQ
    ∧ (backfillResult r s).port.gapQ = s.port.gapQ ∧ (backfillResult r s).port.answerQ = s.port.answerQ
    ∧ (backfillResult r s).port.presenceQ = s.port.presenceQ ∧ (backfillResult r s).port.onLine = s.port.onLine
    ∧ (backfillResult r s).port.errorRun = s.port.errorRun
    ∧ (backfillResult r s).port.silentSince = s.port.silentSince
    ∧ (backfillResult r s).port.activeSince = s.port.activeSince := by
  simp only [backfillResult]; (repeat' split) <;> simp

@[simp] theorem setJob_fields (j : Job) (s : State) :
    (setJob j s).retr.answers = s.retr.answers ∧ (setJob j s).retr.flags = s.retr.flags := by
  simp [setJob]

@[simp] theorem jobReady_fields (j : Job) (x : Answer) (b : Bool) (s : State) :
    (jobReady j x b s).retr.answers = s.retr.answers ∧ (jobReady j x b s).retr.flags = s.retr.flags
    ∧ (jobReady j x b s).port.state = s.port.state ∧ (jobReady j x b s).port.timeQ = s.port.timeQ
    ∧ (jobReady j x b s).port.recordQ = s.port.recordQ ∧ (jobReady j x b s).port.markQ = s.port.markQ
    ∧ (jobReady j x b s).port.gapQ = s.port.gapQ ∧ (jobReady j x b s).port.answerQ = s.port.answerQ
    ∧ (jobReady j x b s).port.presenceQ = s.port.presenceQ ∧ (jobReady j x b s).port.onLine = s.port.onLine
    ∧ (jobReady j x b s).port.errorRun = s.port.errorRun ∧ (jobReady j x b s).port.silentSince = s.port.silentSince
    ∧ (jobReady j x b s).port.activeSince = s.port.activeSince := by
  simp [jobReady]

@[simp] theorem workJob_fields (j : Job) (s : State) :
    (workJob j s).arch.flash = s.arch.flash ∧ (workJob j s).arch.op = s.arch.op ∧ (workJob j s).arch.own = s.arch.own
    ∧ (workJob j s).arch.parts = s.arch.parts ∧ (workJob j s).arch.outbound = s.arch.outbound
    ∧ (workJob j s).arch.lastAssigned = s.arch.lastAssigned ∧ (workJob j s).arch.latest = s.arch.latest
    ∧ (workJob j s).arch.failureRun = s.arch.failureRun ∧ (workJob j s).arch.state = s.arch.state
    ∧ (workJob j s).arch.roundRobin = s.arch.roundRobin ∧ (workJob j s).arch.releaseTicket = s.arch.releaseTicket
    ∧ (workJob j s).arch.abandoned = s.arch.abandoned
    ∧ (workJob j s).retr.answers = s.retr.answers ∧ (workJob j s).retr.flags = s.retr.flags
    ∧ (workJob j s).port.state = s.port.state ∧ (workJob j s).port.timeQ = s.port.timeQ
    ∧ (workJob j s).port.recordQ = s.port.recordQ ∧ (workJob j s).port.markQ = s.port.markQ
    ∧ (workJob j s).port.gapQ = s.port.gapQ ∧ (workJob j s).port.answerQ = s.port.answerQ
    ∧ (workJob j s).port.presenceQ = s.port.presenceQ ∧ (workJob j s).port.onLine = s.port.onLine
    ∧ (workJob j s).port.errorRun = s.port.errorRun ∧ (workJob j s).port.silentSince = s.port.silentSince
    ∧ (workJob j s).port.activeSince = s.port.activeSince := by
  simp only [workJob]; (repeat' split) <;> simp

@[simp] theorem jobResult_fields (n : Nat) (r : Option Rec) (s : State) :
    (jobResult n r s).arch.flash = s.arch.flash ∧ (jobResult n r s).arch.op = s.arch.op
    ∧ (jobResult n r s).arch.own = s.arch.own ∧ (jobResult n r s).arch.parts = s.arch.parts
    ∧ (jobResult n r s).arch.outbound = s.arch.outbound ∧ (jobResult n r s).arch.lastAssigned = s.arch.lastAssigned
    ∧ (jobResult n r s).arch.latest = s.arch.latest ∧ (jobResult n r s).arch.failureRun = s.arch.failureRun
    ∧ (jobResult n r s).arch.state = s.arch.state ∧ (jobResult n r s).arch.roundRobin = s.arch.roundRobin
    ∧ (jobResult n r s).arch.releaseTicket = s.arch.releaseTicket
    ∧ (jobResult n r s).arch.abandoned = s.arch.abandoned ∧ (jobResult n r s).retr.answers = s.retr.answers
    ∧ (jobResult n r s).retr.flags = s.retr.flags ∧ (jobResult n r s).port.state = s.port.state
    ∧ (jobResult n r s).port.timeQ = s.port.timeQ ∧ (jobResult n r s).port.recordQ = s.port.recordQ
    ∧ (jobResult n r s).port.markQ = s.port.markQ ∧ (jobResult n r s).port.gapQ = s.port.gapQ
    ∧ (jobResult n r s).port.answerQ = s.port.answerQ ∧ (jobResult n r s).port.presenceQ = s.port.presenceQ
    ∧ (jobResult n r s).port.onLine = s.port.onLine ∧ (jobResult n r s).port.errorRun = s.port.errorRun
    ∧ (jobResult n r s).port.silentSince = s.port.silentSince
    ∧ (jobResult n r s).port.activeSince = s.port.activeSince := by
  simp only [jobResult]; (repeat' split) <;> simp

@[simp] theorem removeJob_fields (n : Nat) (s : State) :
    (removeJob n s).arch.flash = s.arch.flash ∧ (removeJob n s).arch.op = s.arch.op
    ∧ (removeJob n s).arch.own = s.arch.own ∧ (removeJob n s).arch.parts = s.arch.parts
    ∧ (removeJob n s).arch.outbound = s.arch.outbound ∧ (removeJob n s).arch.lastAssigned = s.arch.lastAssigned
    ∧ (removeJob n s).arch.latest = s.arch.latest ∧ (removeJob n s).arch.failureRun = s.arch.failureRun
    ∧ (removeJob n s).arch.state = s.arch.state ∧ (removeJob n s).arch.roundRobin = s.arch.roundRobin
    ∧ (removeJob n s).arch.releaseTicket = s.arch.releaseTicket
    ∧ (removeJob n s).arch.abandoned = s.arch.abandoned ∧ (removeJob n s).retr.answers = s.retr.answers
    ∧ (removeJob n s).retr.flags = s.retr.flags := by
  simp [removeJob]

@[simp] theorem afterPlaced_fields (j : Job) (x : Answer) (b : Bool) (s : State) :
    (afterPlaced j x b s).arch.flash = s.arch.flash ∧ (afterPlaced j x b s).arch.op = s.arch.op
    ∧ (afterPlaced j x b s).arch.own = s.arch.own ∧ (afterPlaced j x b s).arch.parts = s.arch.parts
    ∧ (afterPlaced j x b s).arch.outbound = s.arch.outbound
    ∧ (afterPlaced j x b s).arch.lastAssigned = s.arch.lastAssigned
    ∧ (afterPlaced j x b s).arch.latest = s.arch.latest ∧ (afterPlaced j x b s).arch.failureRun = s.arch.failureRun
    ∧ (afterPlaced j x b s).arch.state = s.arch.state ∧ (afterPlaced j x b s).arch.roundRobin = s.arch.roundRobin
    ∧ (afterPlaced j x b s).arch.releaseTicket = s.arch.releaseTicket
    ∧ (afterPlaced j x b s).arch.abandoned = s.arch.abandoned
    ∧ (afterPlaced j x b s).retr.answers = s.retr.answers ∧ (afterPlaced j x b s).retr.flags = s.retr.flags
    ∧ (afterPlaced j x b s).port.state = s.port.state ∧ (afterPlaced j x b s).port.timeQ = s.port.timeQ
    ∧ (afterPlaced j x b s).port.recordQ = s.port.recordQ ∧ (afterPlaced j x b s).port.markQ = s.port.markQ
    ∧ (afterPlaced j x b s).port.gapQ = s.port.gapQ ∧ (afterPlaced j x b s).port.answerQ = s.port.answerQ
    ∧ (afterPlaced j x b s).port.presenceQ = s.port.presenceQ ∧ (afterPlaced j x b s).port.onLine = s.port.onLine
    ∧ (afterPlaced j x b s).port.errorRun = s.port.errorRun
    ∧ (afterPlaced j x b s).port.silentSince = s.port.silentSince
    ∧ (afterPlaced j x b s).port.activeSince = s.port.activeSince := by
  simp only [afterPlaced]; (repeat' split) <;> simp

@[simp] theorem foldl_workJob_fields (l : List Job) : ∀ s : State,
    (l.foldl (fun t j => workJob j t) s).arch.flash = s.arch.flash
    ∧ (l.foldl (fun t j => workJob j t) s).arch.op = s.arch.op
    ∧ (l.foldl (fun t j => workJob j t) s).arch.own = s.arch.own
    ∧ (l.foldl (fun t j => workJob j t) s).arch.parts = s.arch.parts
    ∧ (l.foldl (fun t j => workJob j t) s).arch.outbound = s.arch.outbound
    ∧ (l.foldl (fun t j => workJob j t) s).arch.lastAssigned = s.arch.lastAssigned
    ∧ (l.foldl (fun t j => workJob j t) s).arch.latest = s.arch.latest
    ∧ (l.foldl (fun t j => workJob j t) s).arch.failureRun = s.arch.failureRun
    ∧ (l.foldl (fun t j => workJob j t) s).arch.state = s.arch.state
    ∧ (l.foldl (fun t j => workJob j t) s).arch.roundRobin = s.arch.roundRobin
    ∧ (l.foldl (fun t j => workJob j t) s).arch.releaseTicket = s.arch.releaseTicket
    ∧ (l.foldl (fun t j => workJob j t) s).arch.abandoned = s.arch.abandoned
    ∧ (l.foldl (fun t j => workJob j t) s).retr.answers = s.retr.answers
    ∧ (l.foldl (fun t j => workJob j t) s).retr.flags = s.retr.flags
    ∧ (l.foldl (fun t j => workJob j t) s).port.state = s.port.state
    ∧ (l.foldl (fun t j => workJob j t) s).port.timeQ = s.port.timeQ
    ∧ (l.foldl (fun t j => workJob j t) s).port.recordQ = s.port.recordQ
    ∧ (l.foldl (fun t j => workJob j t) s).port.markQ = s.port.markQ
    ∧ (l.foldl (fun t j => workJob j t) s).port.gapQ = s.port.gapQ
    ∧ (l.foldl (fun t j => workJob j t) s).port.answerQ = s.port.answerQ
    ∧ (l.foldl (fun t j => workJob j t) s).port.presenceQ = s.port.presenceQ
    ∧ (l.foldl (fun t j => workJob j t) s).port.onLine = s.port.onLine
    ∧ (l.foldl (fun t j => workJob j t) s).port.errorRun = s.port.errorRun
    ∧ (l.foldl (fun t j => workJob j t) s).port.silentSince = s.port.silentSince
    ∧ (l.foldl (fun t j => workJob j t) s).port.activeSince = s.port.activeSince := by
  induction l with
  | nil => simp
  | cons j r ih => intro s; simpa using ih (workJob j s)

@[simp] theorem wakeFollows_fields (n : Nat) (s : State) :
    (wakeFollows n s).arch.flash = s.arch.flash ∧ (wakeFollows n s).arch.op = s.arch.op
    ∧ (wakeFollows n s).arch.own = s.arch.own ∧ (wakeFollows n s).arch.parts = s.arch.parts
    ∧ (wakeFollows n s).arch.outbound = s.arch.outbound ∧ (wakeFollows n s).arch.lastAssigned = s.arch.lastAssigned
    ∧ (wakeFollows n s).arch.latest = s.arch.latest ∧ (wakeFollows n s).arch.failureRun = s.arch.failureRun
    ∧ (wakeFollows n s).arch.state = s.arch.state ∧ (wakeFollows n s).arch.roundRobin = s.arch.roundRobin
    ∧ (wakeFollows n s).arch.releaseTicket = s.arch.releaseTicket
    ∧ (wakeFollows n s).arch.abandoned = s.arch.abandoned ∧ (wakeFollows n s).retr.answers = s.retr.answers
    ∧ (wakeFollows n s).retr.flags = s.retr.flags ∧ (wakeFollows n s).port.state = s.port.state
    ∧ (wakeFollows n s).port.timeQ = s.port.timeQ ∧ (wakeFollows n s).port.recordQ = s.port.recordQ
    ∧ (wakeFollows n s).port.markQ = s.port.markQ ∧ (wakeFollows n s).port.gapQ = s.port.gapQ
    ∧ (wakeFollows n s).port.answerQ = s.port.answerQ ∧ (wakeFollows n s).port.presenceQ = s.port.presenceQ
    ∧ (wakeFollows n s).port.onLine = s.port.onLine ∧ (wakeFollows n s).port.errorRun = s.port.errorRun
    ∧ (wakeFollows n s).port.silentSince = s.port.silentSince
    ∧ (wakeFollows n s).port.activeSince = s.port.activeSince := by
  simp [wakeFollows]

@[simp] theorem addAnswer_fields (n : Nat) (tag : BitVec 8) (b : PendingBody) (s : State) :
    (addAnswer n tag b s).retr.jobs = s.retr.jobs ∧ (addAnswer n tag b s).retr.flags = s.retr.flags
    ∧ (addAnswer n tag b s).port.state = s.port.state ∧ (addAnswer n tag b s).port.timeQ = s.port.timeQ
    ∧ (addAnswer n tag b s).port.recordQ = s.port.recordQ ∧ (addAnswer n tag b s).port.markQ = s.port.markQ
    ∧ (addAnswer n tag b s).port.gapQ = s.port.gapQ ∧ (addAnswer n tag b s).port.answerQ = s.port.answerQ
    ∧ (addAnswer n tag b s).port.presenceQ = s.port.presenceQ ∧ (addAnswer n tag b s).port.onLine = s.port.onLine
    ∧ (addAnswer n tag b s).port.errorRun = s.port.errorRun
    ∧ (addAnswer n tag b s).port.silentSince = s.port.silentSince
    ∧ (addAnswer n tag b s).port.activeSince = s.port.activeSince := by
  simp [addAnswer]

@[simp] theorem formGap_fields (p : Nat) (s : State) :
    (formGap p s).wit.jobs = s.wit.jobs ∧ (formGap p s).wit.work = s.wit.work ∧ (formGap p s).wit.marks = s.wit.marks
    ∧ (formGap p s).wit.secured = s.wit.secured ∧ (formGap p s).wit.ownFloor = s.wit.ownFloor
    ∧ (formGap p s).wit.yearStart = s.wit.yearStart ∧ (formGap p s).wit.lagHoldoff = s.wit.lagHoldoff
    ∧ (formGap p s).port.state = s.port.state ∧ (formGap p s).port.timeQ = s.port.timeQ
    ∧ (formGap p s).port.recordQ = s.port.recordQ ∧ (formGap p s).port.markQ = s.port.markQ
    ∧ (formGap p s).port.answerQ = s.port.answerQ ∧ (formGap p s).port.presenceQ = s.port.presenceQ
    ∧ (formGap p s).port.onLine = s.port.onLine ∧ (formGap p s).port.errorRun = s.port.errorRun
    ∧ (formGap p s).port.silentSince = s.port.silentSince ∧ (formGap p s).port.activeSince = s.port.activeSince := by
  simp only [formGap]; (repeat' split) <;> simp

@[simp] theorem testGaps_fields (s : State) :
    (testGaps s).wit.jobs = s.wit.jobs ∧ (testGaps s).wit.work = s.wit.work ∧ (testGaps s).wit.marks = s.wit.marks
    ∧ (testGaps s).wit.secured = s.wit.secured ∧ (testGaps s).wit.ownFloor = s.wit.ownFloor
    ∧ (testGaps s).wit.yearStart = s.wit.yearStart ∧ (testGaps s).wit.lagHoldoff = s.wit.lagHoldoff
    ∧ (testGaps s).port.state = s.port.state ∧ (testGaps s).port.timeQ = s.port.timeQ
    ∧ (testGaps s).port.recordQ = s.port.recordQ ∧ (testGaps s).port.markQ = s.port.markQ
    ∧ (testGaps s).port.answerQ = s.port.answerQ ∧ (testGaps s).port.presenceQ = s.port.presenceQ
    ∧ (testGaps s).port.onLine = s.port.onLine ∧ (testGaps s).port.errorRun = s.port.errorRun
    ∧ (testGaps s).port.silentSince = s.port.silentSince ∧ (testGaps s).port.activeSince = s.port.activeSince := by
  simp [testGaps]

@[simp] theorem floorJump_fields (p : Nat) (s : State) :
    (floorJump p s).wit.jobs = s.wit.jobs ∧ (floorJump p s).wit.work = s.wit.work
    ∧ (floorJump p s).wit.marks = s.wit.marks ∧ (floorJump p s).wit.secured = s.wit.secured
    ∧ (floorJump p s).wit.ownFloor = s.wit.ownFloor ∧ (floorJump p s).wit.yearStart = s.wit.yearStart
    ∧ (floorJump p s).wit.lagHoldoff = s.wit.lagHoldoff ∧ (floorJump p s).year.rows = s.year.rows
    ∧ (floorJump p s).year.minutes = s.year.minutes ∧ (floorJump p s).year.fstops = s.year.fstops
    ∧ (floorJump p s).year.coldFiring = s.year.coldFiring ∧ (floorJump p s).year.totals = s.year.totals
    ∧ (floorJump p s).year.openYear = s.year.openYear ∧ (floorJump p s).year.resume = s.year.resume
    ∧ (floorJump p s).year.compareDue = s.year.compareDue ∧ (floorJump p s).arch.flash = s.arch.flash
    ∧ (floorJump p s).arch.op = s.arch.op ∧ (floorJump p s).arch.own = s.arch.own
    ∧ (floorJump p s).arch.parts = s.arch.parts ∧ (floorJump p s).arch.outbound = s.arch.outbound
    ∧ (floorJump p s).arch.lastAssigned = s.arch.lastAssigned ∧ (floorJump p s).arch.latest = s.arch.latest
    ∧ (floorJump p s).arch.failureRun = s.arch.failureRun ∧ (floorJump p s).arch.state = s.arch.state
    ∧ (floorJump p s).arch.roundRobin = s.arch.roundRobin ∧ (floorJump p s).arch.releaseTicket = s.arch.releaseTicket
    ∧ (floorJump p s).arch.abandoned = s.arch.abandoned
    ∧ (floorJump p s).retr.answers = s.retr.answers ∧ (floorJump p s).retr.flags = s.retr.flags
    ∧ (floorJump p s).port.state = s.port.state ∧ (floorJump p s).port.timeQ = s.port.timeQ
    ∧ (floorJump p s).port.recordQ = s.port.recordQ ∧ (floorJump p s).port.markQ = s.port.markQ
    ∧ (floorJump p s).port.gapQ = s.port.gapQ ∧ (floorJump p s).port.answerQ = s.port.answerQ
    ∧ (floorJump p s).port.presenceQ = s.port.presenceQ ∧ (floorJump p s).port.onLine = s.port.onLine
    ∧ (floorJump p s).port.errorRun = s.port.errorRun ∧ (floorJump p s).port.silentSince = s.port.silentSince
    ∧ (floorJump p s).port.activeSince = s.port.activeSince := by
  simp only [floorJump]; (repeat' split) <;> simp

@[simp] theorem reportHeld_fields (o : Origin) (s : State) :
    (reportHeld o s).wit.jobs = s.wit.jobs ∧ (reportHeld o s).wit.work = s.wit.work
    ∧ (reportHeld o s).wit.marks = s.wit.marks ∧ (reportHeld o s).wit.secured = s.wit.secured
    ∧ (reportHeld o s).wit.ownFloor = s.wit.ownFloor ∧ (reportHeld o s).wit.yearStart = s.wit.yearStart
    ∧ (reportHeld o s).wit.lagHoldoff = s.wit.lagHoldoff ∧ (reportHeld o s).year.rows = s.year.rows
    ∧ (reportHeld o s).year.minutes = s.year.minutes ∧ (reportHeld o s).year.fstops = s.year.fstops
    ∧ (reportHeld o s).year.coldFiring = s.year.coldFiring ∧ (reportHeld o s).year.totals = s.year.totals
    ∧ (reportHeld o s).year.openYear = s.year.openYear ∧ (reportHeld o s).year.resume = s.year.resume
    ∧ (reportHeld o s).year.compareDue = s.year.compareDue ∧ (reportHeld o s).arch.flash = s.arch.flash
    ∧ (reportHeld o s).arch.op = s.arch.op ∧ (reportHeld o s).arch.own = s.arch.own
    ∧ (reportHeld o s).arch.parts = s.arch.parts ∧ (reportHeld o s).arch.outbound = s.arch.outbound
    ∧ (reportHeld o s).arch.lastAssigned = s.arch.lastAssigned ∧ (reportHeld o s).arch.latest = s.arch.latest
    ∧ (reportHeld o s).arch.failureRun = s.arch.failureRun ∧ (reportHeld o s).arch.state = s.arch.state
    ∧ (reportHeld o s).arch.roundRobin = s.arch.roundRobin ∧ (reportHeld o s).arch.releaseTicket = s.arch.releaseTicket
    ∧ (reportHeld o s).arch.abandoned = s.arch.abandoned
    ∧ (reportHeld o s).retr.answers = s.retr.answers ∧ (reportHeld o s).retr.flags = s.retr.flags
    ∧ (reportHeld o s).port.state = s.port.state ∧ (reportHeld o s).port.timeQ = s.port.timeQ
    ∧ (reportHeld o s).port.recordQ = s.port.recordQ ∧ (reportHeld o s).port.markQ = s.port.markQ
    ∧ (reportHeld o s).port.gapQ = s.port.gapQ ∧ (reportHeld o s).port.answerQ = s.port.answerQ
    ∧ (reportHeld o s).port.presenceQ = s.port.presenceQ ∧ (reportHeld o s).port.onLine = s.port.onLine
    ∧ (reportHeld o s).port.errorRun = s.port.errorRun ∧ (reportHeld o s).port.silentSince = s.port.silentSince
    ∧ (reportHeld o s).port.activeSince = s.port.activeSince := by
  simp only [reportHeld]; (repeat' split) <;> simp

@[simp] theorem lagTest_fields (s : State) :
    (lagTest s).retr.jobs = s.retr.jobs ∧ (lagTest s).retr.answers = s.retr.answers := by
  simp [lagTest]

@[simp] theorem serveOne_fields (s : State) :
    (serveOne s).arch.flash = s.arch.flash ∧ (serveOne s).arch.op = s.arch.op ∧ (serveOne s).arch.own = s.arch.own
    ∧ (serveOne s).arch.parts = s.arch.parts ∧ (serveOne s).arch.outbound = s.arch.outbound
    ∧ (serveOne s).arch.lastAssigned = s.arch.lastAssigned ∧ (serveOne s).arch.latest = s.arch.latest
    ∧ (serveOne s).arch.failureRun = s.arch.failureRun ∧ (serveOne s).arch.state = s.arch.state
    ∧ (serveOne s).arch.roundRobin = s.arch.roundRobin ∧ (serveOne s).arch.releaseTicket = s.arch.releaseTicket
    ∧ (serveOne s).arch.abandoned = s.arch.abandoned
    ∧ (serveOne s).wit.origins = s.wit.origins ∧ (serveOne s).wit.marks = s.wit.marks
    ∧ (serveOne s).wit.secured = s.wit.secured ∧ (serveOne s).wit.ownFloor = s.wit.ownFloor
    ∧ (serveOne s).wit.yearStart = s.wit.yearStart ∧ (serveOne s).wit.lagHoldoff = s.wit.lagHoldoff
    ∧ (serveOne s).retr.answers = s.retr.answers ∧ (serveOne s).retr.flags = s.retr.flags
    ∧ (serveOne s).port.state = s.port.state ∧ (serveOne s).port.timeQ = s.port.timeQ
    ∧ (serveOne s).port.recordQ = s.port.recordQ ∧ (serveOne s).port.markQ = s.port.markQ
    ∧ (serveOne s).port.gapQ = s.port.gapQ ∧ (serveOne s).port.answerQ = s.port.answerQ
    ∧ (serveOne s).port.presenceQ = s.port.presenceQ ∧ (serveOne s).port.onLine = s.port.onLine
    ∧ (serveOne s).port.errorRun = s.port.errorRun ∧ (serveOne s).port.silentSince = s.port.silentSince
    ∧ (serveOne s).port.activeSince = s.port.activeSince := by
  simp only [serveOne]; (repeat' split) <;> simp

@[simp] theorem serveReads_fields (n : Nat) : ∀ s : State,
    (serveReads n s).arch.flash = s.arch.flash ∧ (serveReads n s).arch.op = s.arch.op
    ∧ (serveReads n s).arch.own = s.arch.own ∧ (serveReads n s).arch.parts = s.arch.parts
    ∧ (serveReads n s).arch.outbound = s.arch.outbound ∧ (serveReads n s).arch.lastAssigned = s.arch.lastAssigned
    ∧ (serveReads n s).arch.latest = s.arch.latest ∧ (serveReads n s).arch.failureRun = s.arch.failureRun
    ∧ (serveReads n s).arch.state = s.arch.state ∧ (serveReads n s).arch.roundRobin = s.arch.roundRobin
    ∧ (serveReads n s).arch.releaseTicket = s.arch.releaseTicket
    ∧ (serveReads n s).arch.abandoned = s.arch.abandoned ∧ (serveReads n s).wit.origins = s.wit.origins
    ∧ (serveReads n s).wit.marks = s.wit.marks ∧ (serveReads n s).wit.secured = s.wit.secured
    ∧ (serveReads n s).wit.ownFloor = s.wit.ownFloor ∧ (serveReads n s).wit.yearStart = s.wit.yearStart
    ∧ (serveReads n s).wit.lagHoldoff = s.wit.lagHoldoff ∧ (serveReads n s).retr.answers = s.retr.answers
    ∧ (serveReads n s).retr.flags = s.retr.flags ∧ (serveReads n s).port.state = s.port.state
    ∧ (serveReads n s).port.timeQ = s.port.timeQ ∧ (serveReads n s).port.recordQ = s.port.recordQ
    ∧ (serveReads n s).port.markQ = s.port.markQ ∧ (serveReads n s).port.gapQ = s.port.gapQ
    ∧ (serveReads n s).port.answerQ = s.port.answerQ ∧ (serveReads n s).port.presenceQ = s.port.presenceQ
    ∧ (serveReads n s).port.onLine = s.port.onLine ∧ (serveReads n s).port.errorRun = s.port.errorRun
    ∧ (serveReads n s).port.silentSince = s.port.silentSince ∧ (serveReads n s).port.activeSince = s.port.activeSince := by
  induction n with
  | zero => intro s; simp [serveReads]
  | succ n ih =>
    intro s
    simp only [serveReads]
    split
    · simp
    · simpa using ih (serveOne s)

@[simp] theorem flashIdle_fields (s : State) :
    (flashIdle s).arch.flash = s.arch.flash ∧ (flashIdle s).arch.own = s.arch.own
    ∧ (flashIdle s).arch.parts = s.arch.parts ∧ (flashIdle s).arch.latest = s.arch.latest
    ∧ (flashIdle s).arch.failureRun = s.arch.failureRun ∧ (flashIdle s).arch.state = s.arch.state
    ∧ (flashIdle s).arch.releaseTicket = s.arch.releaseTicket ∧ (flashIdle s).wit.origins = s.wit.origins
    ∧ (flashIdle s).wit.marks = s.wit.marks ∧ (flashIdle s).wit.secured = s.wit.secured
    ∧ (flashIdle s).wit.ownFloor = s.wit.ownFloor ∧ (flashIdle s).wit.yearStart = s.wit.yearStart
    ∧ (flashIdle s).wit.lagHoldoff = s.wit.lagHoldoff ∧ (flashIdle s).retr.answers = s.retr.answers
    ∧ (flashIdle s).retr.flags = s.retr.flags ∧ (flashIdle s).port.state = s.port.state
    ∧ (flashIdle s).port.timeQ = s.port.timeQ ∧ (flashIdle s).port.recordQ = s.port.recordQ
    ∧ (flashIdle s).port.markQ = s.port.markQ ∧ (flashIdle s).port.gapQ = s.port.gapQ
    ∧ (flashIdle s).port.answerQ = s.port.answerQ ∧ (flashIdle s).port.presenceQ = s.port.presenceQ
    ∧ (flashIdle s).port.onLine = s.port.onLine ∧ (flashIdle s).port.errorRun = s.port.errorRun
    ∧ (flashIdle s).port.silentSince = s.port.silentSince ∧ (flashIdle s).port.activeSince = s.port.activeSince := by
  simp only [flashIdle]; (repeat' split) <;> simp

@[simp] theorem programFailed_fields (s : State) :
    (programFailed s).arch.flash = s.arch.flash ∧ (programFailed s).arch.op = s.arch.op
    ∧ (programFailed s).arch.own = s.arch.own ∧ (programFailed s).arch.parts = s.arch.parts
    ∧ (programFailed s).arch.outbound = s.arch.outbound ∧ (programFailed s).arch.requests = s.arch.requests
    ∧ (programFailed s).arch.lastAssigned = s.arch.lastAssigned ∧ (programFailed s).arch.latest = s.arch.latest
    ∧ (programFailed s).arch.roundRobin = s.arch.roundRobin
    ∧ (programFailed s).arch.releaseTicket = s.arch.releaseTicket
    ∧ (programFailed s).arch.abandoned = s.arch.abandoned ∧ (programFailed s).retr.jobs = s.retr.jobs
    ∧ (programFailed s).retr.answers = s.retr.answers ∧ (programFailed s).year.rows = s.year.rows
    ∧ (programFailed s).year.minutes = s.year.minutes ∧ (programFailed s).year.fstops = s.year.fstops
    ∧ (programFailed s).year.coldFiring = s.year.coldFiring ∧ (programFailed s).year.totals = s.year.totals
    ∧ (programFailed s).year.openYear = s.year.openYear ∧ (programFailed s).year.resume = s.year.resume
    ∧ (programFailed s).year.compareDue = s.year.compareDue := by
  simp only [programFailed]; (repeat' split) <;> simp

@[simp] theorem ringAfterProgram_fields (a : Area) (good : Bool) (r : Rec) (s : State) :
    (ringAfterProgram a good r s).arch.flash = s.arch.flash ∧ (ringAfterProgram a good r s).arch.op = s.arch.op
    ∧ (ringAfterProgram a good r s).arch.outbound = s.arch.outbound
    ∧ (ringAfterProgram a good r s).arch.requests = s.arch.requests
    ∧ (ringAfterProgram a good r s).arch.lastAssigned = s.arch.lastAssigned
    ∧ (ringAfterProgram a good r s).arch.latest = s.arch.latest
    ∧ (ringAfterProgram a good r s).arch.failureRun = s.arch.failureRun
    ∧ (ringAfterProgram a good r s).arch.state = s.arch.state
    ∧ (ringAfterProgram a good r s).arch.roundRobin = s.arch.roundRobin
    ∧ (ringAfterProgram a good r s).arch.releaseTicket = s.arch.releaseTicket
    ∧ (ringAfterProgram a good r s).arch.abandoned = s.arch.abandoned := by
  simp [ringAfterProgram]

@[simp] theorem ownArchived_fields (r : Rec) (s : State) :
    (ownArchived r s).wit.origins = s.wit.origins ∧ (ownArchived r s).wit.jobs = s.wit.jobs
    ∧ (ownArchived r s).wit.work = s.wit.work ∧ (ownArchived r s).wit.marks = s.wit.marks
    ∧ (ownArchived r s).wit.secured = s.wit.secured ∧ (ownArchived r s).wit.ownFloor = s.wit.ownFloor
    ∧ (ownArchived r s).wit.lagHoldoff = s.wit.lagHoldoff ∧ (ownArchived r s).retr.jobs = s.retr.jobs
    ∧ (ownArchived r s).retr.answers = s.retr.answers := by
  simp only [ownArchived]; (repeat' split) <;> simp

@[simp] theorem ownProgramEnd_fields (good : Bool) (s : State) :
    (ownProgramEnd good s).arch.lastAssigned = s.arch.lastAssigned
    ∧ (ownProgramEnd good s).arch.roundRobin = s.arch.roundRobin ∧ (ownProgramEnd good s).wit.origins = s.wit.origins
    ∧ (ownProgramEnd good s).wit.jobs = s.wit.jobs ∧ (ownProgramEnd good s).wit.work = s.wit.work
    ∧ (ownProgramEnd good s).wit.marks = s.wit.marks ∧ (ownProgramEnd good s).wit.secured = s.wit.secured
    ∧ (ownProgramEnd good s).wit.ownFloor = s.wit.ownFloor ∧ (ownProgramEnd good s).wit.lagHoldoff = s.wit.lagHoldoff
    ∧ (ownProgramEnd good s).retr.answers = s.retr.answers ∧ (ownProgramEnd good s).port.state = s.port.state
    ∧ (ownProgramEnd good s).port.timeQ = s.port.timeQ ∧ (ownProgramEnd good s).port.recordQ = s.port.recordQ
    ∧ (ownProgramEnd good s).port.markQ = s.port.markQ ∧ (ownProgramEnd good s).port.gapQ = s.port.gapQ
    ∧ (ownProgramEnd good s).port.answerQ = s.port.answerQ ∧ (ownProgramEnd good s).port.presenceQ = s.port.presenceQ
    ∧ (ownProgramEnd good s).port.onLine = s.port.onLine ∧ (ownProgramEnd good s).port.errorRun = s.port.errorRun
    ∧ (ownProgramEnd good s).port.silentSince = s.port.silentSince
    ∧ (ownProgramEnd good s).port.activeSince = s.port.activeSince ∧ (ownProgramEnd good s).year.rows = s.year.rows
    ∧ (ownProgramEnd good s).year.minutes = s.year.minutes ∧ (ownProgramEnd good s).year.fstops = s.year.fstops
    ∧ (ownProgramEnd good s).year.coldFiring = s.year.coldFiring ∧ (ownProgramEnd good s).year.totals = s.year.totals
    ∧ (ownProgramEnd good s).year.openYear = s.year.openYear ∧ (ownProgramEnd good s).year.resume = s.year.resume
    ∧ (ownProgramEnd good s).year.compareDue = s.year.compareDue := by
  simp only [ownProgramEnd]; (repeat' split) <;> simp

@[simp] theorem partProgramEnd_fields (p : Nat) (good : Bool) (s : State) :
    (partProgramEnd p good s).arch.outbound = s.arch.outbound
    ∧ (partProgramEnd p good s).arch.lastAssigned = s.arch.lastAssigned
    ∧ (partProgramEnd p good s).arch.latest = s.arch.latest
    ∧ (partProgramEnd p good s).arch.roundRobin = s.arch.roundRobin
    ∧ (partProgramEnd p good s).arch.releaseTicket = s.arch.releaseTicket
    ∧ (partProgramEnd p good s).arch.abandoned = s.arch.abandoned
    ∧ (partProgramEnd p good s).wit.jobs = s.wit.jobs ∧ (partProgramEnd p good s).wit.work = s.wit.work
    ∧ (partProgramEnd p good s).wit.marks = s.wit.marks ∧ (partProgramEnd p good s).wit.secured = s.wit.secured
    ∧ (partProgramEnd p good s).wit.ownFloor = s.wit.ownFloor
    ∧ (partProgramEnd p good s).wit.yearStart = s.wit.yearStart
    ∧ (partProgramEnd p good s).wit.lagHoldoff = s.wit.lagHoldoff
    ∧ (partProgramEnd p good s).retr.answers = s.retr.answers ∧ (partProgramEnd p good s).port.state = s.port.state
    ∧ (partProgramEnd p good s).port.timeQ = s.port.timeQ ∧ (partProgramEnd p good s).port.recordQ = s.port.recordQ
    ∧ (partProgramEnd p good s).port.markQ = s.port.markQ ∧ (partProgramEnd p good s).port.answerQ = s.port.answerQ
    ∧ (partProgramEnd p good s).port.presenceQ = s.port.presenceQ
    ∧ (partProgramEnd p good s).port.onLine = s.port.onLine
    ∧ (partProgramEnd p good s).port.errorRun = s.port.errorRun
    ∧ (partProgramEnd p good s).port.silentSince = s.port.silentSince
    ∧ (partProgramEnd p good s).port.activeSince = s.port.activeSince
    ∧ (partProgramEnd p good s).year.rows = s.year.rows ∧ (partProgramEnd p good s).year.minutes = s.year.minutes
    ∧ (partProgramEnd p good s).year.fstops = s.year.fstops
    ∧ (partProgramEnd p good s).year.coldFiring = s.year.coldFiring
    ∧ (partProgramEnd p good s).year.totals = s.year.totals
    ∧ (partProgramEnd p good s).year.openYear = s.year.openYear
    ∧ (partProgramEnd p good s).year.resume = s.year.resume
    ∧ (partProgramEnd p good s).year.compareDue = s.year.compareDue := by
  simp only [partProgramEnd]; (repeat' split) <;> simp

@[simp] theorem programEnd_fields (good : Bool) (s : State) :
    (programEnd good s).arch.lastAssigned = s.arch.lastAssigned
    ∧ (programEnd good s).arch.roundRobin = s.arch.roundRobin ∧ (programEnd good s).wit.jobs = s.wit.jobs
    ∧ (programEnd good s).wit.work = s.wit.work ∧ (programEnd good s).wit.marks = s.wit.marks
    ∧ (programEnd good s).wit.secured = s.wit.secured ∧ (programEnd good s).wit.ownFloor = s.wit.ownFloor
    ∧ (programEnd good s).wit.lagHoldoff = s.wit.lagHoldoff ∧ (programEnd good s).retr.answers = s.retr.answers
    ∧ (programEnd good s).port.state = s.port.state ∧ (programEnd good s).port.timeQ = s.port.timeQ
    ∧ (programEnd good s).port.recordQ = s.port.recordQ ∧ (programEnd good s).port.markQ = s.port.markQ
    ∧ (programEnd good s).port.answerQ = s.port.answerQ ∧ (programEnd good s).port.presenceQ = s.port.presenceQ
    ∧ (programEnd good s).port.onLine = s.port.onLine ∧ (programEnd good s).port.errorRun = s.port.errorRun
    ∧ (programEnd good s).port.silentSince = s.port.silentSince
    ∧ (programEnd good s).port.activeSince = s.port.activeSince ∧ (programEnd good s).year.rows = s.year.rows
    ∧ (programEnd good s).year.minutes = s.year.minutes ∧ (programEnd good s).year.fstops = s.year.fstops
    ∧ (programEnd good s).year.coldFiring = s.year.coldFiring ∧ (programEnd good s).year.totals = s.year.totals
    ∧ (programEnd good s).year.openYear = s.year.openYear ∧ (programEnd good s).year.resume = s.year.resume
    ∧ (programEnd good s).year.compareDue = s.year.compareDue := by
  simp only [programEnd]; (repeat' split) <;> simp

@[simp] theorem raiseOldest_fields (p : Nat) (h : Option Nat) (s : State) :
    (raiseOldest p h s).wit.jobs = s.wit.jobs ∧ (raiseOldest p h s).wit.work = s.wit.work
    ∧ (raiseOldest p h s).wit.marks = s.wit.marks ∧ (raiseOldest p h s).wit.secured = s.wit.secured
    ∧ (raiseOldest p h s).wit.ownFloor = s.wit.ownFloor ∧ (raiseOldest p h s).wit.yearStart = s.wit.yearStart
    ∧ (raiseOldest p h s).wit.lagHoldoff = s.wit.lagHoldoff := by
  simp only [raiseOldest]; (repeat' split) <;> simp

@[simp] theorem areaEraseEnd_fields (a : Area) (k : Nat) (good : Bool) (s : State) :
    (areaEraseEnd a k good s).arch.outbound = s.arch.outbound
    ∧ (areaEraseEnd a k good s).arch.requests = s.arch.requests
    ∧ (areaEraseEnd a k good s).arch.lastAssigned = s.arch.lastAssigned
    ∧ (areaEraseEnd a k good s).arch.latest = s.arch.latest
    ∧ (areaEraseEnd a k good s).arch.failureRun = s.arch.failureRun
    ∧ (areaEraseEnd a k good s).arch.roundRobin = s.arch.roundRobin
    ∧ (areaEraseEnd a k good s).arch.releaseTicket = s.arch.releaseTicket
    ∧ (areaEraseEnd a k good s).arch.abandoned = s.arch.abandoned
    ∧ (areaEraseEnd a k good s).wit.jobs = s.wit.jobs ∧ (areaEraseEnd a k good s).wit.work = s.wit.work
    ∧ (areaEraseEnd a k good s).wit.marks = s.wit.marks ∧ (areaEraseEnd a k good s).wit.secured = s.wit.secured
    ∧ (areaEraseEnd a k good s).wit.ownFloor = s.wit.ownFloor
    ∧ (areaEraseEnd a k good s).wit.yearStart = s.wit.yearStart
    ∧ (areaEraseEnd a k good s).wit.lagHoldoff = s.wit.lagHoldoff ∧ (areaEraseEnd a k good s).retr.jobs = s.retr.jobs
    ∧ (areaEraseEnd a k good s).retr.answers = s.retr.answers := by
  simp only [areaEraseEnd]; (repeat' split) <;> simp

@[simp] theorem eraseEnd_fields (good : Bool) (s : State) :
    (eraseEnd good s).arch.outbound = s.arch.outbound ∧ (eraseEnd good s).arch.requests = s.arch.requests
    ∧ (eraseEnd good s).arch.lastAssigned = s.arch.lastAssigned ∧ (eraseEnd good s).arch.latest = s.arch.latest
    ∧ (eraseEnd good s).arch.failureRun = s.arch.failureRun ∧ (eraseEnd good s).arch.roundRobin = s.arch.roundRobin
    ∧ (eraseEnd good s).arch.releaseTicket = s.arch.releaseTicket
    ∧ (eraseEnd good s).arch.abandoned = s.arch.abandoned ∧ (eraseEnd good s).wit.jobs = s.wit.jobs
    ∧ (eraseEnd good s).wit.work = s.wit.work ∧ (eraseEnd good s).wit.marks = s.wit.marks
    ∧ (eraseEnd good s).wit.secured = s.wit.secured ∧ (eraseEnd good s).wit.ownFloor = s.wit.ownFloor
    ∧ (eraseEnd good s).wit.yearStart = s.wit.yearStart ∧ (eraseEnd good s).wit.lagHoldoff = s.wit.lagHoldoff
    ∧ (eraseEnd good s).retr.jobs = s.retr.jobs ∧ (eraseEnd good s).retr.answers = s.retr.answers := by
  simp only [eraseEnd]; (repeat' split) <;> simp

@[simp] theorem placeRelease_fields (e : OutEntry) (s : State) :
    (placeRelease e s).arch.flash = s.arch.flash ∧ (placeRelease e s).arch.op = s.arch.op
    ∧ (placeRelease e s).arch.own = s.arch.own ∧ (placeRelease e s).arch.parts = s.arch.parts
    ∧ (placeRelease e s).arch.requests = s.arch.requests ∧ (placeRelease e s).arch.lastAssigned = s.arch.lastAssigned
    ∧ (placeRelease e s).arch.latest = s.arch.latest ∧ (placeRelease e s).arch.failureRun = s.arch.failureRun
    ∧ (placeRelease e s).arch.state = s.arch.state ∧ (placeRelease e s).arch.roundRobin = s.arch.roundRobin
    ∧ (placeRelease e s).port.state = s.port.state ∧ (placeRelease e s).port.timeQ = s.port.timeQ
    ∧ (placeRelease e s).port.markQ = s.port.markQ ∧ (placeRelease e s).port.gapQ = s.port.gapQ
    ∧ (placeRelease e s).port.answerQ = s.port.answerQ ∧ (placeRelease e s).port.presenceQ = s.port.presenceQ
    ∧ (placeRelease e s).port.onLine = s.port.onLine ∧ (placeRelease e s).port.errorRun = s.port.errorRun
    ∧ (placeRelease e s).port.silentSince = s.port.silentSince
    ∧ (placeRelease e s).port.activeSince = s.port.activeSince := by
  simp [placeRelease]

@[simp] theorem portOff_fields (s : State) :
    (portOff s).port.recordQ = s.port.recordQ ∧ (portOff s).port.gapQ = s.port.gapQ
    ∧ (portOff s).port.answerQ = s.port.answerQ ∧ (portOff s).port.errorRun = s.port.errorRun
    ∧ (portOff s).port.silentSince = s.port.silentSince ∧ (portOff s).port.activeSince = s.port.activeSince
    ∧ (portOff s).port.ticket = s.port.ticket := by
  simp [portOff, Port.lineEnded]

@[simp] theorem portActive_fields (s : State) :
    (portActive s).port.timeQ = s.port.timeQ ∧ (portActive s).port.recordQ = s.port.recordQ
    ∧ (portActive s).port.markQ = s.port.markQ ∧ (portActive s).port.gapQ = s.port.gapQ
    ∧ (portActive s).port.answerQ = s.port.answerQ ∧ (portActive s).port.presenceQ = s.port.presenceQ
    ∧ (portActive s).port.onLine = s.port.onLine ∧ (portActive s).port.silentSince = s.port.silentSince
    ∧ (portActive s).port.ticket = s.port.ticket ∧ (portActive s).port.state = .active
    ∧ (portActive s).port.errorRun = 0 ∧ (portActive s).port.activeSince = s.elapsed := by
  simp [portActive]

@[simp] theorem portOn_fields (s : State) :
    (portOn s).port.timeQ = s.port.timeQ ∧ (portOn s).port.recordQ = s.port.recordQ
    ∧ (portOn s).port.markQ = s.port.markQ ∧ (portOn s).port.gapQ = s.port.gapQ
    ∧ (portOn s).port.answerQ = s.port.answerQ ∧ (portOn s).port.presenceQ = s.port.presenceQ
    ∧ (portOn s).port.onLine = s.port.onLine ∧ (portOn s).port.silentSince = s.port.silentSince
    ∧ (portOn s).port.ticket = s.port.ticket := by
  simp only [portOn]; (repeat' split) <;> simp

@[simp] theorem gapSent_fields (t : GapTel) (s : State) :
    (gapSent t s).wit.jobs = s.wit.jobs ∧ (gapSent t s).wit.work = s.wit.work ∧ (gapSent t s).wit.marks = s.wit.marks
    ∧ (gapSent t s).wit.secured = s.wit.secured ∧ (gapSent t s).wit.ownFloor = s.wit.ownFloor
    ∧ (gapSent t s).wit.yearStart = s.wit.yearStart ∧ (gapSent t s).wit.lagHoldoff = s.wit.lagHoldoff := by
  simp [gapSent]

@[simp] theorem releaseSent_fields (q : Nat) (s : State) :
    (releaseSent q s).arch.flash = s.arch.flash ∧ (releaseSent q s).arch.op = s.arch.op
    ∧ (releaseSent q s).arch.own = s.arch.own ∧ (releaseSent q s).arch.parts = s.arch.parts
    ∧ (releaseSent q s).arch.requests = s.arch.requests ∧ (releaseSent q s).arch.lastAssigned = s.arch.lastAssigned
    ∧ (releaseSent q s).arch.latest = s.arch.latest ∧ (releaseSent q s).arch.failureRun = s.arch.failureRun
    ∧ (releaseSent q s).arch.state = s.arch.state ∧ (releaseSent q s).arch.roundRobin = s.arch.roundRobin
    ∧ (releaseSent q s).arch.releaseTicket = s.arch.releaseTicket
    ∧ (releaseSent q s).arch.abandoned = s.arch.abandoned := by
  simp [releaseSent]

@[simp] theorem transmitted_fields (q : TxQueue) (s : State) :
    (transmitted q s).port.state = s.port.state ∧ (transmitted q s).port.onLine = s.port.onLine
    ∧ (transmitted q s).port.errorRun = s.port.errorRun ∧ (transmitted q s).port.silentSince = s.port.silentSince
    ∧ (transmitted q s).port.activeSince = s.port.activeSince ∧ (transmitted q s).port.ticket = s.port.ticket
    ∧ (transmitted q s).wit.jobs = s.wit.jobs ∧ (transmitted q s).wit.work = s.wit.work
    ∧ (transmitted q s).wit.marks = s.wit.marks ∧ (transmitted q s).wit.secured = s.wit.secured
    ∧ (transmitted q s).wit.ownFloor = s.wit.ownFloor ∧ (transmitted q s).wit.yearStart = s.wit.yearStart
    ∧ (transmitted q s).wit.lagHoldoff = s.wit.lagHoldoff ∧ (transmitted q s).arch.flash = s.arch.flash
    ∧ (transmitted q s).arch.op = s.arch.op ∧ (transmitted q s).arch.own = s.arch.own
    ∧ (transmitted q s).arch.parts = s.arch.parts ∧ (transmitted q s).arch.requests = s.arch.requests
    ∧ (transmitted q s).arch.lastAssigned = s.arch.lastAssigned ∧ (transmitted q s).arch.latest = s.arch.latest
    ∧ (transmitted q s).arch.failureRun = s.arch.failureRun ∧ (transmitted q s).arch.state = s.arch.state
    ∧ (transmitted q s).arch.roundRobin = s.arch.roundRobin
    ∧ (transmitted q s).arch.releaseTicket = s.arch.releaseTicket
    ∧ (transmitted q s).arch.abandoned = s.arch.abandoned := by
  simp only [transmitted]; (repeat' split) <;> simp

@[simp] theorem enterSilent_fields (s : State) :
    (enterSilent s).port.timeQ = s.port.timeQ ∧ (enterSilent s).port.recordQ = s.port.recordQ
    ∧ (enterSilent s).port.markQ = s.port.markQ ∧ (enterSilent s).port.gapQ = s.port.gapQ
    ∧ (enterSilent s).port.answerQ = s.port.answerQ ∧ (enterSilent s).port.presenceQ = s.port.presenceQ
    ∧ (enterSilent s).port.onLine = s.port.onLine ∧ (enterSilent s).port.errorRun = s.port.errorRun
    ∧ (enterSilent s).port.activeSince = s.port.activeSince ∧ (enterSilent s).port.ticket = s.port.ticket
    ∧ (enterSilent s).year.rows = s.year.rows ∧ (enterSilent s).year.minutes = s.year.minutes
    ∧ (enterSilent s).year.fstops = s.year.fstops ∧ (enterSilent s).year.coldFiring = s.year.coldFiring
    ∧ (enterSilent s).year.totals = s.year.totals ∧ (enterSilent s).year.openYear = s.year.openYear
    ∧ (enterSilent s).year.resume = s.year.resume ∧ (enterSilent s).year.compareDue = s.year.compareDue
    ∧ (enterSilent s).retr.jobs = s.retr.jobs ∧ (enterSilent s).retr.answers = s.retr.answers := by
  simp [enterSilent]

@[simp] theorem lineMinute_fields (st : OpState) (b : Bool) (s : State) :
    (lineMinute st b s).year.rows = s.year.rows ∧ (lineMinute st b s).year.minutes = s.year.minutes
    ∧ (lineMinute st b s).year.coldFiring = s.year.coldFiring ∧ (lineMinute st b s).year.totals = s.year.totals
    ∧ (lineMinute st b s).year.day = s.year.day ∧ (lineMinute st b s).year.openYear = s.year.openYear
    ∧ (lineMinute st b s).year.resume = s.year.resume ∧ (lineMinute st b s).year.compareDue = s.year.compareDue
    ∧ (lineMinute st b s).retr.jobs = s.retr.jobs ∧ (lineMinute st b s).retr.answers = s.retr.answers := by
  simp only [lineMinute, coldFeedDecision, warnDecision, fstopDecision]; (repeat' split) <;> simp

@[simp] theorem closeMinute_fields (k : CloseKind) (s : State) :
    (closeMinute k s).year.rows = s.year.rows ∧ (closeMinute k s).year.minutes = s.year.minutes
    ∧ (closeMinute k s).year.coldFiring = s.year.coldFiring ∧ (closeMinute k s).year.totals = s.year.totals
    ∧ (closeMinute k s).year.day = s.year.day ∧ (closeMinute k s).year.openYear = s.year.openYear
    ∧ (closeMinute k s).year.resume = s.year.resume ∧ (closeMinute k s).year.compareDue = s.year.compareDue
    ∧ (closeMinute k s).retr.jobs = s.retr.jobs ∧ (closeMinute k s).retr.answers = s.retr.answers := by
  simp only [closeMinute]; (repeat' split) <;> simp

@[simp] theorem fillMinutes_fields (n : Nat) : ∀ s : State,
    (fillMinutes n s).year.rows = s.year.rows ∧ (fillMinutes n s).year.minutes = s.year.minutes
    ∧ (fillMinutes n s).year.coldFiring = s.year.coldFiring ∧ (fillMinutes n s).year.totals = s.year.totals
    ∧ (fillMinutes n s).year.day = s.year.day ∧ (fillMinutes n s).year.openYear = s.year.openYear
    ∧ (fillMinutes n s).year.resume = s.year.resume ∧ (fillMinutes n s).year.compareDue = s.year.compareDue
    ∧ (fillMinutes n s).retr.jobs = s.retr.jobs ∧ (fillMinutes n s).retr.answers = s.retr.answers := by
  induction n with
  | zero => intro s; simp [fillMinutes]
  | succ n ih => intro s; simpa [fillMinutes] using ih (closeMinute .powerLoss s)

@[simp] theorem closeNumbered_fields (n : Nat) (k : CloseKind) (s : State) :
    (closeNumbered n k s).year.rows = s.year.rows ∧ (closeNumbered n k s).year.minutes = s.year.minutes
    ∧ (closeNumbered n k s).year.coldFiring = s.year.coldFiring ∧ (closeNumbered n k s).year.totals = s.year.totals
    ∧ (closeNumbered n k s).year.day = s.year.day ∧ (closeNumbered n k s).year.openYear = s.year.openYear
    ∧ (closeNumbered n k s).year.resume = s.year.resume ∧ (closeNumbered n k s).year.compareDue = s.year.compareDue
    ∧ (closeNumbered n k s).retr.jobs = s.retr.jobs ∧ (closeNumbered n k s).retr.answers = s.retr.answers := by
  simp [closeNumbered]

@[simp] theorem closeHalfHour_fields (t : Nat) (s : State) :
    (closeHalfHour t s).arch.flash = s.arch.flash ∧ (closeHalfHour t s).arch.op = s.arch.op
    ∧ (closeHalfHour t s).arch.own = s.arch.own ∧ (closeHalfHour t s).arch.parts = s.arch.parts
    ∧ (closeHalfHour t s).arch.requests = s.arch.requests ∧ (closeHalfHour t s).arch.latest = s.arch.latest
    ∧ (closeHalfHour t s).arch.failureRun = s.arch.failureRun ∧ (closeHalfHour t s).arch.state = s.arch.state
    ∧ (closeHalfHour t s).arch.roundRobin = s.arch.roundRobin ∧ (closeHalfHour t s).port.state = s.port.state
    ∧ (closeHalfHour t s).port.timeQ = s.port.timeQ ∧ (closeHalfHour t s).port.markQ = s.port.markQ
    ∧ (closeHalfHour t s).port.gapQ = s.port.gapQ ∧ (closeHalfHour t s).port.answerQ = s.port.answerQ
    ∧ (closeHalfHour t s).port.presenceQ = s.port.presenceQ ∧ (closeHalfHour t s).port.onLine = s.port.onLine
    ∧ (closeHalfHour t s).port.errorRun = s.port.errorRun ∧ (closeHalfHour t s).port.silentSince = s.port.silentSince
    ∧ (closeHalfHour t s).port.activeSince = s.port.activeSince ∧ (closeHalfHour t s).retr.jobs = s.retr.jobs
    ∧ (closeHalfHour t s).retr.answers = s.retr.answers := by
  simp [closeHalfHour]

@[simp] theorem closeDay_fields (t : Nat) (s : State) :
    (closeDay t s).arch.flash = s.arch.flash ∧ (closeDay t s).arch.op = s.arch.op
    ∧ (closeDay t s).arch.own = s.arch.own ∧ (closeDay t s).arch.parts = s.arch.parts
    ∧ (closeDay t s).arch.requests = s.arch.requests ∧ (closeDay t s).arch.latest = s.arch.latest
    ∧ (closeDay t s).arch.failureRun = s.arch.failureRun ∧ (closeDay t s).arch.state = s.arch.state
    ∧ (closeDay t s).arch.roundRobin = s.arch.roundRobin ∧ (closeDay t s).port.state = s.port.state
    ∧ (closeDay t s).port.timeQ = s.port.timeQ ∧ (closeDay t s).port.markQ = s.port.markQ
    ∧ (closeDay t s).port.gapQ = s.port.gapQ ∧ (closeDay t s).port.answerQ = s.port.answerQ
    ∧ (closeDay t s).port.presenceQ = s.port.presenceQ ∧ (closeDay t s).port.onLine = s.port.onLine
    ∧ (closeDay t s).port.errorRun = s.port.errorRun ∧ (closeDay t s).port.silentSince = s.port.silentSince
    ∧ (closeDay t s).port.activeSince = s.port.activeSince ∧ (closeDay t s).retr.jobs = s.retr.jobs
    ∧ (closeDay t s).retr.answers = s.retr.answers := by
  simp [closeDay]

@[simp] theorem appendYearSlot_fields (c : Settings) (y : Nat) (s : State) (r : YearRow) :
    (appendYearSlot c y s r).arch.flash = s.arch.flash ∧ (appendYearSlot c y s r).arch.op = s.arch.op
    ∧ (appendYearSlot c y s r).arch.own = s.arch.own ∧ (appendYearSlot c y s r).arch.parts = s.arch.parts
    ∧ (appendYearSlot c y s r).arch.requests = s.arch.requests ∧ (appendYearSlot c y s r).arch.latest = s.arch.latest
    ∧ (appendYearSlot c y s r).arch.failureRun = s.arch.failureRun
    ∧ (appendYearSlot c y s r).arch.state = s.arch.state
    ∧ (appendYearSlot c y s r).arch.roundRobin = s.arch.roundRobin
    ∧ (appendYearSlot c y s r).port.state = s.port.state ∧ (appendYearSlot c y s r).port.timeQ = s.port.timeQ
    ∧ (appendYearSlot c y s r).port.markQ = s.port.markQ ∧ (appendYearSlot c y s r).port.gapQ = s.port.gapQ
    ∧ (appendYearSlot c y s r).port.answerQ = s.port.answerQ
    ∧ (appendYearSlot c y s r).port.presenceQ = s.port.presenceQ
    ∧ (appendYearSlot c y s r).port.onLine = s.port.onLine ∧ (appendYearSlot c y s r).port.errorRun = s.port.errorRun
    ∧ (appendYearSlot c y s r).port.silentSince = s.port.silentSince
    ∧ (appendYearSlot c y s r).port.activeSince = s.port.activeSince
    ∧ (appendYearSlot c y s r).retr.jobs = s.retr.jobs ∧ (appendYearSlot c y s r).retr.answers = s.retr.answers
    ∧ (appendYearSlot c y s r).year.rows = s.year.rows ∧ (appendYearSlot c y s r).year.minutes = s.year.minutes
    ∧ (appendYearSlot c y s r).year.fstops = s.year.fstops
    ∧ (appendYearSlot c y s r).year.coldFiring = s.year.coldFiring
    ∧ (appendYearSlot c y s r).year.totals = s.year.totals ∧ (appendYearSlot c y s r).year.openYear = s.year.openYear
    ∧ (appendYearSlot c y s r).year.resume = s.year.resume
    ∧ (appendYearSlot c y s r).year.compareDue = s.year.compareDue := by
  simp [appendYearSlot]

@[simp] theorem foldl_appendYearSlot_fields (c : Settings) (y : Nat) (l : List YearRow) : ∀ s : State,
    (l.foldl (appendYearSlot c y) s).arch.flash = s.arch.flash ∧ (l.foldl (appendYearSlot c y) s).arch.op = s.arch.op
    ∧ (l.foldl (appendYearSlot c y) s).arch.own = s.arch.own
    ∧ (l.foldl (appendYearSlot c y) s).arch.parts = s.arch.parts
    ∧ (l.foldl (appendYearSlot c y) s).arch.requests = s.arch.requests
    ∧ (l.foldl (appendYearSlot c y) s).arch.latest = s.arch.latest
    ∧ (l.foldl (appendYearSlot c y) s).arch.failureRun = s.arch.failureRun
    ∧ (l.foldl (appendYearSlot c y) s).arch.state = s.arch.state
    ∧ (l.foldl (appendYearSlot c y) s).arch.roundRobin = s.arch.roundRobin
    ∧ (l.foldl (appendYearSlot c y) s).port.state = s.port.state
    ∧ (l.foldl (appendYearSlot c y) s).port.timeQ = s.port.timeQ
    ∧ (l.foldl (appendYearSlot c y) s).port.markQ = s.port.markQ
    ∧ (l.foldl (appendYearSlot c y) s).port.gapQ = s.port.gapQ
    ∧ (l.foldl (appendYearSlot c y) s).port.answerQ = s.port.answerQ
    ∧ (l.foldl (appendYearSlot c y) s).port.presenceQ = s.port.presenceQ
    ∧ (l.foldl (appendYearSlot c y) s).port.onLine = s.port.onLine
    ∧ (l.foldl (appendYearSlot c y) s).port.errorRun = s.port.errorRun
    ∧ (l.foldl (appendYearSlot c y) s).port.silentSince = s.port.silentSince
    ∧ (l.foldl (appendYearSlot c y) s).port.activeSince = s.port.activeSince
    ∧ (l.foldl (appendYearSlot c y) s).retr.jobs = s.retr.jobs
    ∧ (l.foldl (appendYearSlot c y) s).retr.answers = s.retr.answers
    ∧ (l.foldl (appendYearSlot c y) s).year.rows = s.year.rows
    ∧ (l.foldl (appendYearSlot c y) s).year.minutes = s.year.minutes
    ∧ (l.foldl (appendYearSlot c y) s).year.fstops = s.year.fstops
    ∧ (l.foldl (appendYearSlot c y) s).year.coldFiring = s.year.coldFiring
    ∧ (l.foldl (appendYearSlot c y) s).year.totals = s.year.totals
    ∧ (l.foldl (appendYearSlot c y) s).year.openYear = s.year.openYear
    ∧ (l.foldl (appendYearSlot c y) s).year.resume = s.year.resume
    ∧ (l.foldl (appendYearSlot c y) s).year.compareDue = s.year.compareDue := by
  induction l with
  | nil => simp
  | cons r l ih => intro s; simpa using ih (appendYearSlot c y s r)

@[simp] theorem appendYearRecords_fields (y : Nat) (s : State) :
    (appendYearRecords y s).arch.flash = s.arch.flash ∧ (appendYearRecords y s).arch.op = s.arch.op
    ∧ (appendYearRecords y s).arch.own = s.arch.own ∧ (appendYearRecords y s).arch.parts = s.arch.parts
    ∧ (appendYearRecords y s).arch.requests = s.arch.requests ∧ (appendYearRecords y s).arch.latest = s.arch.latest
    ∧ (appendYearRecords y s).arch.failureRun = s.arch.failureRun ∧ (appendYearRecords y s).arch.state = s.arch.state
    ∧ (appendYearRecords y s).arch.roundRobin = s.arch.roundRobin ∧ (appendYearRecords y s).port.state = s.port.state
    ∧ (appendYearRecords y s).port.timeQ = s.port.timeQ ∧ (appendYearRecords y s).port.markQ = s.port.markQ
    ∧ (appendYearRecords y s).port.gapQ = s.port.gapQ ∧ (appendYearRecords y s).port.answerQ = s.port.answerQ
    ∧ (appendYearRecords y s).port.presenceQ = s.port.presenceQ ∧ (appendYearRecords y s).port.onLine = s.port.onLine
    ∧ (appendYearRecords y s).port.errorRun = s.port.errorRun
    ∧ (appendYearRecords y s).port.silentSince = s.port.silentSince
    ∧ (appendYearRecords y s).port.activeSince = s.port.activeSince ∧ (appendYearRecords y s).retr.jobs = s.retr.jobs
    ∧ (appendYearRecords y s).retr.answers = s.retr.answers ∧ (appendYearRecords y s).year.rows = s.year.rows
    ∧ (appendYearRecords y s).year.minutes = s.year.minutes ∧ (appendYearRecords y s).year.fstops = s.year.fstops
    ∧ (appendYearRecords y s).year.coldFiring = s.year.coldFiring
    ∧ (appendYearRecords y s).year.totals = s.year.totals ∧ (appendYearRecords y s).year.openYear = s.year.openYear
    ∧ (appendYearRecords y s).year.resume = s.year.resume
    ∧ (appendYearRecords y s).year.compareDue = s.year.compareDue := by
  simp [appendYearRecords]

@[simp] theorem closeYear_fields (t : Nat) (s : State) :
    (closeYear t s).arch.flash = s.arch.flash ∧ (closeYear t s).arch.op = s.arch.op
    ∧ (closeYear t s).arch.own = s.arch.own ∧ (closeYear t s).arch.parts = s.arch.parts
    ∧ (closeYear t s).arch.requests = s.arch.requests ∧ (closeYear t s).arch.latest = s.arch.latest
    ∧ (closeYear t s).arch.failureRun = s.arch.failureRun ∧ (closeYear t s).arch.roundRobin = s.arch.roundRobin
    ∧ (closeYear t s).port.state = s.port.state ∧ (closeYear t s).port.timeQ = s.port.timeQ
    ∧ (closeYear t s).port.markQ = s.port.markQ ∧ (closeYear t s).port.gapQ = s.port.gapQ
    ∧ (closeYear t s).port.answerQ = s.port.answerQ ∧ (closeYear t s).port.presenceQ = s.port.presenceQ
    ∧ (closeYear t s).port.onLine = s.port.onLine ∧ (closeYear t s).port.errorRun = s.port.errorRun
    ∧ (closeYear t s).port.silentSince = s.port.silentSince ∧ (closeYear t s).port.activeSince = s.port.activeSince
    ∧ (closeYear t s).retr.jobs = s.retr.jobs ∧ (closeYear t s).retr.answers = s.retr.answers
    ∧ (closeYear t s).wit.origins = s.wit.origins ∧ (closeYear t s).wit.jobs = s.wit.jobs
    ∧ (closeYear t s).wit.work = s.wit.work ∧ (closeYear t s).wit.marks = s.wit.marks
    ∧ (closeYear t s).wit.secured = s.wit.secured ∧ (closeYear t s).wit.lagHoldoff = s.wit.lagHoldoff := by
  simp [closeYear, restartYear, witnessYearClose]

@[simp] theorem missingYearSlots_fields (l : List Rec) (y : Nat) (s : State) :
    (missingYearSlots l y s).arch.flash = s.arch.flash ∧ (missingYearSlots l y s).arch.op = s.arch.op
    ∧ (missingYearSlots l y s).arch.own = s.arch.own ∧ (missingYearSlots l y s).arch.parts = s.arch.parts
    ∧ (missingYearSlots l y s).arch.requests = s.arch.requests ∧ (missingYearSlots l y s).arch.latest = s.arch.latest
    ∧ (missingYearSlots l y s).arch.failureRun = s.arch.failureRun
    ∧ (missingYearSlots l y s).arch.state = s.arch.state
    ∧ (missingYearSlots l y s).arch.roundRobin = s.arch.roundRobin
    ∧ (missingYearSlots l y s).port.state = s.port.state ∧ (missingYearSlots l y s).port.timeQ = s.port.timeQ
    ∧ (missingYearSlots l y s).port.markQ = s.port.markQ ∧ (missingYearSlots l y s).port.gapQ = s.port.gapQ
    ∧ (missingYearSlots l y s).port.answerQ = s.port.answerQ
    ∧ (missingYearSlots l y s).port.presenceQ = s.port.presenceQ
    ∧ (missingYearSlots l y s).port.onLine = s.port.onLine ∧ (missingYearSlots l y s).port.errorRun = s.port.errorRun
    ∧ (missingYearSlots l y s).port.silentSince = s.port.silentSince
    ∧ (missingYearSlots l y s).port.activeSince = s.port.activeSince
    ∧ (missingYearSlots l y s).retr.jobs = s.retr.jobs ∧ (missingYearSlots l y s).retr.answers = s.retr.answers := by
  simp [missingYearSlots]

@[simp] theorem pendingCloses_fields (l : List Rec) (r : Nat) (s : State) :
    (pendingCloses l r s).arch.flash = s.arch.flash ∧ (pendingCloses l r s).arch.op = s.arch.op
    ∧ (pendingCloses l r s).arch.own = s.arch.own ∧ (pendingCloses l r s).arch.parts = s.arch.parts
    ∧ (pendingCloses l r s).arch.requests = s.arch.requests ∧ (pendingCloses l r s).arch.latest = s.arch.latest
    ∧ (pendingCloses l r s).arch.failureRun = s.arch.failureRun
    ∧ (pendingCloses l r s).arch.roundRobin = s.arch.roundRobin ∧ (pendingCloses l r s).port.state = s.port.state
    ∧ (pendingCloses l r s).port.timeQ = s.port.timeQ ∧ (pendingCloses l r s).port.markQ = s.port.markQ
    ∧ (pendingCloses l r s).port.gapQ = s.port.gapQ ∧ (pendingCloses l r s).port.answerQ = s.port.answerQ
    ∧ (pendingCloses l r s).port.presenceQ = s.port.presenceQ ∧ (pendingCloses l r s).port.onLine = s.port.onLine
    ∧ (pendingCloses l r s).port.errorRun = s.port.errorRun
    ∧ (pendingCloses l r s).port.silentSince = s.port.silentSince
    ∧ (pendingCloses l r s).port.activeSince = s.port.activeSince ∧ (pendingCloses l r s).retr.jobs = s.retr.jobs
    ∧ (pendingCloses l r s).retr.answers = s.retr.answers ∧ (pendingCloses l r s).wit.origins = s.wit.origins
    ∧ (pendingCloses l r s).wit.jobs = s.wit.jobs ∧ (pendingCloses l r s).wit.work = s.wit.work
    ∧ (pendingCloses l r s).wit.marks = s.wit.marks ∧ (pendingCloses l r s).wit.secured = s.wit.secured
    ∧ (pendingCloses l r s).wit.lagHoldoff = s.wit.lagHoldoff := by
  simp only [pendingCloses]; (repeat' split) <;> simp

@[simp] theorem openYearAt_fields (l : List Rec) (y : Nat) (s : State) :
    (openYearAt l y s).wit.origins = s.wit.origins ∧ (openYearAt l y s).wit.jobs = s.wit.jobs
    ∧ (openYearAt l y s).wit.work = s.wit.work ∧ (openYearAt l y s).wit.marks = s.wit.marks
    ∧ (openYearAt l y s).wit.secured = s.wit.secured ∧ (openYearAt l y s).wit.lagHoldoff = s.wit.lagHoldoff
    ∧ (openYearAt l y s).year.rows = s.year.rows ∧ (openYearAt l y s).year.minutes = s.year.minutes
    ∧ (openYearAt l y s).year.fstops = s.year.fstops ∧ (openYearAt l y s).year.coldFiring = s.year.coldFiring
    ∧ (openYearAt l y s).year.totals = s.year.totals ∧ (openYearAt l y s).year.day = s.year.day
    ∧ (openYearAt l y s).year.resume = s.year.resume ∧ (openYearAt l y s).year.compareDue = s.year.compareDue := by
  simp [openYearAt]

@[simp] theorem startingValues_fields (h : Nat) (s : State) :
    (startingValues h s).wit.origins = s.wit.origins ∧ (startingValues h s).wit.jobs = s.wit.jobs
    ∧ (startingValues h s).wit.work = s.wit.work ∧ (startingValues h s).wit.marks = s.wit.marks
    ∧ (startingValues h s).wit.secured = s.wit.secured ∧ (startingValues h s).wit.lagHoldoff = s.wit.lagHoldoff
    ∧ (startingValues h s).arch.flash = s.arch.flash ∧ (startingValues h s).arch.op = s.arch.op
    ∧ (startingValues h s).arch.own = s.arch.own ∧ (startingValues h s).arch.parts = s.arch.parts
    ∧ (startingValues h s).arch.outbound = s.arch.outbound ∧ (startingValues h s).arch.requests = s.arch.requests
    ∧ (startingValues h s).arch.lastAssigned = s.arch.lastAssigned ∧ (startingValues h s).arch.latest = s.arch.latest
    ∧ (startingValues h s).arch.failureRun = s.arch.failureRun
    ∧ (startingValues h s).arch.roundRobin = s.arch.roundRobin
    ∧ (startingValues h s).arch.releaseTicket = s.arch.releaseTicket
    ∧ (startingValues h s).arch.abandoned = s.arch.abandoned ∧ (startingValues h s).retr.jobs = s.retr.jobs
    ∧ (startingValues h s).retr.answers = s.retr.answers := by
  simp [startingValues]

@[simp] theorem compareResume_fields (h : Nat) (s : State) :
    (compareResume h s).wit.origins = s.wit.origins ∧ (compareResume h s).wit.jobs = s.wit.jobs
    ∧ (compareResume h s).wit.work = s.wit.work ∧ (compareResume h s).wit.marks = s.wit.marks
    ∧ (compareResume h s).wit.secured = s.wit.secured ∧ (compareResume h s).wit.lagHoldoff = s.wit.lagHoldoff
    ∧ (compareResume h s).arch.flash = s.arch.flash ∧ (compareResume h s).arch.op = s.arch.op
    ∧ (compareResume h s).arch.own = s.arch.own ∧ (compareResume h s).arch.parts = s.arch.parts
    ∧ (compareResume h s).arch.outbound = s.arch.outbound ∧ (compareResume h s).arch.requests = s.arch.requests
    ∧ (compareResume h s).arch.lastAssigned = s.arch.lastAssigned ∧ (compareResume h s).arch.latest = s.arch.latest
    ∧ (compareResume h s).arch.failureRun = s.arch.failureRun
    ∧ (compareResume h s).arch.roundRobin = s.arch.roundRobin
    ∧ (compareResume h s).arch.releaseTicket = s.arch.releaseTicket
    ∧ (compareResume h s).arch.abandoned = s.arch.abandoned ∧ (compareResume h s).retr.jobs = s.retr.jobs
    ∧ (compareResume h s).retr.answers = s.retr.answers := by
  simp only [compareResume]; (repeat' split) <;> simp

@[simp] theorem enterRecording_fields (s : State) :
    (enterRecording s).supply.heldFrom = s.supply.heldFrom ∧ (enterRecording s).supply.sense = s.supply.sense
    ∧ (enterRecording s).supply.goodSince = s.supply.goodSince
    ∧ (enterRecording s).supply.resetLine = s.supply.resetLine
    ∧ (enterRecording s).supply.releasedAt = s.supply.releasedAt
    ∧ (enterRecording s).supply.resetInHold = s.supply.resetInHold
    ∧ (enterRecording s).supply.ramIntact = s.supply.ramIntact
    ∧ (enterRecording s).supply.clockValid = s.supply.clockValid
    ∧ (enterRecording s).supply.staging = s.supply.staging ∧ (enterRecording s).supply.commit = s.supply.commit
    ∧ (enterRecording s).tb.plant = s.tb.plant ∧ (enterRecording s).tb.state = s.tb.state
    ∧ (enterRecording s).tb.closed = s.tb.closed ∧ (enterRecording s).tb.gaps = s.tb.gaps
    ∧ (enterRecording s).tb.catchUp = s.tb.catchUp ∧ (enterRecording s).tb.stepCount = s.tb.stepCount
    ∧ (enterRecording s).tb.stepNegative = s.tb.stepNegative ∧ (enterRecording s).tb.peers = s.tb.peers
    ∧ (enterRecording s).tb.reference = s.tb.reference ∧ (enterRecording s).tb.stored = s.tb.stored
    ∧ (enterRecording s).tb.window = s.tb.window ∧ (enterRecording s).tb.holdFrom = s.tb.holdFrom
    ∧ (enterRecording s).tb.dues = s.tb.dues ∧ (enterRecording s).tb.taken = s.tb.taken
    ∧ (enterRecording s).wit.jobs = s.wit.jobs ∧ (enterRecording s).wit.work = s.wit.work
    ∧ (enterRecording s).wit.marks = s.wit.marks ∧ (enterRecording s).wit.secured = s.wit.secured
    ∧ (enterRecording s).wit.ownFloor = s.wit.ownFloor ∧ (enterRecording s).wit.yearStart = s.wit.yearStart
    ∧ (enterRecording s).wit.lagHoldoff = s.wit.lagHoldoff ∧ (enterRecording s).port.state = s.port.state
    ∧ (enterRecording s).port.timeQ = s.port.timeQ ∧ (enterRecording s).port.recordQ = s.port.recordQ
    ∧ (enterRecording s).port.markQ = s.port.markQ ∧ (enterRecording s).port.answerQ = s.port.answerQ
    ∧ (enterRecording s).port.presenceQ = s.port.presenceQ ∧ (enterRecording s).port.onLine = s.port.onLine
    ∧ (enterRecording s).port.errorRun = s.port.errorRun ∧ (enterRecording s).port.silentSince = s.port.silentSince
    ∧ (enterRecording s).port.activeSince = s.port.activeSince := by
  simp [enterRecording]

@[simp] theorem endCatchUp_fields (s : State) :
    (endCatchUp s).supply.heldFrom = s.supply.heldFrom ∧ (endCatchUp s).supply.sense = s.supply.sense
    ∧ (endCatchUp s).supply.goodSince = s.supply.goodSince ∧ (endCatchUp s).supply.resetLine = s.supply.resetLine
    ∧ (endCatchUp s).supply.releasedAt = s.supply.releasedAt
    ∧ (endCatchUp s).supply.resetInHold = s.supply.resetInHold ∧ (endCatchUp s).supply.ramIntact = s.supply.ramIntact
    ∧ (endCatchUp s).supply.clockValid = s.supply.clockValid ∧ (endCatchUp s).supply.staging = s.supply.staging
    ∧ (endCatchUp s).supply.commit = s.supply.commit ∧ (endCatchUp s).tb.plant = s.tb.plant
    ∧ (endCatchUp s).tb.state = s.tb.state ∧ (endCatchUp s).tb.closed = s.tb.closed
    ∧ (endCatchUp s).tb.stepCount = s.tb.stepCount ∧ (endCatchUp s).tb.stepNegative = s.tb.stepNegative
    ∧ (endCatchUp s).tb.peers = s.tb.peers ∧ (endCatchUp s).tb.reference = s.tb.reference
    ∧ (endCatchUp s).tb.stored = s.tb.stored ∧ (endCatchUp s).tb.window = s.tb.window
    ∧ (endCatchUp s).tb.holdFrom = s.tb.holdFrom ∧ (endCatchUp s).tb.dues = s.tb.dues
    ∧ (endCatchUp s).tb.taken = s.tb.taken ∧ (endCatchUp s).wit.jobs = s.wit.jobs
    ∧ (endCatchUp s).wit.work = s.wit.work ∧ (endCatchUp s).wit.marks = s.wit.marks
    ∧ (endCatchUp s).wit.secured = s.wit.secured ∧ (endCatchUp s).wit.ownFloor = s.wit.ownFloor
    ∧ (endCatchUp s).wit.yearStart = s.wit.yearStart ∧ (endCatchUp s).wit.lagHoldoff = s.wit.lagHoldoff
    ∧ (endCatchUp s).port.state = s.port.state ∧ (endCatchUp s).port.timeQ = s.port.timeQ
    ∧ (endCatchUp s).port.recordQ = s.port.recordQ ∧ (endCatchUp s).port.markQ = s.port.markQ
    ∧ (endCatchUp s).port.answerQ = s.port.answerQ ∧ (endCatchUp s).port.presenceQ = s.port.presenceQ
    ∧ (endCatchUp s).port.onLine = s.port.onLine ∧ (endCatchUp s).port.errorRun = s.port.errorRun
    ∧ (endCatchUp s).port.silentSince = s.port.silentSince ∧ (endCatchUp s).port.activeSince = s.port.activeSince := by
  simp only [endCatchUp]; (repeat' split) <;> simp

@[simp] theorem thaw_fields (s : State) :
    (thaw s).tb.plant = s.tb.plant ∧ (thaw s).tb.closed = s.tb.closed ∧ (thaw s).tb.sampled = s.tb.sampled
    ∧ (thaw s).tb.gaps = s.tb.gaps ∧ (thaw s).tb.catchUp = s.tb.catchUp ∧ (thaw s).tb.stepCount = s.tb.stepCount
    ∧ (thaw s).tb.stepNegative = s.tb.stepNegative ∧ (thaw s).tb.peers = s.tb.peers
    ∧ (thaw s).tb.reference = s.tb.reference ∧ (thaw s).tb.stored = s.tb.stored ∧ (thaw s).tb.window = s.tb.window
    ∧ (thaw s).tb.holdFrom = s.tb.holdFrom ∧ (thaw s).tb.dues = s.tb.dues ∧ (thaw s).tb.taken = s.tb.taken := by
  simp only [thaw]; (repeat' split) <;> simp

@[simp] theorem beginCatchUp_fields (s : State) :
    (beginCatchUp s).tb.plant = s.tb.plant ∧ (beginCatchUp s).tb.state = s.tb.state
    ∧ (beginCatchUp s).tb.closed = s.tb.closed ∧ (beginCatchUp s).tb.sampled = s.tb.sampled
    ∧ (beginCatchUp s).tb.gaps = s.tb.gaps ∧ (beginCatchUp s).tb.stepCount = s.tb.stepCount
    ∧ (beginCatchUp s).tb.stepNegative = s.tb.stepNegative ∧ (beginCatchUp s).tb.peers = s.tb.peers
    ∧ (beginCatchUp s).tb.reference = s.tb.reference ∧ (beginCatchUp s).tb.stored = s.tb.stored
    ∧ (beginCatchUp s).tb.window = s.tb.window ∧ (beginCatchUp s).tb.holdFrom = s.tb.holdFrom
    ∧ (beginCatchUp s).tb.dues = s.tb.dues ∧ (beginCatchUp s).tb.taken = s.tb.taken := by
  simp only [beginCatchUp]; (repeat' split) <;> simp

@[simp] theorem enterCatchUp_fields (s : State) :
    (enterCatchUp s).supply.heldFrom = s.supply.heldFrom ∧ (enterCatchUp s).supply.sense = s.supply.sense
    ∧ (enterCatchUp s).supply.goodSince = s.supply.goodSince ∧ (enterCatchUp s).supply.resetLine = s.supply.resetLine
    ∧ (enterCatchUp s).supply.releasedAt = s.supply.releasedAt
    ∧ (enterCatchUp s).supply.resetInHold = s.supply.resetInHold
    ∧ (enterCatchUp s).supply.ramIntact = s.supply.ramIntact
    ∧ (enterCatchUp s).supply.clockValid = s.supply.clockValid ∧ (enterCatchUp s).supply.staging = s.supply.staging
    ∧ (enterCatchUp s).supply.commit = s.supply.commit ∧ (enterCatchUp s).tb.plant = s.tb.plant
    ∧ (enterCatchUp s).tb.stepCount = s.tb.stepCount ∧ (enterCatchUp s).tb.stepNegative = s.tb.stepNegative
    ∧ (enterCatchUp s).tb.peers = s.tb.peers ∧ (enterCatchUp s).tb.reference = s.tb.reference
    ∧ (enterCatchUp s).tb.stored = s.tb.stored ∧ (enterCatchUp s).tb.window = s.tb.window
    ∧ (enterCatchUp s).tb.holdFrom = s.tb.holdFrom ∧ (enterCatchUp s).tb.dues = s.tb.dues
    ∧ (enterCatchUp s).tb.taken = s.tb.taken ∧ (enterCatchUp s).wit.jobs = s.wit.jobs
    ∧ (enterCatchUp s).wit.work = s.wit.work ∧ (enterCatchUp s).wit.marks = s.wit.marks
    ∧ (enterCatchUp s).wit.secured = s.wit.secured ∧ (enterCatchUp s).wit.ownFloor = s.wit.ownFloor
    ∧ (enterCatchUp s).wit.yearStart = s.wit.yearStart ∧ (enterCatchUp s).wit.lagHoldoff = s.wit.lagHoldoff
    ∧ (enterCatchUp s).port.timeQ = s.port.timeQ ∧ (enterCatchUp s).port.recordQ = s.port.recordQ
    ∧ (enterCatchUp s).port.markQ = s.port.markQ ∧ (enterCatchUp s).port.answerQ = s.port.answerQ
    ∧ (enterCatchUp s).port.presenceQ = s.port.presenceQ ∧ (enterCatchUp s).port.onLine = s.port.onLine
    ∧ (enterCatchUp s).port.silentSince = s.port.silentSince := by
  simp only [enterCatchUp, resumeTimebase]; (repeat' split) <;> simp

@[simp] theorem reportStep_fields (s : State) :
    (reportStep s).year.rows = s.year.rows ∧ (reportStep s).year.minutes = s.year.minutes
    ∧ (reportStep s).year.fstops = s.year.fstops ∧ (reportStep s).year.coldFiring = s.year.coldFiring
    ∧ (reportStep s).year.totals = s.year.totals ∧ (reportStep s).year.openYear = s.year.openYear
    ∧ (reportStep s).year.resume = s.year.resume ∧ (reportStep s).year.compareDue = s.year.compareDue
    ∧ (reportStep s).retr.jobs = s.retr.jobs ∧ (reportStep s).retr.answers = s.retr.answers := by
  simp [reportStep]

@[simp] theorem roundAction_fields (c : Int) (r : Bool) (s : State) :
    (roundAction c r s).year.rows = s.year.rows ∧ (roundAction c r s).year.minutes = s.year.minutes
    ∧ (roundAction c r s).year.fstops = s.year.fstops ∧ (roundAction c r s).year.coldFiring = s.year.coldFiring
    ∧ (roundAction c r s).year.totals = s.year.totals ∧ (roundAction c r s).year.openYear = s.year.openYear
    ∧ (roundAction c r s).year.resume = s.year.resume ∧ (roundAction c r s).year.compareDue = s.year.compareDue
    ∧ (roundAction c r s).retr.jobs = s.retr.jobs ∧ (roundAction c r s).retr.answers = s.retr.answers := by
  simp only [roundAction, applyStep]; (repeat' split) <;> simp

@[simp] theorem adopt_fields (t : Nat) (s : State) :
    (adopt t s).supply.heldFrom = s.supply.heldFrom ∧ (adopt t s).supply.sense = s.supply.sense
    ∧ (adopt t s).supply.goodSince = s.supply.goodSince ∧ (adopt t s).supply.resetLine = s.supply.resetLine
    ∧ (adopt t s).supply.releasedAt = s.supply.releasedAt ∧ (adopt t s).supply.resetInHold = s.supply.resetInHold
    ∧ (adopt t s).supply.ramIntact = s.supply.ramIntact ∧ (adopt t s).supply.staging = s.supply.staging
    ∧ (adopt t s).supply.commit = s.supply.commit ∧ (adopt t s).wit.marks = s.wit.marks
    ∧ (adopt t s).wit.secured = s.wit.secured ∧ (adopt t s).wit.ownFloor = s.wit.ownFloor
    ∧ (adopt t s).wit.yearStart = s.wit.yearStart ∧ (adopt t s).wit.lagHoldoff = s.wit.lagHoldoff
    ∧ (adopt t s).port.timeQ = s.port.timeQ ∧ (adopt t s).port.recordQ = s.port.recordQ
    ∧ (adopt t s).port.markQ = s.port.markQ ∧ (adopt t s).port.answerQ = s.port.answerQ
    ∧ (adopt t s).port.presenceQ = s.port.presenceQ ∧ (adopt t s).port.onLine = s.port.onLine
    ∧ (adopt t s).port.silentSince = s.port.silentSince ∧ (adopt t s).arch.flash = s.arch.flash
    ∧ (adopt t s).arch.own = s.arch.own ∧ (adopt t s).arch.parts = s.arch.parts
    ∧ (adopt t s).arch.latest = s.arch.latest ∧ (adopt t s).arch.failureRun = s.arch.failureRun
    ∧ (adopt t s).arch.state = s.arch.state ∧ (adopt t s).arch.releaseTicket = s.arch.releaseTicket
    ∧ (adopt t s).retr.answers = s.retr.answers ∧ (adopt t s).retr.flags = s.retr.flags := by
  simp [adopt]

@[simp] theorem takeTime_fields (n : BitVec 5) (t : BitVec 32) (k : BitVec 16) (r : Bool) (s : State) :
    (takeTime n t k r s).supply.heldFrom = s.supply.heldFrom ∧ (takeTime n t k r s).supply.sense = s.supply.sense
    ∧ (takeTime n t k r s).supply.goodSince = s.supply.goodSince
    ∧ (takeTime n t k r s).supply.resetLine = s.supply.resetLine
    ∧ (takeTime n t k r s).supply.releasedAt = s.supply.releasedAt
    ∧ (takeTime n t k r s).supply.resetInHold = s.supply.resetInHold
    ∧ (takeTime n t k r s).supply.ramIntact = s.supply.ramIntact
    ∧ (takeTime n t k r s).supply.staging = s.supply.staging ∧ (takeTime n t k r s).supply.commit = s.supply.commit
    ∧ (takeTime n t k r s).wit.marks = s.wit.marks ∧ (takeTime n t k r s).wit.secured = s.wit.secured
    ∧ (takeTime n t k r s).wit.ownFloor = s.wit.ownFloor ∧ (takeTime n t k r s).wit.yearStart = s.wit.yearStart
    ∧ (takeTime n t k r s).wit.lagHoldoff = s.wit.lagHoldoff ∧ (takeTime n t k r s).port.timeQ = s.port.timeQ
    ∧ (takeTime n t k r s).port.recordQ = s.port.recordQ ∧ (takeTime n t k r s).port.markQ = s.port.markQ
    ∧ (takeTime n t k r s).port.answerQ = s.port.answerQ ∧ (takeTime n t k r s).port.presenceQ = s.port.presenceQ
    ∧ (takeTime n t k r s).port.onLine = s.port.onLine ∧ (takeTime n t k r s).port.silentSince = s.port.silentSince
    ∧ (takeTime n t k r s).arch.flash = s.arch.flash ∧ (takeTime n t k r s).arch.own = s.arch.own
    ∧ (takeTime n t k r s).arch.parts = s.arch.parts ∧ (takeTime n t k r s).arch.latest = s.arch.latest
    ∧ (takeTime n t k r s).arch.failureRun = s.arch.failureRun ∧ (takeTime n t k r s).arch.state = s.arch.state
    ∧ (takeTime n t k r s).arch.releaseTicket = s.arch.releaseTicket
    ∧ (takeTime n t k r s).retr.answers = s.retr.answers ∧ (takeTime n t k r s).retr.flags = s.retr.flags := by
  simp only [takeTime, collectTime, takeOffset]; (repeat' split) <;> simp

@[simp] theorem minuteStage_fields (m : Nat) (s : State) :
    (minuteStage m s).year.rows = s.year.rows ∧ (minuteStage m s).year.minutes = s.year.minutes
    ∧ (minuteStage m s).year.coldFiring = s.year.coldFiring ∧ (minuteStage m s).year.totals = s.year.totals
    ∧ (minuteStage m s).year.day = s.year.day ∧ (minuteStage m s).year.openYear = s.year.openYear
    ∧ (minuteStage m s).year.resume = s.year.resume ∧ (minuteStage m s).year.compareDue = s.year.compareDue
    ∧ (minuteStage m s).retr.jobs = s.retr.jobs ∧ (minuteStage m s).retr.answers = s.retr.answers := by
  simp [minuteStage]

@[simp] theorem periodStages_fields (t : Nat) (s : State) :
    (periodStages t s).arch.flash = s.arch.flash ∧ (periodStages t s).arch.op = s.arch.op
    ∧ (periodStages t s).arch.own = s.arch.own ∧ (periodStages t s).arch.parts = s.arch.parts
    ∧ (periodStages t s).arch.requests = s.arch.requests ∧ (periodStages t s).arch.latest = s.arch.latest
    ∧ (periodStages t s).arch.failureRun = s.arch.failureRun ∧ (periodStages t s).arch.roundRobin = s.arch.roundRobin
    ∧ (periodStages t s).port.state = s.port.state ∧ (periodStages t s).port.timeQ = s.port.timeQ
    ∧ (periodStages t s).port.markQ = s.port.markQ ∧ (periodStages t s).port.gapQ = s.port.gapQ
    ∧ (periodStages t s).port.answerQ = s.port.answerQ ∧ (periodStages t s).port.presenceQ = s.port.presenceQ
    ∧ (periodStages t s).port.onLine = s.port.onLine ∧ (periodStages t s).port.errorRun = s.port.errorRun
    ∧ (periodStages t s).port.silentSince = s.port.silentSince
    ∧ (periodStages t s).port.activeSince = s.port.activeSince ∧ (periodStages t s).retr.jobs = s.retr.jobs
    ∧ (periodStages t s).retr.answers = s.retr.answers ∧ (periodStages t s).wit.origins = s.wit.origins
    ∧ (periodStages t s).wit.jobs = s.wit.jobs ∧ (periodStages t s).wit.work = s.wit.work
    ∧ (periodStages t s).wit.marks = s.wit.marks ∧ (periodStages t s).wit.secured = s.wit.secured
    ∧ (periodStages t s).wit.lagHoldoff = s.wit.lagHoldoff := by
  simp only [periodStages]; (repeat' split) <;> simp

@[simp] theorem closing_fields (m : Nat) (s : State) :
    (closing m s).arch.flash = s.arch.flash ∧ (closing m s).arch.op = s.arch.op ∧ (closing m s).arch.own = s.arch.own
    ∧ (closing m s).arch.parts = s.arch.parts ∧ (closing m s).arch.requests = s.arch.requests
    ∧ (closing m s).arch.latest = s.arch.latest ∧ (closing m s).arch.failureRun = s.arch.failureRun
    ∧ (closing m s).arch.roundRobin = s.arch.roundRobin ∧ (closing m s).port.state = s.port.state
    ∧ (closing m s).port.timeQ = s.port.timeQ ∧ (closing m s).port.markQ = s.port.markQ
    ∧ (closing m s).port.gapQ = s.port.gapQ ∧ (closing m s).port.answerQ = s.port.answerQ
    ∧ (closing m s).port.presenceQ = s.port.presenceQ ∧ (closing m s).port.onLine = s.port.onLine
    ∧ (closing m s).port.errorRun = s.port.errorRun ∧ (closing m s).port.silentSince = s.port.silentSince
    ∧ (closing m s).port.activeSince = s.port.activeSince ∧ (closing m s).retr.jobs = s.retr.jobs
    ∧ (closing m s).retr.answers = s.retr.answers ∧ (closing m s).wit.origins = s.wit.origins
    ∧ (closing m s).wit.jobs = s.wit.jobs ∧ (closing m s).wit.work = s.wit.work
    ∧ (closing m s).wit.marks = s.wit.marks ∧ (closing m s).wit.secured = s.wit.secured
    ∧ (closing m s).wit.lagHoldoff = s.wit.lagHoldoff := by
  simp [closing]

@[simp] theorem acceptRecord_fields (x : Origin) (r : Rec) (p : Pool) (s : State) :
    (acceptRecord x r p s).arch.flash = s.arch.flash ∧ (acceptRecord x r p s).arch.own = s.arch.own
    ∧ (acceptRecord x r p s).arch.parts = s.arch.parts ∧ (acceptRecord x r p s).arch.latest = s.arch.latest
    ∧ (acceptRecord x r p s).arch.failureRun = s.arch.failureRun ∧ (acceptRecord x r p s).arch.state = s.arch.state
    ∧ (acceptRecord x r p s).arch.releaseTicket = s.arch.releaseTicket
    ∧ (acceptRecord x r p s).wit.marks = s.wit.marks ∧ (acceptRecord x r p s).wit.secured = s.wit.secured
    ∧ (acceptRecord x r p s).wit.ownFloor = s.wit.ownFloor ∧ (acceptRecord x r p s).wit.yearStart = s.wit.yearStart
    ∧ (acceptRecord x r p s).wit.lagHoldoff = s.wit.lagHoldoff ∧ (acceptRecord x r p s).retr.answers = s.retr.answers
    ∧ (acceptRecord x r p s).retr.flags = s.retr.flags ∧ (acceptRecord x r p s).port.state = s.port.state
    ∧ (acceptRecord x r p s).port.timeQ = s.port.timeQ ∧ (acceptRecord x r p s).port.recordQ = s.port.recordQ
    ∧ (acceptRecord x r p s).port.markQ = s.port.markQ ∧ (acceptRecord x r p s).port.answerQ = s.port.answerQ
    ∧ (acceptRecord x r p s).port.presenceQ = s.port.presenceQ ∧ (acceptRecord x r p s).port.onLine = s.port.onLine
    ∧ (acceptRecord x r p s).port.errorRun = s.port.errorRun
    ∧ (acceptRecord x r p s).port.silentSince = s.port.silentSince
    ∧ (acceptRecord x r p s).port.activeSince = s.port.activeSince := by
  simp [acceptRecord]

@[simp] theorem takeRecord_fields (n : BitVec 5) (h : RecordHead) (b : List Byte) (s : State) :
    (takeRecord n h b s).year.rows = s.year.rows ∧ (takeRecord n h b s).year.minutes = s.year.minutes
    ∧ (takeRecord n h b s).year.fstops = s.year.fstops ∧ (takeRecord n h b s).year.coldFiring = s.year.coldFiring
    ∧ (takeRecord n h b s).year.totals = s.year.totals ∧ (takeRecord n h b s).year.openYear = s.year.openYear
    ∧ (takeRecord n h b s).year.resume = s.year.resume ∧ (takeRecord n h b s).year.compareDue = s.year.compareDue
    ∧ (takeRecord n h b s).arch.flash = s.arch.flash ∧ (takeRecord n h b s).arch.own = s.arch.own
    ∧ (takeRecord n h b s).arch.parts = s.arch.parts ∧ (takeRecord n h b s).arch.latest = s.arch.latest
    ∧ (takeRecord n h b s).arch.failureRun = s.arch.failureRun ∧ (takeRecord n h b s).arch.state = s.arch.state
    ∧ (takeRecord n h b s).arch.releaseTicket = s.arch.releaseTicket ∧ (takeRecord n h b s).wit.marks = s.wit.marks
    ∧ (takeRecord n h b s).wit.secured = s.wit.secured ∧ (takeRecord n h b s).wit.ownFloor = s.wit.ownFloor
    ∧ (takeRecord n h b s).wit.yearStart = s.wit.yearStart ∧ (takeRecord n h b s).wit.lagHoldoff = s.wit.lagHoldoff
    ∧ (takeRecord n h b s).retr.answers = s.retr.answers ∧ (takeRecord n h b s).retr.flags = s.retr.flags
    ∧ (takeRecord n h b s).port.state = s.port.state ∧ (takeRecord n h b s).port.timeQ = s.port.timeQ
    ∧ (takeRecord n h b s).port.recordQ = s.port.recordQ ∧ (takeRecord n h b s).port.markQ = s.port.markQ
    ∧ (takeRecord n h b s).port.answerQ = s.port.answerQ ∧ (takeRecord n h b s).port.presenceQ = s.port.presenceQ
    ∧ (takeRecord n h b s).port.onLine = s.port.onLine ∧ (takeRecord n h b s).port.errorRun = s.port.errorRun
    ∧ (takeRecord n h b s).port.silentSince = s.port.silentSince
    ∧ (takeRecord n h b s).port.activeSince = s.port.activeSince := by
  simp only [takeRecord, witnessRecord, expectedRecord, refuseRecord]; (repeat' split) <;> simp

@[simp] theorem ownMark_fields (n m : Nat) (s : State) :
    (ownMark n m s).wit.origins = s.wit.origins ∧ (ownMark n m s).wit.jobs = s.wit.jobs
    ∧ (ownMark n m s).wit.work = s.wit.work ∧ (ownMark n m s).wit.ownFloor = s.wit.ownFloor
    ∧ (ownMark n m s).wit.yearStart = s.wit.yearStart ∧ (ownMark n m s).wit.lagHoldoff = s.wit.lagHoldoff
    ∧ (ownMark n m s).retr.jobs = s.retr.jobs ∧ (ownMark n m s).retr.answers = s.retr.answers := by
  simp only [ownMark, updateSecured]; (repeat' split) <;> simp

@[simp] theorem takeMark_fields (n : BitVec 5) (l : List MarkEntry) (s : State) :
    (takeMark n l s).wit.origins = s.wit.origins ∧ (takeMark n l s).wit.jobs = s.wit.jobs
    ∧ (takeMark n l s).wit.work = s.wit.work ∧ (takeMark n l s).wit.ownFloor = s.wit.ownFloor
    ∧ (takeMark n l s).wit.yearStart = s.wit.yearStart ∧ (takeMark n l s).wit.lagHoldoff = s.wit.lagHoldoff
    ∧ (takeMark n l s).retr.jobs = s.retr.jobs ∧ (takeMark n l s).retr.answers = s.retr.answers := by
  simp only [takeMark]; (repeat' split) <;> simp

@[simp] theorem takeGap_fields (t : BitVec 8) (f : BitVec 32) (c : BitVec 8) (s : State) :
    (takeGap t f c s).arch.flash = s.arch.flash ∧ (takeGap t f c s).arch.own = s.arch.own
    ∧ (takeGap t f c s).arch.parts = s.arch.parts ∧ (takeGap t f c s).arch.latest = s.arch.latest
    ∧ (takeGap t f c s).arch.failureRun = s.arch.failureRun ∧ (takeGap t f c s).arch.state = s.arch.state
    ∧ (takeGap t f c s).arch.releaseTicket = s.arch.releaseTicket ∧ (takeGap t f c s).wit.origins = s.wit.origins
    ∧ (takeGap t f c s).wit.marks = s.wit.marks ∧ (takeGap t f c s).wit.secured = s.wit.secured
    ∧ (takeGap t f c s).wit.ownFloor = s.wit.ownFloor ∧ (takeGap t f c s).wit.yearStart = s.wit.yearStart
    ∧ (takeGap t f c s).wit.lagHoldoff = s.wit.lagHoldoff ∧ (takeGap t f c s).retr.answers = s.retr.answers
    ∧ (takeGap t f c s).retr.flags = s.retr.flags ∧ (takeGap t f c s).port.state = s.port.state
    ∧ (takeGap t f c s).port.timeQ = s.port.timeQ ∧ (takeGap t f c s).port.recordQ = s.port.recordQ
    ∧ (takeGap t f c s).port.markQ = s.port.markQ ∧ (takeGap t f c s).port.gapQ = s.port.gapQ
    ∧ (takeGap t f c s).port.answerQ = s.port.answerQ ∧ (takeGap t f c s).port.presenceQ = s.port.presenceQ
    ∧ (takeGap t f c s).port.onLine = s.port.onLine ∧ (takeGap t f c s).port.errorRun = s.port.errorRun
    ∧ (takeGap t f c s).port.silentSince = s.port.silentSince
    ∧ (takeGap t f c s).port.activeSince = s.port.activeSince := by
  simp only [takeGap, joinBackfill]; (repeat' split) <;> simp

@[simp] theorem witnessPresence_fields (n : BitVec 5) (p : PresencePayload) (s : State) :
    (witnessPresence n p s).year.rows = s.year.rows ∧ (witnessPresence n p s).year.minutes = s.year.minutes
    ∧ (witnessPresence n p s).year.fstops = s.year.fstops
    ∧ (witnessPresence n p s).year.coldFiring = s.year.coldFiring
    ∧ (witnessPresence n p s).year.totals = s.year.totals ∧ (witnessPresence n p s).year.openYear = s.year.openYear
    ∧ (witnessPresence n p s).year.resume = s.year.resume
    ∧ (witnessPresence n p s).year.compareDue = s.year.compareDue ∧ (witnessPresence n p s).arch.flash = s.arch.flash
    ∧ (witnessPresence n p s).arch.own = s.arch.own ∧ (witnessPresence n p s).arch.parts = s.arch.parts
    ∧ (witnessPresence n p s).arch.latest = s.arch.latest
    ∧ (witnessPresence n p s).arch.failureRun = s.arch.failureRun ∧ (witnessPresence n p s).arch.state = s.arch.state
    ∧ (witnessPresence n p s).arch.releaseTicket = s.arch.releaseTicket
    ∧ (witnessPresence n p s).wit.marks = s.wit.marks ∧ (witnessPresence n p s).wit.secured = s.wit.secured
    ∧ (witnessPresence n p s).wit.ownFloor = s.wit.ownFloor ∧ (witnessPresence n p s).wit.yearStart = s.wit.yearStart
    ∧ (witnessPresence n p s).wit.lagHoldoff = s.wit.lagHoldoff
    ∧ (witnessPresence n p s).retr.answers = s.retr.answers ∧ (witnessPresence n p s).retr.flags = s.retr.flags
    ∧ (witnessPresence n p s).port.state = s.port.state ∧ (witnessPresence n p s).port.timeQ = s.port.timeQ
    ∧ (witnessPresence n p s).port.recordQ = s.port.recordQ ∧ (witnessPresence n p s).port.markQ = s.port.markQ
    ∧ (witnessPresence n p s).port.answerQ = s.port.answerQ
    ∧ (witnessPresence n p s).port.presenceQ = s.port.presenceQ ∧ (witnessPresence n p s).port.onLine = s.port.onLine
    ∧ (witnessPresence n p s).port.errorRun = s.port.errorRun
    ∧ (witnessPresence n p s).port.silentSince = s.port.silentSince
    ∧ (witnessPresence n p s).port.activeSince = s.port.activeSince := by
  simp only [witnessPresence]; (repeat' split) <;> simp

@[simp] theorem heardPresence_fields (n : BitVec 5) (s : State) :
    (heardPresence n s).retr.answers = s.retr.answers ∧ (heardPresence n s).retr.flags = s.retr.flags := by
  simp [heardPresence]

@[simp] theorem placePresence_fields (st : Station) (s : State) :
    (placePresence st s).port.state = s.port.state ∧ (placePresence st s).port.timeQ = s.port.timeQ
    ∧ (placePresence st s).port.recordQ = s.port.recordQ ∧ (placePresence st s).port.gapQ = s.port.gapQ
    ∧ (placePresence st s).port.answerQ = s.port.answerQ ∧ (placePresence st s).port.onLine = s.port.onLine
    ∧ (placePresence st s).port.errorRun = s.port.errorRun
    ∧ (placePresence st s).port.silentSince = s.port.silentSince
    ∧ (placePresence st s).port.activeSince = s.port.activeSince ∧ (placePresence st s).port.ticket = s.port.ticket := by
  simp only [placePresence]; (repeat' split) <;> simp

@[simp] theorem placeBackfill_fields (r : Rec) (s : State) :
    (placeBackfill r s).arch.flash = s.arch.flash ∧ (placeBackfill r s).arch.own = s.arch.own
    ∧ (placeBackfill r s).arch.parts = s.arch.parts ∧ (placeBackfill r s).arch.latest = s.arch.latest
    ∧ (placeBackfill r s).arch.failureRun = s.arch.failureRun ∧ (placeBackfill r s).arch.state = s.arch.state
    ∧ (placeBackfill r s).arch.releaseTicket = s.arch.releaseTicket
    ∧ (placeBackfill r s).wit.origins = s.wit.origins
    ∧ (placeBackfill r s).wit.marks = s.wit.marks ∧ (placeBackfill r s).wit.secured = s.wit.secured
    ∧ (placeBackfill r s).wit.ownFloor = s.wit.ownFloor ∧ (placeBackfill r s).wit.yearStart = s.wit.yearStart
    ∧ (placeBackfill r s).wit.lagHoldoff = s.wit.lagHoldoff ∧ (placeBackfill r s).retr.answers = s.retr.answers
    ∧ (placeBackfill r s).retr.flags = s.retr.flags ∧ (placeBackfill r s).port.state = s.port.state
    ∧ (placeBackfill r s).port.timeQ = s.port.timeQ ∧ (placeBackfill r s).port.markQ = s.port.markQ
    ∧ (placeBackfill r s).port.gapQ = s.port.gapQ ∧ (placeBackfill r s).port.answerQ = s.port.answerQ
    ∧ (placeBackfill r s).port.presenceQ = s.port.presenceQ ∧ (placeBackfill r s).port.onLine = s.port.onLine
    ∧ (placeBackfill r s).port.errorRun = s.port.errorRun ∧ (placeBackfill r s).port.silentSince = s.port.silentSince
    ∧ (placeBackfill r s).port.activeSince = s.port.activeSince := by
  simp [placeBackfill]

@[simp] theorem placeGap_fields (x : Origin) (g : Gap) (s : State) :
    (placeGap x g s).wit.jobs = s.wit.jobs ∧ (placeGap x g s).wit.work = s.wit.work
    ∧ (placeGap x g s).wit.marks = s.wit.marks ∧ (placeGap x g s).wit.secured = s.wit.secured
    ∧ (placeGap x g s).wit.ownFloor = s.wit.ownFloor ∧ (placeGap x g s).wit.yearStart = s.wit.yearStart
    ∧ (placeGap x g s).wit.lagHoldoff = s.wit.lagHoldoff ∧ (placeGap x g s).port.state = s.port.state
    ∧ (placeGap x g s).port.timeQ = s.port.timeQ ∧ (placeGap x g s).port.recordQ = s.port.recordQ
    ∧ (placeGap x g s).port.markQ = s.port.markQ ∧ (placeGap x g s).port.answerQ = s.port.answerQ
    ∧ (placeGap x g s).port.presenceQ = s.port.presenceQ ∧ (placeGap x g s).port.onLine = s.port.onLine
    ∧ (placeGap x g s).port.errorRun = s.port.errorRun ∧ (placeGap x g s).port.silentSince = s.port.silentSince
    ∧ (placeGap x g s).port.activeSince = s.port.activeSince ∧ (placeGap x g s).port.ticket = s.port.ticket := by
  simp [placeGap]

@[simp] theorem startJob_fields (j : Job) (s : State) :
    (startJob j s).arch.flash = s.arch.flash ∧ (startJob j s).arch.own = s.arch.own
    ∧ (startJob j s).arch.parts = s.arch.parts ∧ (startJob j s).arch.latest = s.arch.latest
    ∧ (startJob j s).arch.failureRun = s.arch.failureRun ∧ (startJob j s).arch.state = s.arch.state
    ∧ (startJob j s).arch.releaseTicket = s.arch.releaseTicket ∧ (startJob j s).wit.origins = s.wit.origins
    ∧ (startJob j s).wit.marks = s.wit.marks ∧ (startJob j s).wit.secured = s.wit.secured
    ∧ (startJob j s).wit.ownFloor = s.wit.ownFloor ∧ (startJob j s).wit.yearStart = s.wit.yearStart
    ∧ (startJob j s).wit.lagHoldoff = s.wit.lagHoldoff ∧ (startJob j s).retr.answers = s.retr.answers
    ∧ (startJob j s).retr.flags = s.retr.flags ∧ (startJob j s).port.state = s.port.state
    ∧ (startJob j s).port.timeQ = s.port.timeQ ∧ (startJob j s).port.recordQ = s.port.recordQ
    ∧ (startJob j s).port.markQ = s.port.markQ ∧ (startJob j s).port.gapQ = s.port.gapQ
    ∧ (startJob j s).port.answerQ = s.port.answerQ ∧ (startJob j s).port.presenceQ = s.port.presenceQ
    ∧ (startJob j s).port.onLine = s.port.onLine ∧ (startJob j s).port.errorRun = s.port.errorRun
    ∧ (startJob j s).port.silentSince = s.port.silentSince ∧ (startJob j s).port.activeSince = s.port.activeSince := by
  simp [startJob]

@[simp] theorem admitJob_fields (j : Job) (s : State) :
    (admitJob j s).arch.flash = s.arch.flash ∧ (admitJob j s).arch.own = s.arch.own ∧ (admitJob j s).arch.parts = s.arch.parts
    ∧ (admitJob j s).arch.latest = s.arch.latest ∧ (admitJob j s).arch.failureRun = s.arch.failureRun
    ∧ (admitJob j s).arch.state = s.arch.state ∧ (admitJob j s).arch.releaseTicket = s.arch.releaseTicket
    ∧ (admitJob j s).wit.origins = s.wit.origins ∧ (admitJob j s).wit.marks = s.wit.marks
    ∧ (admitJob j s).wit.secured = s.wit.secured ∧ (admitJob j s).wit.ownFloor = s.wit.ownFloor
    ∧ (admitJob j s).wit.yearStart = s.wit.yearStart ∧ (admitJob j s).wit.lagHoldoff = s.wit.lagHoldoff
    ∧ (admitJob j s).retr.flags = s.retr.flags ∧ (admitJob j s).port.state = s.port.state
    ∧ (admitJob j s).port.timeQ = s.port.timeQ ∧ (admitJob j s).port.recordQ = s.port.recordQ
    ∧ (admitJob j s).port.markQ = s.port.markQ ∧ (admitJob j s).port.gapQ = s.port.gapQ
    ∧ (admitJob j s).port.answerQ = s.port.answerQ ∧ (admitJob j s).port.presenceQ = s.port.presenceQ
    ∧ (admitJob j s).port.onLine = s.port.onLine ∧ (admitJob j s).port.errorRun = s.port.errorRun
    ∧ (admitJob j s).port.silentSince = s.port.silentSince ∧ (admitJob j s).port.activeSince = s.port.activeSince := by
  simp only [admitJob]; (repeat' split) <;> simp

@[simp] theorem clearAttention_fields (h : QueryHead) (c : BitVec 16) (s : State) :
    (clearAttention h c s).retr.jobs = s.retr.jobs ∧ (clearAttention h c s).port.state = s.port.state
    ∧ (clearAttention h c s).port.timeQ = s.port.timeQ ∧ (clearAttention h c s).port.recordQ = s.port.recordQ
    ∧ (clearAttention h c s).port.markQ = s.port.markQ ∧ (clearAttention h c s).port.gapQ = s.port.gapQ
    ∧ (clearAttention h c s).port.answerQ = s.port.answerQ ∧ (clearAttention h c s).port.presenceQ = s.port.presenceQ
    ∧ (clearAttention h c s).port.onLine = s.port.onLine ∧ (clearAttention h c s).port.errorRun = s.port.errorRun
    ∧ (clearAttention h c s).port.silentSince = s.port.silentSince
    ∧ (clearAttention h c s).port.activeSince = s.port.activeSince := by
  simp [clearAttention]

@[simp] theorem placeAnswer_fields (t : AnswerTel) (s : State) :
    (placeAnswer t s).port.state = s.port.state ∧ (placeAnswer t s).port.timeQ = s.port.timeQ
    ∧ (placeAnswer t s).port.recordQ = s.port.recordQ ∧ (placeAnswer t s).port.markQ = s.port.markQ
    ∧ (placeAnswer t s).port.gapQ = s.port.gapQ ∧ (placeAnswer t s).port.presenceQ = s.port.presenceQ
    ∧ (placeAnswer t s).port.onLine = s.port.onLine ∧ (placeAnswer t s).port.errorRun = s.port.errorRun
    ∧ (placeAnswer t s).port.silentSince = s.port.silentSince
    ∧ (placeAnswer t s).port.activeSince = s.port.activeSince ∧ (placeAnswer t s).port.ticket = s.port.ticket := by
  simp [placeAnswer]

@[simp] theorem setStaging_fields (b : List Byte) (s : State) :
    (setStaging b s).supply.station = s.supply.station ∧ (setStaging b s).supply.heldFrom = s.supply.heldFrom
    ∧ (setStaging b s).supply.sense = s.supply.sense ∧ (setStaging b s).supply.goodSince = s.supply.goodSince
    ∧ (setStaging b s).supply.resetLine = s.supply.resetLine
    ∧ (setStaging b s).supply.releasedAt = s.supply.releasedAt
    ∧ (setStaging b s).supply.resetInHold = s.supply.resetInHold
    ∧ (setStaging b s).supply.ramIntact = s.supply.ramIntact
    ∧ (setStaging b s).supply.clockValid = s.supply.clockValid ∧ (setStaging b s).supply.output = s.supply.output
    ∧ (setStaging b s).supply.commit = s.supply.commit := by
  simp [setStaging]

@[simp] theorem configAnswer_fields (h : QueryHead) (r : ConfigResult) (off : Nat) (s : State) :
    (configAnswer h r off s).retr.jobs = s.retr.jobs ∧ (configAnswer h r off s).retr.flags = s.retr.flags
    ∧ (configAnswer h r off s).port.state = s.port.state ∧ (configAnswer h r off s).port.timeQ = s.port.timeQ
    ∧ (configAnswer h r off s).port.recordQ = s.port.recordQ ∧ (configAnswer h r off s).port.markQ = s.port.markQ
    ∧ (configAnswer h r off s).port.gapQ = s.port.gapQ ∧ (configAnswer h r off s).port.answerQ = s.port.answerQ
    ∧ (configAnswer h r off s).port.presenceQ = s.port.presenceQ
    ∧ (configAnswer h r off s).port.onLine = s.port.onLine ∧ (configAnswer h r off s).port.errorRun = s.port.errorRun
    ∧ (configAnswer h r off s).port.silentSince = s.port.silentSince
    ∧ (configAnswer h r off s).port.activeSince = s.port.activeSince := by
  simp [configAnswer]

@[simp] theorem configBlock_fields (h : QueryHead) (off : BitVec 16) (b : List Byte) (s : State) :
    (configBlock h off b s).retr.jobs = s.retr.jobs ∧ (configBlock h off b s).retr.flags = s.retr.flags
    ∧ (configBlock h off b s).port.state = s.port.state ∧ (configBlock h off b s).port.timeQ = s.port.timeQ
    ∧ (configBlock h off b s).port.recordQ = s.port.recordQ ∧ (configBlock h off b s).port.markQ = s.port.markQ
    ∧ (configBlock h off b s).port.gapQ = s.port.gapQ ∧ (configBlock h off b s).port.answerQ = s.port.answerQ
    ∧ (configBlock h off b s).port.presenceQ = s.port.presenceQ ∧ (configBlock h off b s).port.onLine = s.port.onLine
    ∧ (configBlock h off b s).port.errorRun = s.port.errorRun
    ∧ (configBlock h off b s).port.silentSince = s.port.silentSince
    ∧ (configBlock h off b s).port.activeSince = s.port.activeSince
    ∧ (configBlock h off b s).supply.station = s.supply.station
    ∧ (configBlock h off b s).supply.heldFrom = s.supply.heldFrom
    ∧ (configBlock h off b s).supply.sense = s.supply.sense
    ∧ (configBlock h off b s).supply.goodSince = s.supply.goodSince
    ∧ (configBlock h off b s).supply.resetLine = s.supply.resetLine
    ∧ (configBlock h off b s).supply.releasedAt = s.supply.releasedAt
    ∧ (configBlock h off b s).supply.resetInHold = s.supply.resetInHold
    ∧ (configBlock h off b s).supply.ramIntact = s.supply.ramIntact
    ∧ (configBlock h off b s).supply.clockValid = s.supply.clockValid
    ∧ (configBlock h off b s).supply.output = s.supply.output
    ∧ (configBlock h off b s).supply.commit = s.supply.commit := by
  simp only [configBlock]; (repeat' split) <;> simp

@[simp] theorem startCommit_fields (h : QueryHead) (l c : BitVec 16) (s : State) :
    (startCommit h l c s).supply.station = s.supply.station
    ∧ (startCommit h l c s).supply.heldFrom = s.supply.heldFrom ∧ (startCommit h l c s).supply.sense = s.supply.sense
    ∧ (startCommit h l c s).supply.goodSince = s.supply.goodSince
    ∧ (startCommit h l c s).supply.resetLine = s.supply.resetLine
    ∧ (startCommit h l c s).supply.releasedAt = s.supply.releasedAt
    ∧ (startCommit h l c s).supply.resetInHold = s.supply.resetInHold
    ∧ (startCommit h l c s).supply.ramIntact = s.supply.ramIntact
    ∧ (startCommit h l c s).supply.clockValid = s.supply.clockValid
    ∧ (startCommit h l c s).supply.output = s.supply.output ∧ (startCommit h l c s).arch.flash = s.arch.flash
    ∧ (startCommit h l c s).arch.own = s.arch.own ∧ (startCommit h l c s).arch.parts = s.arch.parts
    ∧ (startCommit h l c s).arch.outbound = s.arch.outbound ∧ (startCommit h l c s).arch.requests = s.arch.requests
    ∧ (startCommit h l c s).arch.lastAssigned = s.arch.lastAssigned
    ∧ (startCommit h l c s).arch.latest = s.arch.latest ∧ (startCommit h l c s).arch.failureRun = s.arch.failureRun
    ∧ (startCommit h l c s).arch.state = s.arch.state ∧ (startCommit h l c s).arch.roundRobin = s.arch.roundRobin
    ∧ (startCommit h l c s).arch.releaseTicket = s.arch.releaseTicket
    ∧ (startCommit h l c s).arch.abandoned = s.arch.abandoned := by
  simp [startCommit]

@[simp] theorem configCommit_fields (h : QueryHead) (l c : BitVec 16) (s : State) :
    (configCommit h l c s).supply.station = s.supply.station
    ∧ (configCommit h l c s).supply.heldFrom = s.supply.heldFrom
    ∧ (configCommit h l c s).supply.sense = s.supply.sense
    ∧ (configCommit h l c s).supply.goodSince = s.supply.goodSince
    ∧ (configCommit h l c s).supply.resetLine = s.supply.resetLine
    ∧ (configCommit h l c s).supply.releasedAt = s.supply.releasedAt
    ∧ (configCommit h l c s).supply.resetInHold = s.supply.resetInHold
    ∧ (configCommit h l c s).supply.ramIntact = s.supply.ramIntact
    ∧ (configCommit h l c s).supply.clockValid = s.supply.clockValid
    ∧ (configCommit h l c s).supply.output = s.supply.output ∧ (configCommit h l c s).arch.flash = s.arch.flash
    ∧ (configCommit h l c s).arch.own = s.arch.own ∧ (configCommit h l c s).arch.parts = s.arch.parts
    ∧ (configCommit h l c s).arch.outbound = s.arch.outbound ∧ (configCommit h l c s).arch.requests = s.arch.requests
    ∧ (configCommit h l c s).arch.lastAssigned = s.arch.lastAssigned
    ∧ (configCommit h l c s).arch.latest = s.arch.latest ∧ (configCommit h l c s).arch.failureRun = s.arch.failureRun
    ∧ (configCommit h l c s).arch.state = s.arch.state ∧ (configCommit h l c s).arch.roundRobin = s.arch.roundRobin
    ∧ (configCommit h l c s).arch.releaseTicket = s.arch.releaseTicket
    ∧ (configCommit h l c s).arch.abandoned = s.arch.abandoned
    ∧ (configCommit h l c s).retr.jobs = s.retr.jobs ∧ (configCommit h l c s).retr.flags = s.retr.flags
    ∧ (configCommit h l c s).port.state = s.port.state ∧ (configCommit h l c s).port.timeQ = s.port.timeQ
    ∧ (configCommit h l c s).port.recordQ = s.port.recordQ ∧ (configCommit h l c s).port.markQ = s.port.markQ
    ∧ (configCommit h l c s).port.gapQ = s.port.gapQ ∧ (configCommit h l c s).port.answerQ = s.port.answerQ
    ∧ (configCommit h l c s).port.presenceQ = s.port.presenceQ ∧ (configCommit h l c s).port.onLine = s.port.onLine
    ∧ (configCommit h l c s).port.errorRun = s.port.errorRun
    ∧ (configCommit h l c s).port.silentSince = s.port.silentSince
    ∧ (configCommit h l c s).port.activeSince = s.port.activeSince := by
  simp only [configCommit]; (repeat' split) <;> simp

@[simp] theorem voidImage_fields (s : State) :
    (voidImage s).arch.op = s.arch.op ∧ (voidImage s).arch.own = s.arch.own ∧ (voidImage s).arch.parts = s.arch.parts
    ∧ (voidImage s).arch.outbound = s.arch.outbound ∧ (voidImage s).arch.requests = s.arch.requests
    ∧ (voidImage s).arch.lastAssigned = s.arch.lastAssigned ∧ (voidImage s).arch.latest = s.arch.latest
    ∧ (voidImage s).arch.failureRun = s.arch.failureRun ∧ (voidImage s).arch.state = s.arch.state
    ∧ (voidImage s).arch.roundRobin = s.arch.roundRobin ∧ (voidImage s).arch.releaseTicket = s.arch.releaseTicket
    ∧ (voidImage s).arch.abandoned = s.arch.abandoned := by
  simp only [voidImage]; (repeat' split) <;> simp

@[simp] theorem finishCommit_fields (r : ConfigResult) (s : State) :
    (finishCommit r s).supply.station = s.supply.station ∧ (finishCommit r s).supply.heldFrom = s.supply.heldFrom
    ∧ (finishCommit r s).supply.sense = s.supply.sense ∧ (finishCommit r s).supply.goodSince = s.supply.goodSince
    ∧ (finishCommit r s).supply.resetLine = s.supply.resetLine
    ∧ (finishCommit r s).supply.releasedAt = s.supply.releasedAt
    ∧ (finishCommit r s).supply.resetInHold = s.supply.resetInHold
    ∧ (finishCommit r s).supply.ramIntact = s.supply.ramIntact
    ∧ (finishCommit r s).supply.clockValid = s.supply.clockValid ∧ (finishCommit r s).supply.output = s.supply.output
    ∧ (finishCommit r s).supply.staging = s.supply.staging ∧ (finishCommit r s).arch.flash = s.arch.flash
    ∧ (finishCommit r s).arch.own = s.arch.own ∧ (finishCommit r s).arch.parts = s.arch.parts
    ∧ (finishCommit r s).arch.outbound = s.arch.outbound ∧ (finishCommit r s).arch.requests = s.arch.requests
    ∧ (finishCommit r s).arch.lastAssigned = s.arch.lastAssigned ∧ (finishCommit r s).arch.latest = s.arch.latest
    ∧ (finishCommit r s).arch.failureRun = s.arch.failureRun ∧ (finishCommit r s).arch.state = s.arch.state
    ∧ (finishCommit r s).arch.roundRobin = s.arch.roundRobin
    ∧ (finishCommit r s).arch.releaseTicket = s.arch.releaseTicket
    ∧ (finishCommit r s).arch.abandoned = s.arch.abandoned ∧ (finishCommit r s).retr.jobs = s.retr.jobs
    ∧ (finishCommit r s).retr.flags = s.retr.flags ∧ (finishCommit r s).port.state = s.port.state
    ∧ (finishCommit r s).port.timeQ = s.port.timeQ ∧ (finishCommit r s).port.recordQ = s.port.recordQ
    ∧ (finishCommit r s).port.markQ = s.port.markQ ∧ (finishCommit r s).port.gapQ = s.port.gapQ
    ∧ (finishCommit r s).port.answerQ = s.port.answerQ ∧ (finishCommit r s).port.presenceQ = s.port.presenceQ
    ∧ (finishCommit r s).port.onLine = s.port.onLine ∧ (finishCommit r s).port.errorRun = s.port.errorRun
    ∧ (finishCommit r s).port.silentSince = s.port.silentSince
    ∧ (finishCommit r s).port.activeSince = s.port.activeSince := by
  simp only [finishCommit]; (repeat' split) <;> simp

@[simp] theorem programImagePage_fields (p : Nat) (good : Bool) (s : State) :
    (programImagePage p good s).arch.op = s.arch.op ∧ (programImagePage p good s).arch.own = s.arch.own
    ∧ (programImagePage p good s).arch.parts = s.arch.parts
    ∧ (programImagePage p good s).arch.outbound = s.arch.outbound
    ∧ (programImagePage p good s).arch.requests = s.arch.requests
    ∧ (programImagePage p good s).arch.lastAssigned = s.arch.lastAssigned
    ∧ (programImagePage p good s).arch.latest = s.arch.latest
    ∧ (programImagePage p good s).arch.failureRun = s.arch.failureRun
    ∧ (programImagePage p good s).arch.state = s.arch.state
    ∧ (programImagePage p good s).arch.roundRobin = s.arch.roundRobin
    ∧ (programImagePage p good s).arch.releaseTicket = s.arch.releaseTicket
    ∧ (programImagePage p good s).arch.abandoned = s.arch.abandoned
    ∧ (programImagePage p good s).year.rows = s.year.rows
    ∧ (programImagePage p good s).year.minutes = s.year.minutes
    ∧ (programImagePage p good s).year.fstops = s.year.fstops
    ∧ (programImagePage p good s).year.coldFiring = s.year.coldFiring
    ∧ (programImagePage p good s).year.totals = s.year.totals
    ∧ (programImagePage p good s).year.openYear = s.year.openYear
    ∧ (programImagePage p good s).year.resume = s.year.resume
    ∧ (programImagePage p good s).year.compareDue = s.year.compareDue := by
  cases good <;> simp [programImagePage, countUp]

@[simp] theorem noteAbandoned_fields (a : Area) (k : Nat) (s : State) :
    (noteAbandoned a k s).arch = { s.arch with abandoned := some (a, k) } := rfl

@[simp] theorem cutFlash_fields (good : Bool) (s : State) :
    (cutFlash good s).arch.lastAssigned = s.arch.lastAssigned ∧ (cutFlash good s).arch.roundRobin = s.arch.roundRobin
    ∧ (cutFlash good s).wit.jobs = s.wit.jobs ∧ (cutFlash good s).wit.work = s.wit.work
    ∧ (cutFlash good s).wit.marks = s.wit.marks ∧ (cutFlash good s).wit.secured = s.wit.secured
    ∧ (cutFlash good s).wit.ownFloor = s.wit.ownFloor ∧ (cutFlash good s).wit.lagHoldoff = s.wit.lagHoldoff
    ∧ (cutFlash good s).retr.answers = s.retr.answers ∧ (cutFlash good s).port.state = s.port.state
    ∧ (cutFlash good s).port.timeQ = s.port.timeQ ∧ (cutFlash good s).port.recordQ = s.port.recordQ
    ∧ (cutFlash good s).port.markQ = s.port.markQ ∧ (cutFlash good s).port.answerQ = s.port.answerQ
    ∧ (cutFlash good s).port.presenceQ = s.port.presenceQ ∧ (cutFlash good s).port.onLine = s.port.onLine
    ∧ (cutFlash good s).port.errorRun = s.port.errorRun ∧ (cutFlash good s).port.silentSince = s.port.silentSince
    ∧ (cutFlash good s).port.activeSince = s.port.activeSince ∧ (cutFlash good s).year.rows = s.year.rows
    ∧ (cutFlash good s).year.minutes = s.year.minutes ∧ (cutFlash good s).year.fstops = s.year.fstops
    ∧ (cutFlash good s).year.coldFiring = s.year.coldFiring ∧ (cutFlash good s).year.totals = s.year.totals
    ∧ (cutFlash good s).year.openYear = s.year.openYear ∧ (cutFlash good s).year.resume = s.year.resume
    ∧ (cutFlash good s).year.compareDue = s.year.compareDue := by
  simp only [cutFlash]; (repeat' split) <;> simp

@[simp] theorem cutSupply_fields (s : State) :
    (cutSupply s).supply.station = s.supply.station ∧ (cutSupply s).supply.heldFrom = s.supply.heldFrom
    ∧ (cutSupply s).supply.sense = s.supply.sense ∧ (cutSupply s).supply.goodSince = s.supply.goodSince
    ∧ (cutSupply s).supply.resetLine = s.supply.resetLine ∧ (cutSupply s).supply.releasedAt = s.supply.releasedAt
    ∧ (cutSupply s).supply.resetInHold = s.supply.resetInHold ∧ (cutSupply s).supply.ramIntact = s.supply.ramIntact
    ∧ (cutSupply s).supply.clockValid = s.supply.clockValid ∧ (cutSupply s).supply.staging = s.supply.staging := by
  simp [cutSupply]

@[simp] theorem enterHold_fields (st : Station) (s : State) :
    (enterHold st s).supply.goodSince = s.supply.goodSince ∧ (enterHold st s).supply.resetLine = s.supply.resetLine
    ∧ (enterHold st s).supply.releasedAt = s.supply.releasedAt
    ∧ (enterHold st s).supply.clockValid = s.supply.clockValid ∧ (enterHold st s).supply.output = s.supply.output
    ∧ (enterHold st s).supply.staging = s.supply.staging ∧ (enterHold st s).supply.commit = s.supply.commit := by
  simp [enterHold]

@[simp] theorem foldl_removeJob_fields (l : List Nat) : ∀ s : State,
    (l.foldl (fun t n => removeJob n t) s).retr.answers = s.retr.answers
    ∧ (l.foldl (fun t n => removeJob n t) s).retr.flags = s.retr.flags
    ∧ (l.foldl (fun t n => removeJob n t) s).arch.flash = s.arch.flash
    ∧ (l.foldl (fun t n => removeJob n t) s).arch.op = s.arch.op
    ∧ (l.foldl (fun t n => removeJob n t) s).arch.own = s.arch.own
    ∧ (l.foldl (fun t n => removeJob n t) s).arch.parts = s.arch.parts
    ∧ (l.foldl (fun t n => removeJob n t) s).arch.outbound = s.arch.outbound
    ∧ (l.foldl (fun t n => removeJob n t) s).arch.lastAssigned = s.arch.lastAssigned
    ∧ (l.foldl (fun t n => removeJob n t) s).arch.latest = s.arch.latest
    ∧ (l.foldl (fun t n => removeJob n t) s).arch.failureRun = s.arch.failureRun
    ∧ (l.foldl (fun t n => removeJob n t) s).arch.state = s.arch.state
    ∧ (l.foldl (fun t n => removeJob n t) s).arch.roundRobin = s.arch.roundRobin
    ∧ (l.foldl (fun t n => removeJob n t) s).arch.releaseTicket = s.arch.releaseTicket
    ∧ (l.foldl (fun t n => removeJob n t) s).arch.abandoned = s.arch.abandoned := by
  induction l with
  | nil => simp
  | cons n r ih => intro s; simpa using ih (removeJob n s)

@[simp] theorem dropSilentJobs_fields (s : State) :
    (dropSilentJobs s).retr.answers = s.retr.answers ∧ (dropSilentJobs s).retr.flags = s.retr.flags
    ∧ (dropSilentJobs s).arch.flash = s.arch.flash ∧ (dropSilentJobs s).arch.op = s.arch.op
    ∧ (dropSilentJobs s).arch.own = s.arch.own ∧ (dropSilentJobs s).arch.parts = s.arch.parts
    ∧ (dropSilentJobs s).arch.outbound = s.arch.outbound ∧ (dropSilentJobs s).arch.lastAssigned = s.arch.lastAssigned
    ∧ (dropSilentJobs s).arch.latest = s.arch.latest ∧ (dropSilentJobs s).arch.failureRun = s.arch.failureRun
    ∧ (dropSilentJobs s).arch.state = s.arch.state ∧ (dropSilentJobs s).arch.roundRobin = s.arch.roundRobin
    ∧ (dropSilentJobs s).arch.releaseTicket = s.arch.releaseTicket
    ∧ (dropSilentJobs s).arch.abandoned = s.arch.abandoned := by
  simp [dropSilentJobs]

@[simp] theorem dropAged_fields (s : State) :
    (dropAged s).wit.jobs = s.wit.jobs ∧ (dropAged s).wit.work = s.wit.work
    ∧ (dropAged s).wit.secured = s.wit.secured ∧ (dropAged s).wit.ownFloor = s.wit.ownFloor
    ∧ (dropAged s).wit.yearStart = s.wit.yearStart ∧ (dropAged s).wit.lagHoldoff = s.wit.lagHoldoff := by
  simp [dropAged]

@[simp] theorem warmState_fields (s : State) :
    (warmState s).supply.sense = s.supply.sense ∧ (warmState s).supply.goodSince = s.supply.goodSince
    ∧ (warmState s).supply.resetLine = s.supply.resetLine ∧ (warmState s).supply.releasedAt = s.supply.releasedAt
    ∧ (warmState s).supply.resetInHold = s.supply.resetInHold ∧ (warmState s).supply.ramIntact = s.supply.ramIntact
    ∧ (warmState s).supply.clockValid = s.supply.clockValid ∧ (warmState s).supply.staging = s.supply.staging
    ∧ (warmState s).supply.commit = s.supply.commit ∧ (warmState s).tb.plant = s.tb.plant
    ∧ (warmState s).tb.closed = s.tb.closed ∧ (warmState s).tb.sampled = s.tb.sampled
    ∧ (warmState s).tb.stepCount = s.tb.stepCount ∧ (warmState s).tb.stepNegative = s.tb.stepNegative
    ∧ (warmState s).tb.peers = s.tb.peers ∧ (warmState s).tb.reference = s.tb.reference
    ∧ (warmState s).tb.stored = s.tb.stored ∧ (warmState s).tb.window = s.tb.window
    ∧ (warmState s).tb.holdFrom = s.tb.holdFrom ∧ (warmState s).tb.dues = s.tb.dues
    ∧ (warmState s).tb.taken = s.tb.taken ∧ (warmState s).port.timeQ = s.port.timeQ
    ∧ (warmState s).port.recordQ = s.port.recordQ ∧ (warmState s).port.markQ = s.port.markQ
    ∧ (warmState s).port.gapQ = s.port.gapQ ∧ (warmState s).port.answerQ = s.port.answerQ
    ∧ (warmState s).port.presenceQ = s.port.presenceQ ∧ (warmState s).port.onLine = s.port.onLine
    ∧ (warmState s).port.silentSince = s.port.silentSince ∧ (warmState s).port.ticket = s.port.ticket := by
  simp only [warmState]; (repeat' split) <;> simp

@[simp] theorem scanFlash_fields (s : State) :
    (scanFlash s).arch.flash = s.arch.flash ∧ (scanFlash s).arch.op = s.arch.op
    ∧ (scanFlash s).arch.outbound = s.arch.outbound ∧ (scanFlash s).arch.requests = s.arch.requests
    ∧ (scanFlash s).arch.failureRun = s.arch.failureRun ∧ (scanFlash s).arch.state = s.arch.state
    ∧ (scanFlash s).arch.roundRobin = s.arch.roundRobin ∧ (scanFlash s).arch.releaseTicket = s.arch.releaseTicket
    ∧ (scanFlash s).arch.abandoned = s.arch.abandoned
    ∧ (scanFlash s).wit.jobs = s.wit.jobs ∧ (scanFlash s).wit.work = s.wit.work
    ∧ (scanFlash s).wit.marks = s.wit.marks ∧ (scanFlash s).wit.secured = s.wit.secured
    ∧ (scanFlash s).wit.ownFloor = s.wit.ownFloor ∧ (scanFlash s).wit.yearStart = s.wit.yearStart
    ∧ (scanFlash s).wit.lagHoldoff = s.wit.lagHoldoff := by
  simp [scanFlash]

@[simp] theorem scanRecords_fields (l : List Rec) (s : State) :
    (scanRecords l s).arch.flash = s.arch.flash ∧ (scanRecords l s).arch.op = s.arch.op
    ∧ (scanRecords l s).arch.own = s.arch.own ∧ (scanRecords l s).arch.parts = s.arch.parts
    ∧ (scanRecords l s).arch.requests = s.arch.requests ∧ (scanRecords l s).arch.latest = s.arch.latest
    ∧ (scanRecords l s).arch.failureRun = s.arch.failureRun ∧ (scanRecords l s).arch.roundRobin = s.arch.roundRobin
    ∧ (scanRecords l s).port.state = s.port.state ∧ (scanRecords l s).port.timeQ = s.port.timeQ
    ∧ (scanRecords l s).port.markQ = s.port.markQ ∧ (scanRecords l s).port.gapQ = s.port.gapQ
    ∧ (scanRecords l s).port.answerQ = s.port.answerQ ∧ (scanRecords l s).port.presenceQ = s.port.presenceQ
    ∧ (scanRecords l s).port.onLine = s.port.onLine ∧ (scanRecords l s).port.errorRun = s.port.errorRun
    ∧ (scanRecords l s).port.silentSince = s.port.silentSince
    ∧ (scanRecords l s).port.activeSince = s.port.activeSince ∧ (scanRecords l s).retr.jobs = s.retr.jobs
    ∧ (scanRecords l s).retr.answers = s.retr.answers ∧ (scanRecords l s).wit.origins = s.wit.origins
    ∧ (scanRecords l s).wit.jobs = s.wit.jobs ∧ (scanRecords l s).wit.work = s.wit.work
    ∧ (scanRecords l s).wit.marks = s.wit.marks ∧ (scanRecords l s).wit.secured = s.wit.secured
    ∧ (scanRecords l s).wit.lagHoldoff = s.wit.lagHoldoff := by
  simp only [scanRecords]; (repeat' split) <;> simp

end Sys2Proof.Machine
end

