-- ==== Sys2Proof/Laws/Gaps.lean ====
section
/-! SUPPORT. What the test of the GAP conditions does (R141): one lemma for the test of a partition, and one for the test
of every partition, that say all it can do. -/

namespace Sys2Proof.Machine

theorem mem_setOrigin_of_ne {s : State} {o x : Origin} (h : x ∈ s.wit.origins) (hp : x.place ≠ o.place) :
    x ∈ (setOrigin o s).wit.origins := by
  simp only [setOrigin, State.setWit, List.mem_map]
  exact ⟨x, h, by simp [hp]⟩

theorem originAt_place {s : State} {p : Nat} {o : Origin} (h : originAt s p = some o) : o.place = p := by
  have := List.find?_some h
  simpa using this

theorem originAt_mem {s : State} {p : Nat} {o : Origin} (h : originAt s p = some o) : o ∈ s.wit.origins :=
  List.mem_of_find?_eq_some h

/-- What a test of one partition's conditions does (R141): nothing, or the GAP of its origin is formed and placed, or
formed to wait. -/
theorem formGap_cases (p : Nat) (s : State) :
    (formGap p s = s ∧ ∀ o, originAt s p = some o → gapWanted s o = false)
    ∨ ∃ o, originAt s p = some o ∧ gapWanted s o = true ∧
      let count := min 16 (min (o.known - o.expected + 1) (slotsAvailable s o))
      ((s.port.gapQ.length < 2 ∧ gapTickets s = [] ∧ formGap p s =
          (setOrigin { o with gap := some ⟨o.expected, count, .queued⟩ } s).setPort
            { s.port with gapQ := s.port.gapQ ++ [⟨o.station, o.expected, count⟩] })
      ∨ (¬ (s.port.gapQ.length < 2 ∧ gapTickets s = []) ∧ formGap p s =
          (setOrigin { o with gap := some ⟨o.expected, count, .waiting s.port.ticket⟩ } s).setPort
            { s.port with ticket := s.port.ticket + 1 })) := by
  cases ho : originAt s p with
  | none => exact Or.inl ⟨by simp [formGap, ho], by simp⟩
  | some o =>
    by_cases hw : gapWanted s o = true
    · right
      refine ⟨o, rfl, hw, ?_⟩
      by_cases hr : s.port.gapQ.length < 2 ∧ gapTickets s = []
      · exact Or.inl ⟨hr.1, hr.2, by simp [formGap, ho, hw, hr]⟩
      · refine Or.inr ⟨hr, ?_⟩
        simp only [formGap, ho, hw, if_true, if_neg hr]
        rfl
    · left
      exact ⟨by simp [formGap, ho, hw], by simpa using hw⟩

theorem originAt_setOrigin {s : State} {o o' : Origin} {p : Nat} (h : originAt s p = some o) (hp : o'.place = p) :
    originAt (setOrigin o' s) p = some o' := by
  have hm := originAt_mem h
  have ho := originAt_place h
  simp only [originAt, setOrigin, State.setWit, List.find?_map]
  cases hf : List.find? ((fun x : Origin => x.place == p) ∘ fun x => if x.place = o'.place then o' else x) s.wit.origins with
  | none =>
    rw [List.find?_eq_none] at hf
    have := hf o hm
    simp [ho, hp] at this
  | some x =>
    have := List.find?_some hf
    simp only [Function.comp, beq_iff_eq] at this
    by_cases hx : x.place = o'.place
    · simp [hx]
    · simp [hx] at this; omega

theorem originAt_setOrigin_ne {s : State} {o : Origin} {p : Nat} (hp : o.place ≠ p) :
    originAt (setOrigin o s) p = originAt s p := by
  simp only [originAt, setOrigin, State.setWit, List.find?_map]
  have e : ((fun x : Origin => x.place == p) ∘ fun x => if x.place = o.place then o else x) = fun x => x.place == p := by
    funext x
    by_cases hx : x.place = o.place <;> simp [hx]
  rw [e]
  cases hf : List.find? (fun x : Origin => x.place == p) s.wit.origins with
  | none => rfl
  | some x =>
    have := List.find?_some hf
    simp only [beq_iff_eq] at this
    simp [this, Ne.symm hp]

/-- The tickets are those of the origins whose GAP waits for room. -/
theorem gapTickets_eq_nil (s : State) : gapTickets s = [] ↔ ∀ y ∈ s.wit.origins, ¬ WaitsForRoom y := by
  simp only [gapTickets, List.filterMap_eq_nil_iff, WaitsForRoom]
  refine forall₂_congr (fun y _ => ?_)
  rcases y.gap with _ | ⟨f, c, _ | _ | _⟩ <;> simp

/-- What a test of other partitions leaves of a state, for the test of partition p that follows (R141). -/
structure TestedBefore (p : Nat) (s a : State) : Prop where
  origin : originAt a p = originAt s p
  places : a.wit.origins.map (·.place) = s.wit.origins.map (·.place)
  supply : a.supply = s.supply
  slots : ∀ o, slotsAvailable a o = slotsAvailable s o
  queue : ∃ new, a.port.gapQ = s.port.gapQ ++ new
  ticket : s.port.ticket ≤ a.port.ticket
  waiting : (s.wit.origins.map (·.place)).Nodup → ∀ y ∈ s.wit.origins, y.gap ≠ none → y ∈ a.wit.origins

theorem TestedBefore.refl (p : Nat) (s : State) : TestedBefore p s s :=
  ⟨rfl, rfl, rfl, fun _ => rfl, ⟨[], by simp⟩, Nat.le_refl _, fun _ _ h _ => h⟩

theorem TestedBefore.trans {p : Nat} {s a b : State} (h : TestedBefore p s a) (k : TestedBefore p a b) :
    TestedBefore p s b :=
  ⟨k.origin.trans h.origin, k.places.trans h.places, k.supply.trans h.supply, fun o => (k.slots o).trans (h.slots o),
    by obtain ⟨x, hx⟩ := h.queue; obtain ⟨y, hy⟩ := k.queue; exact ⟨x ++ y, by rw [hy, hx, List.append_assoc]⟩,
    Nat.le_trans h.ticket k.ticket,
    fun n y m g => k.waiting (h.places ▸ n) y (h.waiting n y m g) g⟩

theorem slots_setOrigin {s : State} {o : Origin} (g : Option Gap) (h : o ∈ s.wit.origins)
    (n : (s.wit.origins.map (·.place)).Nodup) (x : Origin) :
    slotsAvailable (setOrigin { o with gap := g } s) x = slotsAvailable s x := by
  have e : (setOrigin { o with gap := g } s).wit.origins.map (fun y => y.using .shared)
      = s.wit.origins.map (fun y => y.using .shared) := by
    simp only [setOrigin, State.setWit, List.map_map]
    refine List.map_congr_left (fun y hy => ?_)
    by_cases hp : y.place = o.place
    · rw [List.inj_on_of_nodup_map n hy h hp]; simp [Origin.using]
    · simp [hp]
  simp [slotsAvailable, freeShared, freeReserved, e]
  simp [setOrigin, State.setWit]

theorem places_setOrigin {s : State} {o : Origin} (g : Option Gap) :
    (setOrigin { o with gap := g } s).wit.origins.map (·.place) = s.wit.origins.map (·.place) := by
  simp only [setOrigin, State.setWit, List.map_map]
  refine List.map_congr_left (fun y _ => ?_)
  by_cases hp : y.place = o.place <;> simp [hp]

theorem formGap_before {p q : Nat} (hq : q ≠ p) {s : State} (n : (s.wit.origins.map (·.place)).Nodup) :
    TestedBefore p s (formGap q s) := by
  rcases formGap_cases q s with ⟨h, -⟩ | ⟨o, ho, hw, ⟨-, -, h⟩ | ⟨-, h⟩⟩
  · rw [h]; exact .refl p s
  all_goals
    have hp : o.place ≠ p := by rw [originAt_place ho]; exact hq
    have hg : o.gap = none := by simp [gapWanted] at hw; simpa using hw.1.2
    rw [h]
    refine ⟨originAt_setOrigin_ne (o := { o with gap := _ }) hp, places_setOrigin _, rfl,
      slots_setOrigin _ (originAt_mem ho) n, ?_, ?_, fun _ y hy hyg => mem_setOrigin_of_ne hy ?_⟩
    all_goals try simp [setOrigin, State.setWit, State.setPort]
    intro e
    rw [List.inj_on_of_nodup_map n hy (originAt_mem ho) e] at hyg
    exact hyg hg

/-- What has come of the conditions of an origin o by the test that leads from s to t (R141): its GAP is `g`. -/
structure OriginTested (o : Origin) (s t : State) (g : Option Gap) : Prop where
  origin : originAt t o.place = some { o with gap := g }
  places : t.wit.origins.map (·.place) = s.wit.origins.map (·.place)
  kept : o.gap ≠ none ∨ s.supply.station ≠ some .recording → g = o.gap
  tested : o.gap = none → s.supply.station = some .recording →
    GapTested s t o o.expected o.known (slotsAvailable s o) g
  queue : ∃ new, t.port.gapQ = s.port.gapQ ++ new
  ticket : s.port.ticket ≤ t.port.ticket

theorem formGap_tested {s : State} {o : Origin} (n : (s.wit.origins.map (·.place)).Nodup)
    (ho : originAt s o.place = some o) : ∃ g, OriginTested o s (formGap o.place s) g := by
  rcases formGap_cases o.place s with ⟨h, hw⟩ | ⟨o', ho', hw, hc⟩
  · refine ⟨o.gap, h.symm ▸ ⟨ho, rfl, fun _ => rfl, fun hg hr => ?_, ⟨[], by simp⟩, Nat.le_refl _⟩⟩
    have := hw o ho
    refine ⟨fun _ => hg, fun h1 h2 => ?_⟩
    simp [gapWanted, hg, hr] at this
    omega
  · obtain rfl : o = o' := by rw [ho] at ho'; exact Option.some.inj ho'
    have hg : o.gap = none ∧ s.supply.station = some .recording ∧ o.expected ≤ o.known ∧ 1 ≤ slotsAvailable s o := by
      simp only [gapWanted, Bool.and_eq_true, beq_iff_eq, decide_eq_true_eq, Option.isNone_iff_eq_none] at hw
      exact ⟨hw.1.2, hw.1.1.1, hw.1.1.2, hw.2⟩
    have hwait : gapTickets s = [] ↔ ¬ ∃ y ∈ s.wit.origins, y.place ≠ o.place ∧ WaitsForRoom y := by
      rw [gapTickets_eq_nil]
      constructor
      · rintro h ⟨y, hy, -, w⟩; exact h y hy w
      · intro h y hy w
        by_cases hp : y.place = o.place
        · rw [List.inj_on_of_nodup_map n hy (originAt_mem ho) hp] at w
          obtain ⟨g, m, hgm, -⟩ := w
          rw [hg.1] at hgm; cases hgm
        · exact h ⟨y, hy, hp, w⟩
    rcases hc with ⟨h1, h2, h⟩ | ⟨h1, h⟩
    · rw [h]
      refine ⟨some ⟨o.expected, _, .queued⟩, originAt_setOrigin (o' := { o with gap := _ }) ho rfl, places_setOrigin _, ?_,
        ?_, ⟨_, rfl⟩, Nat.le_refl _⟩
      · intro hk; rcases hk with hk | hk
        · exact absurd hg.1 hk
        · exact absurd hg.2.1 hk
      · intro _ _
        refine ⟨fun k => absurd hg.2.2 k, fun _ _ => ⟨.queued, rfl, Or.inl ⟨rfl, by simp [State.setPort]⟩, ?_, fun _ _ _ => rfl⟩⟩
        rintro (k | k)
        · omega
        · exact absurd k (hwait.1 h2)
    · rw [h]
      refine ⟨some ⟨o.expected, _, .waiting s.port.ticket⟩, originAt_setOrigin (o' := { o with gap := _ }) ho rfl,
        places_setOrigin _, ?_, ?_, ⟨[], by simp [State.setPort, setOrigin, State.setWit]⟩,
        by simp [State.setPort, setOrigin, State.setWit]⟩
      · intro hk; rcases hk with hk | hk
        · exact absurd hg.1 hk
        · exact absurd hg.2.1 hk
      · intro _ _
        refine ⟨fun k => absurd hg.2.2 k, fun _ _ => ⟨.waiting s.port.ticket, rfl, Or.inr ⟨_, rfl, Nat.le_refl _, by simp [State.setPort]⟩, fun _ => by simp, fun k1 k2 _ => ?_⟩⟩
        exact absurd ⟨k1, hwait.2 k2⟩ h1

theorem OriginTested.between {o : Origin} {s a b c : State} {g : Option Gap}
    (n : (s.wit.origins.map (·.place)).Nodup) (h : TestedBefore o.place s a) (k : OriginTested o a b g)
    (l : TestedBefore o.place b c)
    (first : (∀ y ∈ s.wit.origins, y.place < o.place → gapWanted s y = false) → a = s) : OriginTested o s c g where
  origin := l.origin.trans k.origin
  places := l.places.trans (k.places.trans h.places)
  kept := fun hk => k.kept (h.supply.symm ▸ hk)
  tested := fun hg hr => by
    obtain ⟨none_, some_⟩ := k.tested hg (h.supply ▸ hr)
    rw [h.slots] at none_ some_
    refine ⟨none_, fun h1 h2 => ?_⟩
    obtain ⟨x, hx, place, wait, room⟩ := some_ h1 h2
    obtain ⟨q1, hq1⟩ := h.queue
    obtain ⟨q2, hq2⟩ := l.queue
    refine ⟨x, hx, ?_, ?_, ?_⟩
    · rcases place with ⟨rfl, m⟩ | ⟨t, rfl, t1, t2⟩
      · exact Or.inl ⟨rfl, by rw [hq2]; exact List.mem_append_left _ m⟩
      · exact Or.inr ⟨t, rfl, Nat.le_trans h.ticket t1, Nat.lt_of_lt_of_le t2 l.ticket⟩
    · rintro (w | ⟨y, hy, hp, w⟩)
      · exact wait (Or.inl (by rw [hq1, List.length_append]; omega))
      · refine wait (Or.inr ⟨y, h.waiting n y hy ?_, hp, w⟩)
        obtain ⟨g', m, hg', -⟩ := w
        simp [hg']
    · intro r w f
      have e := first f
      subst e
      exact room r w f
  queue := by
    obtain ⟨q1, hq1⟩ := h.queue
    obtain ⟨q2, hq2⟩ := k.queue
    obtain ⟨q3, hq3⟩ := l.queue
    exact ⟨q1 ++ (q2 ++ q3), by rw [hq3, hq2, hq1]; simp⟩
  ticket := Nat.le_trans h.ticket (Nat.le_trans k.ticket l.ticket)

theorem formGap_idle {q : Nat} {s : State} (h : ∀ y ∈ s.wit.origins, y.place = q → gapWanted s y = false) :
    formGap q s = s := by
  rcases formGap_cases q s with ⟨h', -⟩ | ⟨o, ho, hw, -⟩
  · exact h'
  · rw [h o (originAt_mem ho) (originAt_place ho)] at hw; cases hw

/-- What the test of every origin's conditions does for one of them (R141). -/
theorem testGaps_tested {s : State} {o : Origin} (n : (s.wit.origins.map (·.place)).Nodup)
    (ho : originAt s o.place = some o) (hp : o.place < 3) : ∃ g, OriginTested o s (testGaps s) g := by
  have after {p q : Nat} {t : State} (hq : q ≠ p) (e : t.wit.origins.map (·.place) = s.wit.origins.map (·.place)) :
      TestedBefore p t (formGap q t) := formGap_before hq (e ▸ n)
  obtain h | h | h : o.place = 0 ∨ o.place = 1 ∨ o.place = 2 := by omega
  · obtain ⟨g, k⟩ := formGap_tested n ho
    have l1 := after (p := o.place) (q := 1) (by omega) k.places
    have l2 := after (p := o.place) (q := 2) (by omega) (l1.places.trans k.places)
    rw [h] at k l1 l2
    exact ⟨g, OriginTested.between n (.refl _ _) (h ▸ k) (h ▸ l1.trans l2) fun _ => rfl⟩
  · have b := after (p := o.place) (q := 0) (by omega) rfl
    obtain ⟨g, k⟩ := formGap_tested (b.places ▸ n) (b.origin.trans ho)
    have l := after (p := o.place) (q := 2) (by omega) (k.places.trans b.places)
    refine ⟨g, ?_⟩
    have := OriginTested.between n b k l fun f => formGap_idle fun y hy e => f y hy (by omega)
    rw [h] at this
    exact this
  · have b0 := after (p := o.place) (q := 0) (by omega) rfl
    have b1 := b0.trans (after (p := o.place) (q := 1) (by omega) b0.places)
    obtain ⟨g, k⟩ := formGap_tested (b1.places ▸ n) (b1.origin.trans ho)
    refine ⟨g, ?_⟩
    have := OriginTested.between n b1 k (.refl _ _) fun f => by
      rw [formGap_idle (q := 0) fun y hy e => f y hy (by omega)]
      exact formGap_idle fun y hy e => f y hy (by omega)
    rw [h] at this
    exact this

end Sys2Proof.Machine
end

