-- ==== Sys2Proof/Laws/Memory.lean ====
section
/-! SUPPORT. The archive flash as memory: a read after a write, and the canonical form that every operation keeps. -/

namespace Sys2Proof.Machine

/-! ## The canonical form -/

theorem Memory.wfFrom_mono {m : Memory} {a b : Nat} (h : a ≤ b) (w : Memory.wfFrom b m = true) :
    Memory.wfFrom a m = true := by
  cases m with
  | nil => rfl
  | cons c r =>
    obtain ⟨k, v⟩ := c
    simp only [Memory.wfFrom, Bool.and_eq_true, decide_eq_true_eq] at w ⊢
    exact ⟨⟨le_trans h w.1.1, w.1.2⟩, w.2⟩

theorem Memory.wfFrom_write {m : Memory} {lo a : Nat} {b : Byte} (h : lo ≤ a) (w : Memory.wfFrom lo m = true) :
    Memory.wfFrom lo (m.write a b) = true := by
  induction m generalizing lo with
  | nil =>
    simp only [Memory.write]
    split
    · rfl
    · simp [Memory.wfFrom, *]
  | cons c r ih =>
    obtain ⟨k, v⟩ := c
    simp only [Memory.wfFrom, Bool.and_eq_true, decide_eq_true_eq] at w
    simp only [Memory.write]
    split
    · split
      · simp only [Memory.wfFrom, Bool.and_eq_true, decide_eq_true_eq]
        exact w
      · simp only [Memory.wfFrom, Bool.and_eq_true, decide_eq_true_eq]
        exact ⟨⟨h, ‹_›⟩, ⟨by omega, w.1.2⟩, w.2⟩
    · split
      · split
        · exact Memory.wfFrom_mono (by omega) w.2
        · simp only [Memory.wfFrom, Bool.and_eq_true, decide_eq_true_eq]
          exact ⟨⟨h, ‹_›⟩, Memory.wfFrom_mono (by omega) w.2⟩
      · simp only [Memory.wfFrom, Bool.and_eq_true, decide_eq_true_eq]
        exact ⟨w.1, ih (by omega) w.2⟩

theorem Memory.wf_write {m : Memory} (a : Nat) (b : Byte) (w : m.wf = true) : (m.write a b).wf = true :=
  Memory.wfFrom_write (Nat.zero_le a) w

theorem Memory.wf_writeAll (l : List Byte) : ∀ {m : Memory} (a : Nat), m.wf = true → (m.writeAll a l).wf = true := by
  induction l with
  | nil => exact fun a w => w
  | cons b r ih => exact fun a w => ih (a + 1) (Memory.wf_write a b w)

theorem Memory.wf_program {m : Memory} (a : Nat) (l : List Byte) (w : m.wf = true) : (m.program a l).wf = true :=
  Memory.wf_writeAll _ a w

theorem Memory.wfFrom_filter (p : Host.Cell → Bool) : ∀ {m : Memory} {lo : Nat},
    Memory.wfFrom lo m = true → Memory.wfFrom lo (m.filter p) = true := by
  intro m
  induction m with
  | nil => exact fun w => w
  | cons c r ih =>
    intro lo w
    obtain ⟨k, v⟩ := c
    simp only [Memory.wfFrom, Bool.and_eq_true, decide_eq_true_eq] at w
    rw [List.filter_cons]
    split
    · simp only [Memory.wfFrom, Bool.and_eq_true, decide_eq_true_eq]
      exact ⟨w.1, ih w.2⟩
    · exact ih (Memory.wfFrom_mono (by omega) w.2)

theorem Memory.wf_erase {m : Memory} (lo hi : Nat) (w : m.wf = true) : (m.erase lo hi).wf = true :=
  Memory.wfFrom_filter _ w

theorem reset_flash_wf : State.reset.arch.flash.wf = true := rfl

/-! ## Reads -/

/-- Below the bound of a flash in canonical form every byte reads erased. -/
theorem Memory.read_below {m : Memory} {lo a : Nat} (w : Memory.wfFrom lo m = true) (h : a < lo) :
    m.read a = erasedByte := by
  induction m generalizing lo with
  | nil => rfl
  | cons c r ih =>
    obtain ⟨k, v⟩ := c
    simp only [Memory.wfFrom, Bool.and_eq_true, decide_eq_true_eq] at w
    simp only [Memory.read]
    rw [if_neg (by omega)]
    exact ih w.2 (by omega)

/-- A write changes the byte it writes and no other. -/
theorem Memory.read_write {m : Memory} {lo : Nat} (a : Nat) (b : Byte) (x : Nat) (w : Memory.wfFrom lo m = true) :
    (m.write a b).read x = if x = a then b else m.read x := by
  induction m generalizing lo with
  | nil =>
    simp only [Memory.write]
    split
    · simp_all [Memory.read]
    · simp only [Memory.read, eq_comm (a := x)]
  | cons c r ih =>
    obtain ⟨k, v⟩ := c
    simp only [Memory.wfFrom, Bool.and_eq_true, decide_eq_true_eq] at w
    simp only [Memory.write]
    split
    · split
      · subst b
        by_cases hx : x = a
        · subst hx
          rw [if_pos rfl]
          simp only [Memory.read]
          rw [if_neg (by omega)]
          exact Memory.read_below w.2 (by omega)
        · rw [if_neg hx]
      · simp only [Memory.read, eq_comm (a := x)]
    · split
      · subst a
        split
        · subst b
          by_cases hx : x = k
          · subst hx; rw [if_pos rfl]; exact Memory.read_below w.2 (by omega)
          · rw [if_neg hx]; simp only [Memory.read]; rw [if_neg (by omega)]
        · by_cases hx : k = x <;> simp [Memory.read, hx, eq_comm (a := x)]
      · simp only [Memory.read]
        by_cases hk : k = x
        · subst hk; simp; omega
        · simp only [hk, if_false]; exact ih w.2

/-- A run of bytes written changes no byte outside it. -/
theorem Memory.read_writeAll_outside (l : List Byte) : ∀ {m : Memory} (a x : Nat), m.wf = true →
    (x < a ∨ a + l.length ≤ x) → (m.writeAll a l).read x = m.read x := by
  induction l with
  | nil => exact fun _ _ _ _ => rfl
  | cons b r ih =>
    intro m a x w h
    simp only [List.length_cons] at h
    simp only [Memory.writeAll]
    rw [ih (a + 1) x (Memory.wf_write a b w) (by omega), Memory.read_write a b x w, if_neg (by omega)]

/-- A run of bytes written reads back. -/
theorem Memory.read_writeAll_inside (l : List Byte) : ∀ {m : Memory} (a i : Nat), m.wf = true →
    i < l.length → (m.writeAll a l).read (a + i) = l.getD i erasedByte := by
  induction l with
  | nil => intro m a i w h; simp at h
  | cons b r ih =>
    intro m a i w h
    simp only [Memory.writeAll]
    cases i with
    | zero =>
      rw [Memory.read_writeAll_outside r (a + 1) (a + 0) (Memory.wf_write a b w) (by omega),
        Memory.read_write a b (a + 0) w]
      simp
    | succ n =>
      have := ih (m := m.write a b) (a + 1) n (Memory.wf_write a b w) (by simpa using h)
      rw [show a + (n + 1) = a + 1 + n by omega, this]
      simp

theorem Memory.read_erase {m : Memory} (lo hi x : Nat) :
    (m.erase lo hi).read x = if lo ≤ x ∧ x < hi then erasedByte else m.read x := by
  induction m with
  | nil => simp [Memory.erase, Memory.read]
  | cons c r ih =>
    obtain ⟨k, v⟩ := c
    have e : Memory.erase ((k, v) :: r) lo hi = if lo ≤ k ∧ k < hi then Memory.erase r lo hi else (k, v) :: Memory.erase r lo hi := by
      unfold Memory.erase
      rw [List.filter_cons]
      by_cases h : lo ≤ k ∧ k < hi
      · rw [if_pos h, if_neg (by simp [h])]
      · rw [if_neg h, if_pos (by simp; omega)]
    rw [e]
    by_cases h : lo ≤ k ∧ k < hi
    · rw [if_pos h, ih]
      by_cases hx : k = x
      · subst hx; rw [if_pos h, if_pos h]
      · simp [Memory.read, hx]
    · rw [if_neg h]
      by_cases hx : k = x
      · subst hx; rw [if_neg h]; simp [Memory.read]
      · simp only [Memory.read, hx, if_false]; exact ih

/-! ## What the archive controller's operations leave of the flash -/

theorem programPage_wf (a : Nat) (b : List Byte) (good : Bool) (s : State) (w : s.arch.flash.wf = true) :
    (programPage a b good s).arch.flash.wf = true := by
  unfold programPage
  split
  · exact Memory.wf_program _ _ w
  · exact Memory.wf_program _ _ w

theorem eraseSector_wf (a : Nat) (s : State) (w : s.arch.flash.wf = true) : (eraseSector a s).arch.flash.wf = true :=
  Memory.wf_erase _ _ w

theorem putSector_wf (a : Nat) (b : List Byte) (s : State) (w : s.arch.flash.wf = true) :
    (putSector a b s).arch.flash.wf = true :=
  Memory.wf_writeAll _ _ (Memory.wf_erase _ _ w)

theorem abandonErase_wf (a : Nat) (s : State) (w : s.arch.flash.wf = true) : (abandonErase a s).arch.flash.wf = true :=
  putSector_wf _ _ s w

theorem failErase_wf (a : Nat) (s : State) (w : s.arch.flash.wf = true) : (failErase a s).arch.flash.wf = true :=
  putSector_wf _ _ s w

theorem voidImage_wf (s : State) (w : s.arch.flash.wf = true) : (voidImage s).arch.flash.wf = true := by
  unfold voidImage
  split
  · exact Memory.wf_program _ _ w
  · exact w

end Sys2Proof.Machine
end

