-- ==== Sys2Proof/Laws/Ops.lean ====
section
/-! SUPPORT. What the shared operations do, said once for each: delivery, queries, counters, causes, queues, the
retention test, the start of an operation and what an erased sector held. -/

namespace Sys2Proof.Machine

/-! ## Delivery and queries (R127 to R129, R166) -/

/-- A telegram of permitted length that the part hears reaches its block. -/
theorem deliver_hears {s : State} {sender : BitVec 5} (h : Hears s sender) (f : State → State) :
    deliver sender true f s = f s := by
  simp [deliver, receives, h.1, h.2]

/-- A telegram of the part's own number is a clash, one of a length that is not permitted a receive error, and with the
port OFF nothing happens; otherwise its block takes it. -/
theorem deliver_cases (sender : BitVec 5) (permitted : Bool) (f : State → State) (s : State) :
    (s.port.state = .off ∧ deliver sender permitted f s = s)
    ∨ (s.port.state ≠ .off ∧ permitted = false ∧ deliver sender permitted f s = receiveErrorEffect s)
    ∨ (s.port.state ≠ .off ∧ permitted = true ∧ sender.toNat = s.cfg.own
        ∧ deliver sender permitted f s = clashEffect s)
    ∨ (permitted = true ∧ Hears s sender ∧ deliver sender permitted f s = f s) := by
  by_cases h : s.port.state = .off
  · simp [deliver, receives, h]
  · cases permitted
    · simp [deliver, receives, h]
    · by_cases e : sender.toNat = s.cfg.own <;> simp [deliver, receives, Hears, h, e]

/-- A query to the part that finds room is acted on, or refused in the station state. -/
theorem query_taken {s : State} {head : QueryHead} (h : TakesQuery s head) (taken : Bool) (act : State → State) :
    query head true taken act s
      = if taken then act s else addAnswer head.terminal.toNat head.tag (.refused .state) s := by
  obtain ⟨hear, target, room⟩ := h
  simp [query, deliver_hears hear, target, Nat.not_le.mpr room]

/-- A query to another recorder, or one that finds 4 answers, does nothing. -/
theorem query_dropped {s : State} {head : QueryHead} (h : Hears s head.terminal)
    (no : head.target.toNat ≠ s.cfg.own ∨ 4 ≤ answersHeld s) (taken : Bool) (act : State → State) :
    query head true taken act s = s := by
  rcases no with no | no
  · simp [query, deliver_hears h, no]
  · simp only [query, deliver_hears h, if_pos no]
    split <;> rfl

/-! ## Flags and counters (R86, R173) -/

/-- A raise sets its own flag and leaves the others. -/
theorem flagSet_raiseCause (c d : Cause) (s : State) : flagSet (raiseCause c s) d = (flagSet s d || decide (c = d)) := by
  cases c <;> cases d <;> simp [flagSet, raiseCause, Cause.mask, Cause.bit]

/-- Clearing clears the named flags and no other. -/
theorem clearFlags_bit (flags : BitVec 9) (causes : BitVec 16) {i : Nat} (h : i < 9) :
    (clearFlags flags causes).getLsbD i = (flags.getLsbD i && !causes.getLsbD i) := by
  simp [clearFlags, h]

/-- A count never passes its bound. -/
theorem satAdd_le (bound a n : Nat) : satAdd bound a n ≤ bound := Nat.min_le_left _ _

/-- The FSTOP and ATTN lines are what R48 and R174 say. -/
theorem lines_follow (s : State) : LinesFollow s := by
  have bits : ∀ (i : Nat) (c : Cause), attentionOrder[i]? = some c ↔ c.bit = i := by
    intro i c
    by_cases h : i < 9
    · interval_cases i <;> cases c <;> simp [attentionOrder, Cause.bit]
    · rw [List.getElem?_eq_none (by simp [attentionOrder]; omega)]
      cases c <;> simp [Cause.bit] <;> omega
  refine ⟨by simp [fstopLine], ?_, fun i c h => by rw [flagSet, (bits i c).1 h]⟩
  simp only [attnLine, Bool.and_eq_true, bne_iff_ne, ne_eq, flagSet]
  refine and_congr_right fun _ => ⟨fun h => ?_, ?_⟩
  · obtain ⟨i, hi, hb⟩ : ∃ i, i < 9 ∧ (s.retr.flags &&& s.cfg.enable).getLsbD i = true := by
      by_contra hn
      push Not at hn
      exact h (BitVec.eq_of_getLsbD_eq fun i hi => by simpa using hn i hi)
    obtain ⟨c, hc⟩ : ∃ c, attentionOrder[i]? = some c := ⟨attentionOrder[i], List.getElem?_eq_getElem hi⟩
    rw [BitVec.getLsbD_and, Bool.and_eq_true] at hb
    exact ⟨i, c, hc, by rw [(bits i c).1 hc]; exact hb.1, hb.2⟩
  · rintro ⟨i, c, hc, hf, he⟩ h0
    rw [(bits i c).1 hc] at hf
    have : (s.retr.flags &&& s.cfg.enable).getLsbD i = true := by rw [BitVec.getLsbD_and, hf, he]; rfl
    rw [h0] at this; simp at this

/-! ## The outbound record queue (R156) -/

/-- The first entry that meets a test leaves, and those around it stay. -/
theorem removeFirst_split {α : Type} (p : α → Bool) (l r : List α) (x : α) (hx : p x = true)
    (hl : ∀ y ∈ l, p y = false) : removeFirst p (l ++ x :: r) = l ++ r := by
  induction l with
  | nil => simp [removeFirst, hx]
  | cons y t ih => simp [removeFirst, hl y (by simp), ih (fun z hz => hl z (by simp [hz]))]

/-- No entry leaves when none meets the test. -/
theorem removeFirst_none {α : Type} (p : α → Bool) (l : List α) (hl : ∀ y ∈ l, p y = false) : removeFirst p l = l := by
  induction l with
  | nil => rfl
  | cons y t ih => simp [removeFirst, hl y (by simp), ih (fun z hz => hl z (by simp [hz]))]

/-- The first entry that meets a test is found. -/
theorem find_split {α : Type} (p : α → Bool) (l r : List α) (x : α) (hx : p x = true)
    (hl : ∀ y ∈ l, p y = false) : (l ++ x :: r).find? p = some x := by
  rw [List.find?_append, List.find?_eq_none.2 (by simpa using hl)]; simp [hx]

/-- An entry is unplaced when it waits for its publication and its telegram does not stand in the RECORD queue (R160). -/
theorem any_unplaced (l : List OutEntry) :
    l.any unplaced = true ↔ ∃ x ∈ l, x.state = .waitingPublish ∧ x.placed = false := by
  simp only [List.any_eq_true, unplaced, Bool.and_eq_true, beq_iff_eq, Bool.not_eq_true']

/-- A placed telegram that is withdrawn leaves the RECORD queue alone without it; the others stay (R156). -/
theorem withdrawn_from (e : OutEntry) (l : List RecordTel) :
    let stands (x : RecordTel) : Prop := x.backfill = false ∧ e.seq = some x.record.seq
    let left := removeFirst (fun t => !t.backfill && t.record.seq == e.seq.getD 0) l
    (e.seq ≠ none → (∀ x ∈ l, ¬ stands x) → left = l)
    ∧ ∀ first x rest, l = first ++ x :: rest → stands x → (∀ y ∈ first, ¬ stands y) → left = first ++ rest := by
  cases he : e.seq with
  | none => simp
  | some q =>
    have hs : ∀ x : RecordTel, ¬ (x.backfill = false ∧ some q = some x.record.seq) →
        (!x.backfill && x.record.seq == q) = false := by
      intro x hx
      cases hb : x.backfill <;> simp [hb] at hx ⊢
      exact fun h => hx h.symm
    refine ⟨fun _ h => removeFirst_none _ _ fun x hx => hs x (h x hx), ?_⟩
    rintro first x rest rfl ⟨hb, hq⟩ hf
    exact removeFirst_split _ _ _ _ (by simp [hb, Option.some.inj hq]) fun y hy => hs y (hf y hy)

/-- The append of a record is what R156 says. -/
theorem appendRecord_appended (kind : RecordKind) (start : Nat) (body : List Byte) (s : State) :
    RecordAppended kind start body s (appendRecord kind start body s) := by
  simp only [RecordAppended, appendRecord, Config.outboundMax]
  refine ⟨fun h => by rw [if_neg (Nat.not_le.2 h)], fun h older e younger ho => ?_⟩
  rw [if_pos h]
  refine ⟨fun he hl => ?_, fun he hn hl => ?_⟩
  · have hf := find_split _ older younger e he hl
    have hr := removeFirst_split _ older younger e he hl
    have hw := withdrawn_from e s.port.recordQ
    simp only [makeRoom, ho, hf, hr, ← any_unplaced]
    cases hp : e.placed <;> cases hu : (older ++ younger).any unplaced <;> cases ht : s.arch.releaseTicket <;>
      simp only [renewRelease, countUp, hu, State.setArch_arch, State.setPort_arch, State.setYear_arch, if_true,
        if_false, Bool.false_eq_true] <;>
      refine ⟨by trivial, by trivial, by trivial, by trivial, ?_, ?_⟩
    all_goals first | (simp [nextTicket]; done) | simpa [nextTicket] using hw
  · have hf := find_split (fun x : OutEntry => x.state == .waitingArchive) older younger e (by simp [he]) (by simpa using hl)
    have hr := removeFirst_split (fun x : OutEntry => x.state == .waitingArchive) older younger e (by simp [he]) (by simpa using hl)
    have h0 : s.arch.outbound.find? (removablePublish s) = none := by simpa using hn
    simp only [makeRoom, h0]
    simp only [ho, hf, hr]
    cases e.seq <;> rfl

/-- Appends one after the other are each what R156 says. -/
theorem appendRecords_appended (l : List (RecordKind × Nat × List Byte)) : ∀ s : State,
    RecordsAppended l s (l.foldl (fun u x => appendRecord x.1 x.2.1 x.2.2 u) s) := by
  induction l with
  | nil => intro s; rfl
  | cons x rest ih => intro s; exact ⟨_, appendRecord_appended x.1 x.2.1 x.2.2 s, ih _⟩

/-! ## The lists of the retrieval unit (R166, R167) -/

theorem answersHeld_addAnswer (t : Nat) (tag : BitVec 8) (b : PendingBody) (s : State) :
    answersHeld (addAnswer t tag b s) = answersHeld s + 1 := by
  simp only [answersHeld, addAnswer_frame]
  simp [addAnswer, nextTicket]
  omega

@[simp] theorem setJob_length (j : Job) (s : State) : (setJob j s).retr.jobs.length = s.retr.jobs.length := by
  simp [setJob]

@[simp] theorem jobReady_length (j : Job) (x : Answer) (b : Bool) (s : State) :
    (jobReady j x b s).retr.jobs.length = s.retr.jobs.length := by
  simp [jobReady, nextTicket]

@[simp] theorem addRequest_jobs (r : Request) (s : State) : (addRequest r s).retr.jobs = s.retr.jobs := rfl

@[simp] theorem workJob_length (j : Job) (s : State) : (workJob j s).retr.jobs.length = s.retr.jobs.length := by
  simp only [workJob]
  split <;> (try split) <;> simp

@[simp] theorem jobResult_length (n : Nat) (r : Option Rec) (s : State) :
    (jobResult n r s).retr.jobs.length = s.retr.jobs.length := by
  simp only [jobResult]
  (repeat' split) <;> simp

/-! ## The backfill queue (R142, R143) -/

@[simp] theorem startBackfill_jobs (s : State) : (startBackfill s).wit.jobs = s.wit.jobs := by
  simp only [startBackfill]
  split <;> simp [addRequest]

theorem advanceBackfill_length (s : State) : (advanceBackfill s).wit.jobs.length ≤ s.wit.jobs.length := by
  simp only [advanceBackfill]
  split
  · simp
  · rename_i j r h
    simp only [startBackfill_jobs, State.setWit_wit, h]
    split <;> simp

theorem backfillResult_length (r : Option Rec) (s : State) : (backfillResult r s).wit.jobs.length ≤ s.wit.jobs.length := by
  cases r
  · exact advanceBackfill_length s
  · simp [backfillResult, nextTicket]

/-! ## Reads and the flash-idle event (R153) -/

/-- Serving a read adds no job to either list. -/
theorem serveOne_lengths (s : State) :
    (serveOne s).wit.jobs.length ≤ s.wit.jobs.length ∧ (serveOne s).retr.jobs.length = s.retr.jobs.length := by
  simp only [serveOne]
  split
  · simp
  · split
    · exact ⟨backfillResult_length _ _, by simp⟩
    · constructor <;> simp
    · simp

theorem serveReads_lengths (n : Nat) : ∀ s : State,
    (serveReads n s).wit.jobs.length ≤ s.wit.jobs.length ∧ (serveReads n s).retr.jobs.length = s.retr.jobs.length := by
  induction n with
  | zero => intro s; simp [serveReads]
  | succ n ih =>
    intro s
    simp only [serveReads]
    split
    · simp
    · have a := ih (serveOne s)
      have b := serveOne_lengths s
      exact ⟨a.1.trans b.1, a.2.trans b.2⟩

/-- A flash-idle event adds no job to either list. -/
theorem flashIdle_lengths (s : State) :
    (flashIdle s).wit.jobs.length ≤ s.wit.jobs.length ∧ (flashIdle s).retr.jobs.length = s.retr.jobs.length := by
  simp only [flashIdle]
  split
  · simp
  · split
    · simpa using serveReads_lengths _ s
    · exact serveReads_lengths _ s

/-- A flash-idle event does nothing while an operation is in flight. -/
theorem flashIdle_busy {s : State} (h : s.arch.op ≠ .idle) : flashIdle s = s := by simp [flashIdle, h]

/-! ## The one-entry queues (R122) -/

theorem OneQueue.place_free {α : Type} (x : α) (q : OneQueue α) :
    q.place false x = { entry := some x, aside := none } := rfl

theorem OneQueue.settle_entry {α : Type} (q : OneQueue α) :
    q.settle.entry = match q.aside with | some x => some x | none => q.entry := by
  cases h : q.aside <;> simp [OneQueue.settle, h]

/-! ## The retention test (R162) and a FAULT (R164) -/

/-- The retention test moves between READY and RING_FULL by the own erase target. -/
theorem retentionTest_state (s : State) :
    (retentionTest s).arch.state
      = if s.arch.state = .fault then .fault else if ownEraseForbidden s then .ringFull else .ready := by
  simp only [retentionTest]
  cases h : s.arch.state <;> cases e : ownEraseForbidden s <;> simp [raiseCause, h]

theorem enterFault_state (s : State) : (enterFault s).arch.state = .fault := by
  simp only [enterFault]
  split
  · assumption
  · simp

/-! ## What an erased sector held (R138, R161) -/

/-- What a sector held is never below its highest record page nor below what an erase without a good end noted of it. -/
theorem sectorHeld_covers (r : Ring) (k : Nat) (pages : List PageKind) :
    (∀ h, highestSeq pages = some h → ∃ n, sectorHeld r k pages = some n ∧ h ≤ n)
    ∧ (∀ m, r.broken = some (k, m) → ∃ n, sectorHeld r k pages = some n ∧ m ≤ n) := by
  refine ⟨fun h e => ?_, fun m e => ?_⟩
  · simp only [sectorHeld, e]
    rcases r.broken with _ | ⟨j, n⟩
    · simp
    · by_cases c : j = k <;> simp [c]
  · simp only [sectorHeld, e]
    cases highestSeq pages <;> simp

/-- The note of an own sector changes nothing but the own ring (R161). -/
theorem noteBroken_own (k : Nat) (s : State) :
    noteBroken .own k s = s.setArch { s.arch with own := { s.arch.own with
      broken := (sectorHeld s.arch.own k (sectorPages s .own k)).map (fun h => (k, h)) } } := rfl

end Sys2Proof.Machine
end

