-- ==== Sys2Proof/Laws/PerInstr.lean ====
section
/-! SUPPORT. What holds of every command as syntax, one lemma for each command. -/

namespace Sys2Proof.Laws.SenderStation

/-- A well-formed command that is a telegram names a sender station from 1 to 31 (R120). -/
def Statement (i : Instr) : Prop := i.wf = true → ∀ st, i.sender = some st → 1 ≤ st.toNat ∧ st.toNat ≤ 31

/-- The lemma that every telegram rests on. -/
theorem stationWf_bounds {st : BitVec 5} (h : stationWf st = true) : 1 ≤ st.toNat ∧ st.toNat ≤ 31 := by
  simp only [stationWf, decide_eq_true_eq] at h
  omega

theorem receiveReading (sender : BitVec 5) (channel tag : BitVec 4) (status : BitVec 8) (value : BitVec 24) :
    Statement (.receiveReading sender channel tag status value) := by
  intro h st e
  cases e
  exact stationWf_bounds h

theorem receiveTime (sender : BitVec 5) (seconds : BitVec 32) (ticks : BitVec 16) (reference : Bool) :
    Statement (.receiveTime sender seconds ticks reference) := by
  intro h st e
  cases e
  simp only [Instr.wf, Bool.and_eq_true] at h
  exact stationWf_bounds h.1

theorem establishmentWindowEnd : Statement .establishmentWindowEnd := fun _ _ e => nomatch e

theorem receiveRecord (sender : BitVec 5) (head : RecordHead) (body : List Byte) :
    Statement (.receiveRecord sender head body) := by
  intro h st e
  cases e
  simp only [Instr.wf, Bool.and_eq_true] at h
  exact stationWf_bounds h.1

theorem receiveMark (sender : BitVec 5) (entries : List MarkEntry) : Statement (.receiveMark sender entries) := by
  intro h st e
  cases e
  simp only [Instr.wf, Bool.and_eq_true] at h
  exact stationWf_bounds h.1

theorem receiveGap (sender : BitVec 5) (target : BitVec 8) (first : BitVec 32) (count : BitVec 8) :
    Statement (.receiveGap sender target first count) := by
  intro h st e
  cases e
  exact stationWf_bounds h

theorem receivePresence (sender : BitVec 5) (payload : PresencePayload) :
    Statement (.receivePresence sender payload) := by
  intro h st e
  cases e
  exact stationWf_bounds h

theorem receiveError (frame : List Byte) (endMark : Bool) :
    Statement (.receiveError frame endMark) := fun _ _ e => nomatch e

theorem stationClash (cls : BitVec 3) : Statement (.stationClash cls) := fun _ _ e => nomatch e

theorem read (head : QueryHead) (origin : BitVec 8) (first : BitVec 32) (count : BitVec 16) :
    Statement (.read head origin first count) := by
  intro h st e
  cases e
  exact stationWf_bounds h

theorem readYear (head : QueryHead) (origin : BitVec 8) (year : BitVec 8) : Statement (.readYear head origin year) := by
  intro h st e
  cases e
  exact stationWf_bounds h

theorem condition (head : QueryHead) : Statement (.condition head) := by
  intro h st e
  cases e
  exact stationWf_bounds h

theorem clearAttention (head : QueryHead) (causes : BitVec 16) : Statement (.clearAttention head causes) := by
  intro h st e
  cases e
  exact stationWf_bounds h

theorem configBlock (head : QueryHead) (offset : BitVec 16) (data : List Byte) :
    Statement (.configBlock head offset data) := by
  intro h st e
  cases e
  simp only [Instr.wf, Bool.and_eq_true] at h
  exact stationWf_bounds h.1

theorem configCommit (head : QueryHead) (length check : BitVec 16) : Statement (.configCommit head length check) := by
  intro h st e
  cases e
  exact stationWf_bounds h

theorem commitFlashComplete (good : Bool) : Statement (.commitFlashComplete good) := fun _ _ e => nomatch e

theorem busIdle : Statement .busIdle := fun _ _ e => nomatch e

theorem arbitrationLost : Statement .arbitrationLost := fun _ _ e => nomatch e

theorem transmitComplete : Statement .transmitComplete := fun _ _ e => nomatch e

theorem transmitError : Statement .transmitError := fun _ _ e => nomatch e

theorem silentEnd : Statement .silentEnd := fun _ _ e => nomatch e

theorem timeSend : Statement .timeSend := fun _ _ e => nomatch e

theorem presenceSend : Statement .presenceSend := fun _ _ e => nomatch e

theorem agreementRound : Statement .agreementRound := fun _ _ e => nomatch e

theorem minuteBoundary : Statement .minuteBoundary := fun _ _ e => nomatch e

theorem programComplete (good : Bool) : Statement (.programComplete good) := fun _ _ e => nomatch e

theorem eraseComplete (good : Bool) : Statement (.eraseComplete good) := fun _ _ e => nomatch e

theorem recordRelease : Statement .recordRelease := fun _ _ e => nomatch e

theorem backfillPlace : Statement .backfillPlace := fun _ _ e => nomatch e

theorem gapPlace (origin : BitVec 5) : Statement (.gapPlace origin) := fun _ _ e => nomatch e

theorem pendingAnswerPlace : Statement .pendingAnswerPlace := fun _ _ e => nomatch e

theorem jobAnswerPlace (terminal : BitVec 5) : Statement (.jobAnswerPlace terminal) := fun _ _ e => nomatch e

theorem gapExpiry (origin : BitVec 5) : Statement (.gapExpiry origin) := fun _ _ e => nomatch e

theorem markEntryExpiry (station : BitVec 5) : Statement (.markEntryExpiry station) := fun _ _ e => nomatch e

theorem witnessLagHoldoffEnd : Statement .witnessLagHoldoffEnd := fun _ _ e => nomatch e

theorem jobSilenceExpiry (terminal : BitVec 5) :
    Statement (.jobSilenceExpiry terminal) := fun _ _ e => nomatch e

theorem supplyFail (programGood : Bool) : Statement (.supplyFail programGood) := fun _ _ e => nomatch e

theorem supplySenseRise : Statement .supplySenseRise := fun _ _ e => nomatch e

theorem supplySenseBounce : Statement .supplySenseBounce := fun _ _ e => nomatch e

theorem supplyReturn : Statement .supplyReturn := fun _ _ e => nomatch e

theorem resetAssert (programGood : Bool) : Statement (.resetAssert programGood) := fun _ _ e => nomatch e

theorem resetRelease : Statement .resetRelease := fun _ _ e => nomatch e

theorem coldStart (svc : Bool) : Statement (.coldStart svc) := fun _ _ e => nomatch e

theorem backupCellRanOut : Statement .backupCellRanOut := fun _ _ e => nomatch e

end Sys2Proof.Laws.SenderStation
end

