-- ==== Sys2Proof/Laws/Start.lean ====
section
/-! SUPPORT. What the retention test decides and what a flash-idle event starts, said once: the model's functions have the
properties that Safety names; the samples that a forward step parts; and how retrieval jobs work and reads are served. -/

namespace Sys2Proof.Machine

/-- The erase-ahead of a ring area names its target (R161). -/
theorem eraseNeed_iff (a : Area) (r : Ring) (k : Nat) : eraseNeed a r = some k ↔ EraseNeeded a r k := by
  simp only [eraseNeed, EraseNeeded]
  split
  · split
    · rename_i h; have h' := Ne.symm h; simp [*, eq_comm]
    · rename_i h
      split
      · rename_i h2; simp_all [eq_comm]
      · simp_all
  · simp_all

/-- No target is named when no erase-ahead is needed (R161). -/
theorem eraseNeed_none (a : Area) (r : Ring) : eraseNeed a r = none ↔ ∀ k, ¬ EraseNeeded a r k := by
  simp only [← eraseNeed_iff, Option.eq_none_iff_forall_ne_some, ne_eq]

/-- The own erase is forbidden when its target holds a retained year (R162). -/
theorem ownEraseForbidden_iff (s : State) : ownEraseForbidden s = true ↔ OwnEraseBarred s := by
  have h : ∀ k, holdsRetained s (dirEntry s.arch.own k) = true ↔ Retained s k := by
    intro k
    simp only [holdsRetained, Retained]
    split
    · rename_i y f l hy hf hl; simp [hy, hf, hl]
    · rename_i hn
      simp only [Bool.false_eq_true, false_iff]
      rintro ⟨y, f, l, hy, hf, hl, -⟩
      exact hn y f l hy hf hl
  simp only [ownEraseForbidden, OwnEraseBarred]
  split
  · rename_i t ht
    rw [h]
    constructor
    · exact fun x => ⟨t, (eraseNeed_iff _ _ _).1 ht, x⟩
    · rintro ⟨k, hk, hr⟩
      have := (eraseNeed_iff _ _ _).2 hk
      rw [ht] at this; cases this; exact hr
  · rename_i ht
    simp only [Bool.false_eq_true, false_iff]
    rintro ⟨k, hk, -⟩
    have := (eraseNeed_iff _ _ _).2 hk
    rw [ht] at this; cases this

/-- The retention test is what R162 says of it. -/
theorem retentionTest_tested (s : State) : RetentionTested s (retentionTest s) := by
  have e := ownEraseForbidden_iff s
  simp only [RetentionTested, retentionTest]
  cases h : s.arch.state <;> cases f : ownEraseForbidden s <;> simp_all [raiseCause, Cause.mask, Cause.bit]

/-- The work of a partition: its erase-ahead, else its head staged record (R153). -/
theorem partWork_iff (s : State) (p : Nat) (o : FlashOp) : partWork s p = some o ↔ PartWork s p o := by
  simp only [partWork, PartWork]
  split
  · simp_all
  · rename_i w hw
    split
    · rename_i t ht
      have h1 := (eraseNeed_iff _ _ _).1 ht
      simp only [hw, Option.some.injEq, exists_eq_left']
      constructor
      · rintro rfl; exact .inl ⟨t, h1, rfl⟩
      · rintro (⟨k, hk, rfl⟩ | ⟨hn, -⟩)
        · have := (eraseNeed_iff _ _ _).2 hk
          rw [ht] at this; cases this; rfl
        · exact absurd h1 (hn t)
    · rename_i ht
      have h1 := (eraseNeed_none _ _).1 ht
      simp only [hw, Option.some.injEq, exists_eq_left']
      cases hs : w.staged with
      | nil => simp; intro k hk; exact absurd hk (h1 k)
      | cons x r =>
        simp
        constructor
        · rintro rfl; exact .inr ⟨h1, rfl⟩
        · rintro (⟨k, hk, -⟩ | ⟨-, rfl⟩)
          · exact absurd hk (h1 k)
          · rfl

/-- Witness work starts round-robin (R153). -/
theorem startWitnessWork_started (s : State) : WitnessWorkStarted s (startWitnessWork s) := by
  have none_iff : ∀ p, partWork s p = none ↔ ∀ x, ¬ PartWork s p x := fun p => by
    simp only [← partWork_iff, Option.eq_none_iff_forall_ne_some, ne_eq]
  simp only [WitnessWorkStarted, startWitnessWork]
  constructor
  · intro i o hi ho before
    have hw := (partWork_iff _ _ _).2 ho
    obtain rfl | rfl | rfl : i = 0 ∨ i = 1 ∨ i = 2 := by omega
    · simp at hw
      simp [hw]
    · have b0 := (none_iff _).2 (before 0 (by omega))
      simp at hw b0
      simp [hw, b0]
    · have b0 := (none_iff _).2 (before 0 (by omega))
      have b1 := (none_iff _).2 (before 1 (by omega))
      simp [Nat.add_assoc] at hw b0 b1
      have e3 : (s.arch.roundRobin + 1 + 2) % 3 = s.arch.roundRobin % 3 := by omega
      simp [hw, b0, b1, e3]
  · intro h
    have : ∀ x, partWork s (x % 3) = none := fun x => (none_iff _).2 (h _ (Nat.mod_lt _ (by omega)))
    simp [this]

/-- A change of the first entry that meets a test leaves the entries around it. -/
theorem modifyFirst_split {α : Type} (p : α → Bool) (f : α → α) (l r : List α) (x : α) (hx : p x = true)
    (hl : ∀ y ∈ l, p y = false) : modifyFirst p f (l ++ x :: r) = l ++ f x :: r := by
  induction l with
  | nil => simp [modifyFirst, hx]
  | cons y t ih =>
    have hy := hl y (by simp)
    simp [modifyFirst, hy, ih (fun z hz => hl z (by simp [hz]))]

/-- The operation that starts by its order is the one R153 puts first. -/
theorem startByOrder_started (s : State) : WorkStarted s (startByOrder s) := by
  have forb := ownEraseForbidden_iff s
  simp only [WorkStarted, startByOrder]
  refine ⟨fun h => by simp [h], fun h => ?_, fun h => ⟨fun k hk hr => ?_, fun hb => ?_, fun hn => ⟨fun he => ?_, ?_⟩⟩⟩
  · simp [h]
    cases eraseNeed .own s.arch.own <;> exact startWitnessWork_started s
  · have e := (eraseNeed_iff _ _ _).2 hk
    have : ownEraseForbidden s = false := by
      cases f : ownEraseForbidden s with
      | false => rfl
      | true =>
        obtain ⟨j, hj, rj⟩ := forb.1 f
        have ej := (eraseNeed_iff _ _ _).2 hj
        rw [e] at ej; cases ej; exact absurd rj hr
    simp [h, e, this, setOp]
  · have fb := forb.2 hb
    obtain ⟨k, hk, -⟩ := hb
    have e := (eraseNeed_iff _ _ _).2 hk
    simp [h, e, fb, startWitnessWork_started s]
  · have e := (eraseNeed_none _ _).2 hn
    have : s.arch.outbound.any (fun e => e.state == .waitingArchive) = false := by simpa using he
    simp [h, e, this, startWitnessWork_started s]
  · intro older x younger ho hx hold
    have e := (eraseNeed_none _ _).2 hn
    have hany : s.arch.outbound.any (fun e => e.state == .waitingArchive) = true := by simp [ho, hx]
    have hfind : s.arch.outbound.find? (fun e => e.state == .waitingArchive) = some x := by
      rw [ho, List.find?_append, List.find?_eq_none.2 (by simpa using hold)]
      simp [hx]
    have hm := modifyFirst_split (fun x : OutEntry => x.state == .waitingArchive)
      (fun y => { y with state := .programming, seq := some (x.seq.getD (s.arch.lastAssigned + 1)) }) older younger x
      (by simp [hx]) (by simpa using hold)
    simp [h, e, hany, startOwnProgram, hfind]
    rw [ho, hm]
    cases x.seq <;> simp

/-- The erase that may start is the one R161, R162 and R164 let start. -/
theorem eraseMayStart_iff (s : State) (a : Area) (k : Nat) : eraseMayStart s a k = true ↔ EraseMayStart s a k := by
  have barred : EraseNeeded .own s.arch.own k → (ownEraseForbidden s = true ↔ Retained s k) := fun hk => by
    rw [ownEraseForbidden_iff]
    refine ⟨fun ⟨j, hj, hr⟩ => ?_, fun hr => ⟨k, hk, hr⟩⟩
    have ej := (eraseNeed_iff _ _ _).2 hj
    rw [(eraseNeed_iff _ _ _).2 hk] at ej; cases ej; exact hr
  cases a with
  | own =>
    have e : eraseNeed .own (ringOf s .own) = some k ↔ EraseNeeded .own s.arch.own k := eraseNeed_iff _ _ _
    by_cases hk : EraseNeeded .own s.arch.own k
    · have b := barred hk
      cases f : ownEraseForbidden s <;> simp_all [eraseMayStart, EraseMayStart, ringOf]
    · simp_all [eraseMayStart, EraseMayStart, ringOf]
  | part p => simp [eraseMayStart, EraseMayStart, eraseNeed_iff, Option.isSome_iff_ne_none, and_assoc]

/-- The operation that starts is the abandoned erase, or else the one that R153 puts first. -/
theorem startOperation_started (s : State) : OperationStarted s (startOperation s) := by
  unfold startOperation
  cases h : s.arch.abandoned with
  | none =>
    have e : s.setArch { s.arch with abandoned := none } = s := by rw [← h]; rfl
    refine ⟨fun a k ha => (by rw [h] at ha; cases ha), fun _ => ?_⟩
    rw [e]; exact startByOrder_started s
  | some x =>
    obtain ⟨a, k⟩ := x
    have m := eraseMayStart_iff (s.setArch { s.arch with abandoned := none }) a k
    have m : eraseMayStart (s.setArch { s.arch with abandoned := none }) a k = true ↔ EraseMayStart s a k := m
    dsimp only
    refine ⟨fun b j hb hm => ?_, fun hn => ?_⟩
    · rw [h] at hb; cases hb
      rw [if_pos (m.2 hm)]; rfl
    · rw [if_neg (fun c => hn a k h (m.1 c))]; exact startByOrder_started _

/-- The first flash-idle event after a warm return reissues the abandoned erase, whatever reads and other work wait
(R165, R178). -/
theorem flashIdle_reissues (s : State) (a : Area) (k : Nat) (h : s.arch.abandoned = some (a, k)) (hi : s.arch.op = .idle)
    (on : operationsOn s = true) (m : EraseMayStart s a k) :
    (flashIdle s).arch.op = .erasing a k ∧ (flashIdle s).arch.abandoned = none := by
  have out : ¬ (s.arch.op ≠ .idle ∨ s.supply.station = none ∨ s.supply.station = some .hold) := by
    simp only [operationsOn] at on
    rintro (x | x | x)
    · exact x hi
    all_goals simp [x] at on
  let u := serveReads (readBound s) s
  have ring : ringOf u a = ringOf s a := by cases a <;> simp [ringOf, u]
  have m' : EraseMayStart u a k := by
    refine ⟨by simpa [u] using m.1, by rw [ring]; exact m.2.1, fun o => ?_, fun p e => ?_⟩
    · simpa [u, Retained] using m.2.2.1 o
    · simpa [u, originAt] using m.2.2.2 p e
  have e : flashIdle s = startOperation u := by
    have on' : operationsOn u = true := by simpa [u, operationsOn] using on
    simp only [flashIdle, if_neg out]
    exact if_pos on'
  have := (startOperation_started u).1 a k (by simpa [u] using h) m'
  rw [e, this]
  exact ⟨rfl, rfl⟩

/-- Setting the samples aside leaves the open minute's samples as they were (R113). -/
@[simp] theorem openSamples_setSamplesAside (s : State) : openSamples (setSamplesAside s) = openSamples s := by
  cases h : s.minutes.setAside <;> simp [openSamples, setSamplesAside, restartAccs, h]

/-- Samples once taken are set aside no more (R113). -/
@[simp] theorem takeSamples_setAside (s : State) : (takeSamples s).minutes.setAside = none := by
  cases h : s.minutes.setAside <;> simp [takeSamples, restartAccs, h]

/-! ## Retrieval jobs and the reads they wait for -/

/-- What a job does with its next sequence is what R168 to R170 say. -/
theorem workJob_works (j : Job) (s : State) : WorksOn j s (workJob j s) := by
  have hw : ∀ a k, jobReady j a k s = (withJob { j with work := .ready a k s.port.ticket } s).setPort
      { s.port with ticket := s.port.ticket + 1 } := fun a k => rfl
  simp only [WorksOn, workJob, jobStep]
  refine ⟨fun l hk hl h => ?_, fun hk h => ?_, fun hk ht => ⟨fun hb => ?_, fun b hb hn => ?_⟩, fun y l hk hl => ⟨fun h => ?_, fun h1 h2 => ?_⟩⟩
  · simp [hk, hl, h, Waits, hw]
  · simp [hk, h, withJob, setJob]
  · obtain ⟨hk, l, hl, hn⟩ | hk := hk
    · cases hr : (rangeOf s j.origin).1 with
      | none => simp [hk, hl, Nat.not_lt.2 hn, Nat.not_lt.2 ht, Waits, hw]
      | some b => simp [hk, hl, Nat.not_lt.2 hn, Nat.not_lt.2 ht, hb b hr, Waits, hw]
    · cases hr : (rangeOf s j.origin).1 with
      | none => simp [hk, Nat.not_lt.2 ht, Waits, hw]
      | some b => simp [hk, Nat.not_lt.2 ht, hb b hr, Waits, hw]
  · intro a ha
    obtain ⟨hk, l, hl, hm⟩ | hk := hk
    · simp [hk, hl, hb, Nat.not_lt.2 hm, Nat.not_lt.2 ht, Nat.not_lt.2 hn, ha, addRequest, setJob, withJob]
    · simp [hk, hb, Nat.not_lt.2 ht, Nat.not_lt.2 hn, ha, addRequest, setJob, withJob]
  · cases hr : (rangeOf s j.origin).1 <;> simp [hr] at h <;> simp [hk, hl, yearNext, h, Waits, hw]
  · intro a ha
    cases hr : (rangeOf s j.origin).1 with
    | none => simp [hr] at h1 h2
    | some b =>
      simp [hr] at h1 h2
      simp [hk, hl, yearNext, ha, addRequest, setJob, withJob]
      rw [if_neg (by omega)]

/-- A report wakes the FOLLOW jobs that wait, in the order of the list. -/
theorem wakeFollows_woken (origin : Nat) (s : State) : FollowsWoken origin s (wakeFollows origin s) := by
  have e : (fun j : Job => j.origin == origin && j.kind == .follow && j.work == .waiting)
      = (fun j => decide (j.origin = origin ∧ j.kind = .follow ∧ j.work = .waiting)) := by
    funext j; simp [Bool.and_assoc, beq_eq_decide]
  simp only [FollowsWoken, wakeFollows, e]
  refine ⟨fun h => by rw [h]; rfl, fun j h => ?_, fun i j h => ?_⟩
  · rw [h]; exact workJob_works j s
  · rw [h]; exact ⟨workJob i s, workJob_works i s, workJob_works j (workJob i s)⟩

/-- The held ranges do not look at the requests that wait. -/
theorem rangeOf_setRequests (l : List Request) (origin : Nat) (s : State) :
    rangeOf (s.setArch { s.arch with requests := l }) origin = rangeOf s origin := rfl

/-- The report of a record that a witness has programmed wakes the FOLLOW jobs of its origin, once for the floor jump when
that is due, whose range is then empty up to the floor, and once for the record otherwise (R139, R170). -/
theorem reportHeld_wakes (o : Origin) (s : State) (h : originAt s o.place = some o) (hp : programOf s o.place = false) :
    (o.floor ≤ o.expected → FollowsWoken o.station s (reportHeld o s))
    ∧ (o.expected < o.floor → FollowsWoken o.station
        (setOrigin { o with held := o.floor - 1, oldest := none, staged := [], gap := none }
          (countUp .skips (o.floor - 1 - o.held) s)) (reportHeld o s)) := by
  refine ⟨fun hf => ?_, fun hf => ?_⟩
  · rw [reportHeld, if_neg (Nat.not_lt.2 hf)]; exact wakeFollows_woken _ _
  · simp only [reportHeld, floorJump, h, hf, hp, and_self, if_true]; exact wakeFollows_woken _ _

/-- A served read answers its requester as R168 to R170 say. -/
theorem serveOne_served (s : State) : ReadServed s (serveOne s) := by
  intro q rest hq
  simp only [serveOne, hq]
  refine ⟨fun h => by simp [h], fun n j h hj => ?_⟩
  have hj' : jobOf (s.setArch { s.arch with requests := rest }) n = some j := hj
  simp only [h, jobResult, hj']
  refine ⟨fun hk => ⟨fun r hr => ?_, fun hr => ?_⟩, fun y hk => ⟨fun r hr hy => ?_, fun hy => ?_⟩⟩
  · cases k : j.kind <;> simp [hr] <;> first | rfl | exact absurd k (hk _)
  · refine ⟨emptiedByJump (s.setArch { s.arch with requests := rest }) j.origin, ?_, ?_⟩
    · simp [emptiedByJump, rangeOf_setRequests]
    · cases k : j.kind <;> simp [hr] <;> first | rfl | exact absurd k (hk _)
  · simp [hk, hr, yearRecord, hy]; rfl
  · cases hr : readRecord s q.area q.seq with
    | none => simp [hk]; exact workJob_works _ _
    | some r =>
      have := hy r hr
      simp [hk, yearRecord, this]; exact workJob_works _ _

/-- The reads that one act may still serve: those that wait, and the sequences that the jobs may still ask for. -/
def readsLeft (s : State) : Nat :=
  s.arch.requests.length + (s.wit.jobs.map (fun j => j.last + 1 - j.next)).sum
    + (s.retr.jobs.map (fun j => j.last.getD 0 + 1 - j.next)).sum

/-- A backfill job has a sequence left, and a terminal has one retrieval job. -/
def JobsInOrder (s : State) : Prop := (∀ j ∈ s.wit.jobs, j.next ≤ j.last) ∧ (s.retr.jobs.map (·.terminal)).Nodup

/-- The replaced job of a terminal alone changes a sum over the job list. -/
theorem sum_withJob (f : Job → Nat) (j j' : Job) (l : List Job) (hj : j ∈ l) (ht : j'.terminal = j.terminal)
    (hn : (l.map (·.terminal)).Nodup) :
    ((l.map (fun x => if x.terminal = j'.terminal then j' else x)).map f).sum + f j = (l.map f).sum + f j' := by
  induction l with
  | nil => cases hj
  | cons x r ih =>
    simp only [List.map_cons, List.nodup_cons] at hn
    have hsame : ∀ y ∈ r, y.terminal ≠ x.terminal := fun y hy e => hn.1 (e ▸ List.mem_map_of_mem (f := (·.terminal)) hy)
    obtain rfl | hr := List.mem_cons.1 hj
    · have : r.map (fun x => if x.terminal = j'.terminal then j' else x) = r := by
        conv => rhs; rw [← List.map_id r]
        exact List.map_congr_left fun y hy => by simp [ht, hsame y hy]
      rw [List.map_cons, List.map_cons, List.sum_cons, this, if_pos ht.symm, List.map_cons, List.sum_cons]; omega
    · have hx : x.terminal ≠ j'.terminal := by rw [ht]; exact fun e => hsame j hr e.symm
      have := ih hr hn.2
      simp [hx] at this ⊢; omega

/-- A job of a terminal stands in the list. -/
theorem jobOf_mem (s : State) (n : Nat) (j : Job) (h : jobOf s n = some j) : j ∈ s.retr.jobs ∧ j.terminal = n :=
  ⟨List.mem_of_find?_eq_some h, by simpa using List.find?_some h⟩

/-- Replacing the job of a terminal keeps the terminals. -/
theorem withJob_terminals (j : Job) (l : List Job) :
    (l.map (fun x => if x.terminal = j.terminal then j else x)).map (·.terminal) = l.map (·.terminal) := by
  rw [List.map_map]
  exact List.map_congr_left fun x _ => by by_cases h : x.terminal = j.terminal <;> simp [h]

/-- The reads left when the job of a terminal is replaced by one with d sequences fewer before it. -/
theorem setJob_left (j x : Job) (d : Nat) (s : State) (hj : j ∈ s.retr.jobs) (ht : x.terminal = j.terminal)
    (hd : x.last.getD 0 + 1 - x.next + d ≤ j.last.getD 0 + 1 - j.next) (o : JobsInOrder s) :
    readsLeft (setJob x s) + d ≤ readsLeft s ∧ JobsInOrder (setJob x s) := by
  have e := sum_withJob (fun j => j.last.getD 0 + 1 - j.next) j x _ hj ht o.2
  have k := withJob_terminals x s.retr.jobs
  refine ⟨by simp only [readsLeft, setJob, State.setRetr] at e ⊢; omega, o.1, ?_⟩
  show ((s.retr.jobs.map (fun y => if y.terminal = x.terminal then x else y)).map (·.terminal)).Nodup
  rw [k]; exact o.2

/-- A job that gets an answer leaves no more reads. -/
theorem jobReady_left (j x : Job) (a : Answer) (k : Bool) (s : State) (hj : j ∈ s.retr.jobs) (ht : x.terminal = j.terminal)
    (hd : x.last.getD 0 + 1 - x.next ≤ j.last.getD 0 + 1 - j.next) (o : JobsInOrder s) :
    readsLeft (jobReady x a k s) ≤ readsLeft s ∧ JobsInOrder (jobReady x a k s) :=
  setJob_left j { x with work := .ready a k s.port.ticket } 0 s hj ht hd o

/-- A READ_YEAR job that works on asks for fewer sequences than it had left. -/
theorem workJob_left (j x : Job) (y : Nat) (s : State) (hj : j ∈ s.retr.jobs) (hk : x.kind = .readYear y)
    (ht : x.terminal = j.terminal) (hl : x.last = j.last) (hn : x.next = j.next + 1) (o : JobsInOrder s) :
    readsLeft (workJob x s) ≤ readsLeft s ∧ JobsInOrder (workJob x s) := by
  have hd : x.last.getD 0 + 1 - x.next ≤ j.last.getD 0 + 1 - j.next := by rw [hl, hn]; omega
  simp only [workJob]
  split
  · exact jobReady_left j x _ _ s hj ht hd o
  · exact setJob_left j { x with work := .waiting } 0 s hj ht hd o
  · exact jobReady_left j x _ _ s hj ht hd o
  · rename_i n hs
    have m : x.next ≤ n ∧ n ≤ x.last.getD 0 := by
      simp only [jobStep, hk] at hs
      split at hs
      · cases hs
      · cases hs
        refine ⟨?_, by omega⟩
        unfold yearNext; split <;> exact Nat.le_max_left _ _
    split
    · have h := setJob_left j { x with next := n, work := .reading } 1 s hj ht
        (show x.last.getD 0 + 1 - n + 1 ≤ j.last.getD 0 + 1 - j.next by rw [← hl]; omega) o
      refine ⟨?_, h.2⟩
      have e := h.1
      simp only [addRequest, readsLeft, State.setArch, List.length_append, List.length_singleton] at e ⊢
      omega
    · exact setJob_left j { x with work := .waiting } 0 s hj ht hd o

/-- A served read leaves fewer reads that the act may still serve, and the jobs in order. -/
theorem serveOne_fewer (s : State) (h : s.arch.requests ≠ []) (o : JobsInOrder s) :
    readsLeft (serveOne s) < readsLeft s ∧ JobsInOrder (serveOne s) := by
  obtain ⟨hb, hn⟩ := o
  cases hq : s.arch.requests with
  | nil => exact absurd hq h
  | cons q rest =>
    simp only [serveOne, hq]
    cases hw : q.who with
    | nobody => exact ⟨by simp [readsLeft, hq], hb, hn⟩
    | backfill =>
      cases readRecord s q.area q.seq with
      | some r => exact ⟨by simp [backfillResult, nextTicket, readsLeft, hq], hb, hn⟩
      | none =>
        cases hj : s.wit.jobs with
        | nil =>
          exact ⟨by simp [backfillResult, advanceBackfill, readsLeft, hq, hj],
            by simp [backfillResult, advanceBackfill, JobsInOrder, hj, hn]⟩
        | cons j r =>
          have hjl := hb j (by simp [hj])
          have hr : ∀ x ∈ r, x.next ≤ x.last := fun x hx => hb x (by simp [hj, hx])
          by_cases hl : j.next < j.last
          · simp [backfillResult, advanceBackfill, startBackfill, addRequest, readsLeft, JobsInOrder, hq, hj, hl, hn]
            exact ⟨by omega, hr⟩
          · cases r with
            | nil =>
              simp [backfillResult, advanceBackfill, startBackfill, readsLeft, JobsInOrder, hq, hj, hl, hn]
              omega
            | cons k r =>
              simp [backfillResult, advanceBackfill, startBackfill, addRequest, readsLeft, JobsInOrder, hq, hj, hl, hn]
              exact ⟨by omega, by simpa using hr⟩
    | job n =>
      cases hj : jobOf s n with
      | none =>
        have hj' : jobOf (s.setArch { s.arch with requests := rest }) n = none := hj
        exact ⟨by simp [jobResult, hj', readsLeft, hq], by simpa [jobResult, hj', JobsInOrder] using ⟨hb, hn⟩⟩
      | some j =>
        let u := s.setArch { s.arch with requests := rest }
        have hm : j ∈ u.retr.jobs := (jobOf_mem s n j hj).1
        have ou : JobsInOrder u := ⟨hb, hn⟩
        have less : readsLeft u < readsLeft s := by simp [u, readsLeft, hq]
        have hj' : jobOf u n = some j := hj
        have ready := fun a k => jobReady_left j j a k u hm rfl (le_refl _) ou
        have on := fun y (hk : j.kind = .readYear y) => workJob_left j { j with next := j.next + 1 } y u hm hk rfl rfl rfl ou
        have all : readsLeft (jobResult n (readRecord s q.area q.seq) u) ≤ readsLeft u
            ∧ JobsInOrder (jobResult n (readRecord s q.area q.seq) u) := by
          simp only [jobResult, hj']
          split
          · split
            · exact ready _ _
            · exact on _ ‹_›
          · exact on _ ‹_›
          · exact ready _ _
          · exact ready _ _
        exact ⟨lt_of_le_of_lt all.1 less, all.2⟩

/-- Enough reads serve all that wait: a larger bound serves no more. -/
theorem serveReads_enough : ∀ (n m : Nat) (s : State), JobsInOrder s → readsLeft s ≤ n → readsLeft s ≤ m →
    serveReads n s = serveReads m s := by
  intro n
  induction n with
  | zero =>
    intro m s o h _
    have : s.arch.requests = [] := by
      rw [readsLeft] at h; exact List.length_eq_zero_iff.1 (by omega)
    cases m <;> simp [serveReads, this]
  | succ n ih =>
    intro m s o h g
    by_cases e : s.arch.requests = []
    · cases m <;> simp [serveReads, e]
    · have f := serveOne_fewer s e o
      cases m with
      | zero => omega
      | succ m =>
        simp only [serveReads, List.isEmpty_iff, e, if_false]
        exact ih m _ f.2 (by omega) (by omega)

end Sys2Proof.Machine
end

