-- ==== Sys2Proof/Laws/Telegram.lean ====
section
/-! SUPPORT. What the parts of a received frame are: its key, payload and check, and the fields of its payload. -/

namespace Sys2Proof.Machine

/-- A field that holds the number of a bit vector of its width is that bit vector. -/
theorem fieldBits_eq {w : Nat} {x : BitVec w} {p : List Byte} {off len : Nat} (h : field p off len = x.toNat) :
    fieldBits w p off len = x := by
  apply BitVec.eq_of_toNat_eq
  simp [fieldBits, h]

/-- A flag field without unnamed bits is read as it stands (R130). -/
theorem flagField_eq {x : BitVec 16} {p : List Byte} {off : Nat} (h : field p off 2 = x.toNat) (named : x.toNat < 512) :
    flagField p off = x := by
  apply BitVec.eq_of_toNat_eq
  simp [flagField, h, Nat.mod_eq_of_lt named]

/-- A field that lies in the first part of some bytes. -/
theorem field_append {p : List Byte} (q : List Byte) {off len : Nat} (h : off + len ≤ p.length) :
    field (p ++ q) off len = field p off len := by
  simp only [field, slice]
  rw [List.drop_append_of_le_length (by omega), List.take_append_of_le_length (by simp; omega)]

/-- The key and the payload of a frame that a sender makes, and what can be wrong with it: its payload's length only
(R119, R120, R127). -/
theorem frameBytes_parts {cls sender : Nat} {p : List Byte} (hs : sender < 32) (hc : cls < 8) (hp : p.length ≤ 240) :
    field (frameBytes cls sender p) 0 1 = 32 * cls + sender ∧ framePayload (frameBytes cls sender p) = p
      ∧ frameIsError (frameBytes cls sender p) true = !permittedLength cls p := by
  have key : field (frameBytes cls sender p) 0 1 = 32 * cls + sender := by
    simp [frameBytes, field, slice, ofBytes, beBytes]; omega
  have len : field (frameBytes cls sender p) 1 1 = p.length := by
    simp [frameBytes, field, slice, ofBytes, beBytes]; omega
  have pay : slice (frameBytes cls sender p) 2 p.length = p := by simp [frameBytes, slice, beBytes]
  have whole : (frameBytes cls sender p).length = p.length + 4 := by simp [frameBytes, beBytes]
  have check : field (frameBytes cls sender p) (2 + p.length) 2
      = (crc16 ((frameBytes cls sender p).take (2 + p.length))).toNat := by
    have parts : frameBytes cls sender p = (beBytes 1 (32 * cls + sender) ++ beBytes 1 p.length ++ p)
        ++ beBytes 2 (crc16 (beBytes 1 (32 * cls + sender) ++ beBytes 1 p.length ++ p)).toNat := rfl
    generalize hcov : beBytes 1 (32 * cls + sender) ++ beBytes 1 p.length ++ p = covered at parts
    have lc : covered.length = 2 + p.length := by rw [← hcov]; simp [beBytes]; omega
    rw [parts, ← lc, List.take_left' rfl]
    have := (crc16 covered).isLt
    simp [field, slice, ofBytes, beBytes]; omega
  refine ⟨key, by rw [framePayload, len, pay], ?_⟩
  simp [frameIsError, len, pay, check, whole, hp, key]
  rw [show (32 * cls + sender) / 32 = cls by omega]

end Sys2Proof.Machine
end

