-- ==== Sys2Proof/Tests/Slice0.lean ====
section
/-! SUPPORT. Tests: what well-formedness refuses, values worked out by hand from the manual, and for every statement
with hypotheses a concrete state and operands that meet them, at the boundaries of its clauses. -/

namespace Sys2Proof.Tests

open Sys2Proof.Machine

-- One theorem after the other: each `decide +kernel` waits for the ones before it, and many that wait at once each hold a
-- thread with its stack.
set_option Elab.async false

/-! ## Fixtures -/

/-- Station 1 is the part; 2 and 6 are recorders, 3 a source, 4, 5 and 7 terminals; it witnesses station 2. Every slot
in use has an expected count of 2, so a cap of 4. -/
def cfg : Settings where
  own := 1
  line := 1
  stations := [.recorder, .recorder, .source, .terminal, .terminal, .recorder, .terminal]
  refO2 := 1100
  o2Cap := 1700
  furnace := 85000
  runCap := 60
  yearCap := 600
  retention := 1
  witnessSet := [2, 0, 0]
  reserved := 2
  quorum := 1
  slots := [
    { kind := .pollutant, station := 3, channel := 0, interval := 30, fullScale := 1000, dailyLimit := 100, confidence := 200 },
    { kind := .o2, station := 3, channel := 1, interval := 30, fullScale := 2500 },
    { kind := .furnace, station := 3, channel := 2, interval := 30, fullScale := 150000 },
    { kind := .feed, station := 3, channel := 3, interval := 30 },
    { kind := .flow, station := 3, channel := 4, interval := 30, fullScale := 1000000 }] ++ List.replicate 11 {}

/-- RECORDING at 12:00:30 of 2000-01-01, the minute before it closed, station 2 witnessed and nothing held. -/
def st : State where
  supply := { station := some .recording, output := true, ramIntact := true, clockValid := true }
  cfg := cfg
  port := { state := .active }
  accs := List.replicate 16 {}
  minutes := {}
  line := {}
  avg := { rows := [{ slot := 0 }] }
  year := { rows := [{ slot := 0 }], openYear := some 2000 }
  tb := { plant := some (43230 * 1024), state := .running, closed := some 43200, sampled := some 43200 }
  wit := { origins := [{ place := 0, station := 2 }] }
  arch := {}
  retr := {}
  elapsed := 1000000
  draws := 0
  pending := []

def inState (x : Station) (s : State) : State := s.setSupply { s.supply with station := some x }
def withPort (p : Port) (s : State) : State := s.setPort p
def withAcc (i : Nat) (a : Acc) (s : State) : State := s.setAccs (s.accs.set i a)
def withTime (t : Timebase) (s : State) : State := s.setTb t
def withOrigin (o : Origin) (s : State) : State := s.setWit { s.wit with origins := [o] }
def withOp (o : FlashOp) (s : State) : State := s.setArch { s.arch with op := o }

/-- A RECORD of 82 bytes: a YEAR_GENERAL of station 2. -/
def generalBody : List Byte := List.replicate 82 0

def someRec (seq : Nat) : Rec := ⟨.yearGeneral, 2, seq, 0, generalBody⟩

/-- `n` staged records of station 2, from sequence 1 on, the first `shared` of them in shared slots. -/
def stagedOf (n shared : Nat) : List Staged :=
  (List.range n).map (fun i => ⟨someRec (i + 1), if i < shared then .shared else .reserved⟩)

def job (terminal heard : Nat) : Job :=
  { terminal := terminal, tag := 9, origin := 1, kind := .follow, next := 1, last := none, heardAt := heard }

def ownEntry (x : OutState) (seq : Option Nat) : OutEntry :=
  { kind := .yearGeneral, start := 0, body := generalBody, seq := seq, state := x }

def head (terminal : BitVec 5) : QueryHead := ⟨terminal, 1, 7⟩

/-! ## What well-formedness refuses -/

theorem test_wf_refuses_station_0 : (Instr.receiveReading 0 1 0 0 5).wf = false := by decide
theorem test_wf_refuses_terminal_0 : (Instr.condition ⟨0, 1, 7⟩).wf = false := by decide
theorem test_wf_refuses_origin_0 : (Instr.gapPlace 0).wf = false := by decide
theorem test_wf_refuses_1024_ticks : (Instr.receiveTime 2 5 1024 false).wf = false := by decide
theorem test_wf_refuses_record_kind : (Instr.receiveRecord 2 ⟨9, 2, 1, 0, false⟩ generalBody).wf = false := by decide
theorem test_wf_refuses_record_length : (Instr.receiveRecord 2 ⟨3, 2, 1, 0, false⟩ [0, 0]).wf = false := by decide
theorem test_wf_refuses_mark_of_4 : (Instr.receiveMark 2 (List.replicate 4 ⟨1, 0, 0⟩)).wf = false := by decide
theorem test_wf_refuses_empty_block : (Instr.configBlock (head 4) 0 []).wf = false := by decide
theorem test_wf_refuses_block_of_201 : (Instr.configBlock (head 4) 0 (List.replicate 201 0)).wf = false := by decide +kernel

/-- A good PRESENCE frame is no receive error; the same frame without its end mark is one. -/
def goodFrame : List Byte := frameBytes 7 2 (presencePayload ⟨1, .recording, 5, 1, 3, .running, 0⟩)

theorem test_wf_refuses_good_frame : (Instr.receiveError goodFrame true).wf = false := by decide +kernel
theorem test_wf_takes_frame_without_end : (Instr.receiveError goodFrame false).wf = true := by decide +kernel
theorem test_wf_takes_reading : (Instr.receiveReading 31 15 15 255 0).wf = true := by decide

/-! ## Values worked out by hand from the manual -/

/-- R119: the check value of this CRC over the digits 1 to 9. -/
theorem test_crc16_of_digits : crc16 [0x31, 0x32, 0x33, 0x34, 0x35, 0x36, 0x37, 0x38, 0x39] = 0x29B1 := by decide +kernel

/-- Conventions: halves round away from zero. -/
theorem test_round_halves : roundDiv 5 2 = 3 ∧ roundDiv (-5) 2 = -3 ∧ roundDiv (-4) 3 = -1 ∧ roundDivNat 7 2 = 4 := by decide

/-- Conventions: 2000 has 366 days and 2001 has 365. -/
theorem test_calendar : yearOf 31622399 = 2000 ∧ yearOf 31622400 = 2001 ∧ yearStart 2001 = 31622400
    ∧ yearOf 63158399 = 2001 ∧ yearOf 63158400 = 2002 ∧ yearStart 2004 = 126230400 := by decide

/-- R130: the most significant byte goes first, and 24-bit values are signed. -/
theorem test_byte_order : beBytes 3 66051 = [1, 2, 3] ∧ ofBytes [1, 2, 3] = 66051 ∧ signed24 16777215 = -1
    ∧ be3Signed (-2) = [0xFF, 0xFF, 0xFE] := by decide

/-- R148: the second highest of four marks, equal marks counted each time. -/
theorem test_kth_highest : kthHighest 2 [3, 9, 9, 4] = some 9 ∧ kthHighest 3 [3, 9, 9, 4] = some 4 := by decide

/-- R111: the middle of five, and of four the lower middle one. -/
theorem test_lower_middle : lowerMiddle [5, 1, 4, 2, 3] = some 3 ∧ lowerMiddle [4, 1, 3, 2] = some 2 := by decide

/-- R23 with an expected count of 4: 2 valid samples make VALID, and CALIB wins a tie. -/
theorem test_base_status : baseStatus 4 { valid := 2 } = .valid ∧ baseStatus 4 { valid := 1, calib := 1, maint := 1 } = .calib
    ∧ baseStatus 4 {} = .missing ∧ baseStatus 5 { valid := 2, fault := 1 } = .fault := by decide

/-- R32 and R36 by hand: 200 at 10 % by volume oxygen, referred to 11 %: 200 * (21 - 11) / (21 - 10) = 181.8. -/
theorem test_standardized :
    (pollutantEntry cfg (cfg.slots.getD 0 {}) { valid := 2, sum := 40000 } (cfg.slots.getD 1 {})
      { status := .valid, value := some (.analogue 1000) } none).std = some 18182 := by decide

/-- R64: the allowance is daily limit times confidence in permille, and the value does not go below 0. -/
theorem test_validated : allowance { dailyLimit := 100, confidence := 205 } = 21
    ∧ validatedValue { dailyLimit := 100, confidence := 200 } 19 = 0
    ∧ validatedValue { dailyLimit := 100, confidence := 200 } 30 = 10 := by decide

/-- R162 with one retained year: in 2003 a sector that ends in 2002 is kept and one that ends in 2001 is not. -/
theorem test_retained : holdsRetained (st.setYear { st.year with openYear := some 2003 })
      { firstYear := some 2001, lastYear := some 2002 } = true
    ∧ holdsRetained (st.setYear { st.year with openYear := some 2003 })
      { firstYear := some 2001, lastYear := some 2001 } = false := by decide

/-- R101: after 24 hours of ticks the plant day is over. -/
theorem test_ticks : secondsOf Config.ticksPerDay = 86400 ∧ minuteOfTicks (43230 * 1024) = 43200 := by decide

/-- The tick that ends second 43,229 passes second 43,230: a round falls due (R111), and a TIME telegram not (R107). -/
theorem test_tick_passes_second : (tick (withTime { st.tb with plant := some (43230 * 1024 - 1) } st)).tb.dues
    = { time := false, presence := false, round := true } := by decide

/-! ## The manual's worked examples -/

/-- Section 1.4: the slot of station 12, channel 4 of a part that records line 3. -/
def slot14 : Slot := { kind := .pollutant, station := 12, channel := 4, interval := 5, fullScale := 30000 }

def st14 : State := st.setCfg { cfg with line := 3, slots := [{}, {}, slot14] ++ List.replicate 13 {} }

/-- Readings one after the other, by sender, tag, status and value. -/
def afterReadings (l : List (BitVec 5 × BitVec 4 × BitVec 8 × Int)) (s : State) : State :=
  l.foldl (fun t r => match exec (.receiveReading r.1 4 r.2.1 r.2.2.1 (BitVec.ofInt 24 r.2.2.2)) t with
    | .next u => u
    | _ => t) s

/-- Section 1.4, the state table: seven readings, nineteen more, and two past the cap. -/
theorem test_worked_1_4 : (afterReadings [(12, 3, 0, 1520), (12, 2, 0, 4410), (12, 0, 0, 1480), (12, 3, 0, 31250),
      (12, 3, 4, -2000), (12, 3, 2, 5000), (13, 3, 0, 900)] st14).accs[2]?
      = some { sum := 31000, valid := 4, overrange := 2, calib := 1 }
    ∧ (afterReadings ([(12, 3, 0, 1520), (12, 0, 0, 1480), (12, 3, 0, 31250), (12, 3, 4, -2000), (12, 3, 2, 5000)]
      ++ List.replicate 19 (12, 3, 0, 1500) ++ [(12, 3, 0, 1510), (12, 3, 3, 0)]) st14).accs[2]?
      = some { sum := 59500, valid := 23, overrange := 2, calib := 1, excess := 2 } := by decide +kernel

/-- The settings common to the cases of section 2.6. -/
def cfg26 : Settings := { refO2 := 1100, o2Cap := 1900, defaultH2O := 1800 }

def wet (k : SlotKind) : Slot := { kind := k, interval := 5, basis := .wet }
def dry (k : SlotKind) : Slot := { kind := k, interval := 5 }
def valid (v : Int) : MinuteEntry := { status := .valid, value := some (.analogue v) }
def samples (mean : Int) : Acc := { valid := 12, sum := 12 * mean }

/-- Section 2.6, cases 1 to 3: wet pollutant and oxygen; the cap reached; saturation. -/
theorem test_worked_2_6_cases_1_to_3 :
    pollutantEntry cfg26 (wet .pollutant) { valid := 12, sum := 14808 } (wet .o2) (valid 820) (some (valid 1850))
      = { status := .valid, value := some (.analogue 1234), std := some 1384, dry := some 1514 }
    ∧ pollutantEntry cfg26 (dry .pollutant) (samples 2500) (wet .o2) (valid 1650) (some (valid 1500))
      = { status := .valid, flags := { o2Clamp := true }, value := some (.analogue 2500), std := some 12500, dry := some 2500 }
    ∧ pollutantEntry { cfg26 with o2Cap := 2000 } (dry .pollutant) (samples 1000000) (dry .o2) (valid 2050) none
      = { status := .valid, flags := { o2Clamp := true, saturated := true }, value := some (.analogue 1000000),
          std := some 8388607, dry := some 1000000 } := by decide

/-- Section 2.6, cases 4 and 5: substituted water vapour; the oxygen minute lost. -/
theorem test_worked_2_6_cases_4_and_5 :
    pollutantEntry cfg26 (wet .pollutant) (samples 9000) (wet .o2) (valid 1600) (some { status := .fault })
      = { status := .valid, flags := { h2oSubst := true, o2Clamp := true }, value := some (.analogue 9000),
          std := some 54878, dry := some 10976 }
    ∧ pollutantEntry cfg26 (wet .pollutant) (samples 9100) (wet .o2) { status := .calib } (some { status := .fault })
      = { status := .reference, flags := { h2oSubst := true }, value := some (.analogue 9100), dry := some 11098 }
    ∧ referenceEntry (wet .h2o) (samples 4120) = { valid 4000 with flags := { h2oClamp := true } } := by decide

/-- Section 4.8: slot 0 is O2, 1 CO, 2 H2O, 3 HCl, 4 FLOW. -/
def cfg48 : Settings where
  refO2 := 1100
  o2Cap := 1900
  slots := [{ wet .o2 with fullScale := 2500 },
    { dry .pollutant with limitA := 1800, limitB := 1200, dailyLimit := 1500, confidence := 100 }, dry .h2o,
    { wet .pollutant with limitA := 6000, limitB := 1000, dailyLimit := 1000, confidence := 400 }, dry .flow]
    ++ List.replicate 11 {}

/-- `n` minutes alike: operating state, disturbed, O2, H2O, FLOW, CO and HCl entries. -/
def minutes48 (n : Nat) (op : OpState) (disturbed : Bool) (o2 flow co hcl : MinuteEntry) (h2o : Int) (clamped : Bool) :
    List MinuteRow :=
  List.replicate n ⟨.withSamples, op, disturbed, false, clamped, [(0, o2), (1, co), (2, valid h2o), (3, hcl), (4, flow)]⟩

def measured (v std : Int) (dryValue : Nat) : MinuteEntry := { valid v with std := some std, dry := some dryValue }
def lost (dryValue : Nat) : MinuteEntry := { status := .reference, value := some (.analogue 0), dry := some dryValue }

/-- The thirty minutes of section 4.8, as its table gives them. -/
def rows48 : List MinuteRow :=
  let co := measured 1313 1200 1313
  let hcl := measured 731 820 897
  minutes48 2 .standby false (valid 1500) (valid 120000) (measured 0 0 0) (measured 0 0 0) 1600 false
  ++ minutes48 2 .firing false (valid 1650) (valid 150000) (measured 2500 12500 2500) (measured 153 900 180) 1500 true
  ++ minutes48 8 .firing false (valid 820) (valid 180000) co (measured 713 800 875) 1850 false
  ++ minutes48 2 .firing false { status := .calib } (valid 180000) (lost 1313) (lost 875) 1850 false
  ++ minutes48 5 .firing false (valid 820) (valid 180000) co { status := .calib } 1850 false
  ++ minutes48 1 .firing false (valid 820) (valid 180000) co { status := .maint } 1850 false
  ++ minutes48 4 .firing true (valid 820) (valid 180000) co { status := .maint } 1850 false
  ++ minutes48 1 .firing true (valid 820) (valid 180000) co hcl 1850 false
  ++ minutes48 2 .firing false (valid 820) (valid 180000) co hcl 1850 false
  ++ minutes48 1 .firing true (valid 820) (valid 180000) co hcl 1850 false
  ++ minutes48 2 .firing true (valid 820) { status := .fault } co hcl 1850 false

/-- Section 4.8, the general part. -/
theorem test_worked_4_8_general : rows48.length = 30
    ∧ minuteCountsOf rows48 = { standby := 2, firing := 28 } ∧ rows48.countP (·.disturbed) = 8
    ∧ rows48.countP (·.o2Clamped) = 2 ∧ referenceAverage cfg48 rows48 .o2 = some 884
    ∧ referenceAverage cfg48 rows48 .h2o = some 1825 := by decide

/-- Section 4.8, slot 1 (CO): validated value, limits, mass and mean rate. -/
theorem test_worked_4_8_co : (halfHourEntry cfg48 rows48 none 1 (cfg48.slots.getD 1 {})).status = .valid
    ∧ (halfHourEntry cfg48 rows48 none 1 (cfg48.slots.getD 1 {})).validMinutes = 26
    ∧ (halfHourEntry cfg48 rows48 none 1 (cfg48.slots.getD 1 {})).raw = some 2069
    ∧ (halfHourEntry cfg48 rows48 none 1 (cfg48.slots.getD 1 {})).validated = some 1919
    ∧ (halfHourEntry cfg48 rows48 none 1 (cfg48.slots.getD 1 {})).aExceeded = true
    ∧ (halfHourEntry cfg48 rows48 none 1 (cfg48.slots.getD 1 {})).bExceeded = true
    ∧ (halfHourEntry cfg48 rows48 none 1 (cfg48.slots.getD 1 {})).mass = some 1152695
    ∧ (halfHourEntry cfg48 rows48 none 1 (cfg48.slots.getD 1 {})).rate = some 247006154 := by decide +kernel

/-- Section 4.8, slot 3 (HCl): its status and cause, its mass all the same, and its channel-loss counter. -/
theorem test_worked_4_8_hcl : (halfHourEntry cfg48 rows48 none 3 (cfg48.slots.getD 3 {})).status = .invalid
    ∧ (halfHourEntry cfg48 rows48 none 3 (cfg48.slots.getD 3 {})).cause = some .calib
    ∧ (halfHourEntry cfg48 rows48 none 3 (cfg48.slots.getD 3 {})).validMinutes = 16
    ∧ (halfHourEntry cfg48 rows48 none 3 (cfg48.slots.getD 3 {})).mass = some 663495
    ∧ (halfHourEntry cfg48 rows48 none 3 (cfg48.slots.getD 3 {})).rate = some 142177500
    ∧ lossAfter .invalid 2 = 3 := by decide +kernel

/-- Section 4.9: the day statuses and the daily average of CO, with a day allowance of 3. -/
theorem test_worked_4_9 :
    (dayEntry { dayAllowance := 3 } 1 { dailyLimit := 1500 } ⟨42, 40, 45219, 2, 1⟩).average = some 1130
    ∧ (dayEntry { dayAllowance := 3 } 1 { dailyLimit := 1500 } ⟨42, 40, 45219, 2, 1⟩).exceeded = false
    ∧ (dayEntry { dayAllowance := 3 } 3 { dailyLimit := 1000 } ⟨42, 36, 9612, 6, 0⟩).status = .invalid
    ∧ (dayEntry { dayAllowance := 3 } 3 { dailyLimit := 1000 } ⟨42, 36, 9612, 6, 0⟩).average = none := by decide

/-- Section 6.13: three rounds of three peers; the third steps by 2,088 ticks and is one clock step. -/
def peers613 (a b c : Int) (s : State) : State :=
  withTime { s.tb with
    peers := [⟨2, a, s.tb.plant.getD 0⟩, ⟨9, b, s.tb.plant.getD 0⟩, ⟨14, c, s.tb.plant.getD 0⟩] } s

theorem test_worked_6_13 :
    let s1 := agreementRound (peers613 2600 2700 2650 st)
    let s2 := agreementRound (peers613 2344 2444 2394 s1)
    let s3 := agreementRound (peers613 2088 2188 2138 s2)
    s1.tb.plant = some (43230 * 1024 + 256) ∧ s1.tb.stepCount = 1 ∧ s1.tb.peers.map (·.offset) = [2344, 2444, 2394]
    ∧ s2.tb.plant = some (43230 * 1024 + 512) ∧ s2.tb.stepCount = 2
    ∧ s3.tb.plant = some (43230 * 1024 + 512 + 2088) ∧ s3.tb.stepCount = 0 ∧ s3.year.day.clockSteps = 1
    ∧ flagSet s3 .clock = true ∧ s3.tb.peers.map (·.offset) = [0, 100, 50] := by decide

/-- Section 6.14: a step of 312 s at 10:29:30 begins a catch-up with a TIMEGAP entry from 10:30. -/
def st614 : State :=
  withTime { st.tb with
    plant := some (37770 * 1024), closed := some 37740, sampled := some 37740, reference := some ⟨4, 319488, 37770 * 1024⟩ } st

theorem test_worked_6_14 : (agreementRound st614).tb.plant = some (38082 * 1024) ∧ (agreementRound st614).tb.catchUp = true
    ∧ (agreementRound st614).tb.gaps = [⟨37800, .timegap⟩] ∧ closeKind (agreementRound st614).tb 37740 = .withSamples
    ∧ closeKind (agreementRound st614).tb 37800 = .timegap
    ∧ (closing 37740 (agreementRound st614)).tb.closed = some 37800
    ∧ (closing 37740 (agreementRound st614)).tb.sampled = some 38040 := by decide +kernel

/-- R113: what the FURNACE slot took before the step closes with the minute at T_c, and what it takes after the step stays. -/
theorem test_step_parts_samples :
    let s := agreementRound (withAcc 2 { valid := 2, sum := 170000 } st614)
    let t := closing 37740 (withAcc 2 { valid := 1 } s)
    s.accs[2]? = some ({} : Acc) ∧ (s.minutes.setAside.bind (·[2]?)) = some { valid := 2, sum := 170000 }
    ∧ (t.minutes.last.bind (fun r => entryAt r.entries 2)) = some { status := .valid, value := some (.analogue 85000) }
    ∧ t.accs[2]? = some { valid := 1 } ∧ t.minutes.setAside = none := by decide +kernel

/-- R17, R117: a HOLD at 10:34:42 comes before the first close of that step. The minute at T_c takes what was set aside, and
the minute at HOLD entry what came after the step. -/
theorem test_hold_after_step :
    let s := withAcc 2 { valid := 1 } (agreementRound (withAcc 2 { valid := 2, sum := 170000 } st614))
    let c := warmState (enterHold .recording (s.setTb (holdTimebase s.tb)))
    let t := minuteStage 37740 c
    let u := minuteStage 38040 t
    c.tb.gaps = [⟨37800, .timegap⟩, ⟨38100, .hold⟩] ∧ t.tb.sampled = some 38040 ∧ t.accs[2]? = some { valid := 1 }
    ∧ closeKind t.tb 37800 = .timegap ∧ closeKind t.tb 38040 = .withSamples ∧ closeKind t.tb 38100 = .hold
    ∧ u.accs[2]? = some ({} : Acc) ∧ u.tb.sampled = none := by decide +kernel

/-- Section 6.15: a step back to before T_c freezes the timebase. -/
theorem test_worked_6_15 : (agreementRound (withTime { st.tb with
      plant := some (50730 * 1024), closed := some 50700, reference := some ⟨4, -153600, 50730 * 1024⟩ } st)).tb.state = .frozen := by
  decide

/-- Section 3.8: the account before the first minute, and after minutes with these states and disturbances. -/
def account38 (l : List (OpState × Bool)) : State :=
  l.foldl (fun s m => lineMinute m.1 m.2 s)
    ((st.setLine { run := 57, yearTotal := 440, longest := 61 }).setRetr {})

def minutes38 : List (OpState × Bool) :=
  [(.firing, true), (.coldFiring, true), (.unknown, true), (.firing, true), (.noRecord, true), (.noRecord, true),
    (.standby, false), (.firing, false), (.firing, true), (.firing, true), (.firing, true), (.firing, true)]

/-- Section 3.8: after minutes 3, 7 and 12; one assertion, FEED_STOP, COLD_FEED and DISTURB_WARN. -/
theorem test_worked_3_8 : (account38 (minutes38.take 3)).line
      = { run := 60, yearTotal := 443, longest := 61, fstop := true, coldFed := true, fstopInHalfHour := true }
    ∧ (account38 (minutes38.take 7)).line
      = { run := 0, yearTotal := 446, longest := 63, coldFed := true, fstopInHalfHour := true }
    ∧ (account38 (minutes38.take 11)).line.warned = false
    ∧ (account38 minutes38).line
      = { run := 4, yearTotal := 450, longest := 63, warned := true, coldFed := true, fstopInHalfHour := true }
    ∧ (account38 minutes38).year.fstops = 1 ∧ (account38 minutes38).retr.flags = 0b111 := by decide

/-- Section 5.5: the year figures of CO and of HCl. -/
def cfg55 : Settings where
  yearAllowance := 10
  slots := [{ wet .flow with fullScale := 1 }, { dry .pollutant with limitB := 1200, bRequired := 970 }, {},
    { dry .pollutant with limitB := 1000, bRequired := 970 }] ++ List.replicate 12 {}

theorem test_worked_5_5 :
    let co := yearSlotOf cfg55 2031 ⟨1, 318, 12, 35, 15204, 412, 9, 14721, 2, 18123456789, 57⟩
    let hcl := yearSlotOf cfg55 2031 ⟨3, 323, 7, 35, 15010, 606, 0, 14995, 0, 5402500000, 57⟩
    co.permille = some 968 ∧ co.bBreach = true ∧ co.availabilityBreach = true ∧ co.mass = some 18123
    ∧ hcl.permille = some 999 ∧ hcl.bBreach = false ∧ hcl.availabilityBreach = false ∧ hcl.mass = some 5403 := by decide

/-- Section 8.14: the first PRESENCE heard makes the floor jump, 18,000 numbers are skipped, and a GAP is formed. -/
def st814 : State := st.setCfg { cfg with reserved := 4 }

theorem test_worked_8_14 :
    let s := witnessPresence 2 ⟨1, 1, 5, 40102, 18001, 40000, 1, 0⟩ st814
    s.wit.origins = [{ place := 0, station := 2, held := 18000, known := 40102, floor := 18001, gap := some ⟨18001, 16, .queued⟩ }]
    ∧ s.year.day.skips = 18000 ∧ s.port.gapQ = [⟨2, 18001, 16⟩] := by decide

/-- Section 8.15: station 7 reports 40,101; two seconds later station 11's entry is gone, and station 9 reports 18,016. -/
def st815 : State :=
  ((st.setCfg { cfg with quorum := 2 }).setArch { latest := 40102 }).setWit
    { marks := [⟨7, 40097, 1000000 - 51200⟩, ⟨9, 18000, 1000000 - 20480⟩, ⟨11, 40060, 1000000 - 612352⟩], secured := 40090 }

theorem test_worked_8_15 :
    let s1 := ownMark 7 40101 st815
    let s2 := ownMark 9 18016 (s1.setElapsed 1002048)
    s1.wit.secured = 40090 ∧ s1.wit.marks.map (·.mark) = [40101, 18000, 40060]
    ∧ s2.wit.secured = 40090 ∧ s2.wit.marks.map (·.mark) = [40101, 18016] ∧ s2.retr.flags = 0 := by decide

/-! ## Witnesses: the step and readings -/

theorem test_queue_witnesses : (st.setPending [.busIdle]).pending = .busIdle :: [] ∧ st.pending = [] := by decide

/-- EmptyQueueStepCountsOneTick: the last tick of a second, one within it, the second that a correction has put back, the
upper end, and no plant time with the port ACTIVE for a minute at the next tick. -/
theorem test_tick_witnesses : (43230 * 1024 - 1 + 1) % 1024 = 0 ∧ 43230 * 1024 - 1 < Config.plantTimeEnd
    ∧ st.tb.taken ≠ some ((43230 * 1024 - 1 + 1) / 1024) ∧ (43230 * 1024 + 1) % 1024 ≠ 0
    ∧ (withTime { st.tb with taken := some 43230 } st).tb.taken = some ((43230 * 1024 - 1 + 1) / 1024)
    ∧ Config.plantTimeEnd ≤ 36525 * 88473600 ∧ (withTime {} st).tb.plant = none
    ∧ 0 < 1000000 + 1 - 938561 ∧ (1000000 + 1 - 938561) % 61440 = 0 := by decide

/-- R102, R106, R114: the tick that reaches T_c + 60 s ends a freeze, but not in HOLD; the one that reaches T_c + 120 s begins
a catch-up, the one before it not; and the second put back is taken once (R108). -/
theorem test_thaw_and_catch_up :
    let frozen := withTime { st.tb with plant := some (43260 * 1024 - 1), state := .frozen } st
    (tick frozen).tb.state = .running ∧ (tick (inState .hold frozen)).tb.state = .frozen
    ∧ (tick (withTime { st.tb with plant := some (43320 * 1024 - 1) } st)).tb.catchUp = true
    ∧ (tick (withTime { st.tb with plant := some (43320 * 1024 - 2) } st)).tb.catchUp = false
    ∧ (tick (withTime { st.tb with plant := some (43230 * 1024 - 1), taken := some 43230 } st)).tb.taken = none := by decide

/-- R145: without a plant time PRESENCE falls due a minute after the port left OFF, and not a tick before. -/
theorem test_presence_without_time :
    (tick (withPort { state := .active, activeSince := 938561 } (withTime {} st))).tb.dues.presence = true
    ∧ (tick (withPort { state := .active, activeSince := 938562 } (withTime {} st))).tb.dues.presence = false := by decide

theorem test_hears : Hears st 3 := by unfold Hears; decide

/-- ReadingOfUnlistedTagOrStatusIsIgnored: tag 9, and status 5. -/
theorem test_unlisted_witnesses : (3 : BitVec 5).toNat ≠ st.cfg.own ∧ 8 < (9 : BitVec 4).toNat
    ∧ 4 < (5 : BitVec 8).toNat := by decide

/-- UnmatchedReadingIsIgnored: another station state, a channel of no slot, and another line's tag. -/
theorem test_unmatched_witnesses : (inState .catchUp st).supply.station ≠ some .recording
    ∧ (∀ p ∈ slotsInUse st.cfg, ¬ (p.2.station = (3 : BitVec 5).toNat ∧ p.2.channel = (9 : BitVec 4).toNat))
    ∧ ((2 : BitVec 4).toNat ≠ 0 ∧ (2 : BitVec 4).toNat ≠ st.cfg.line) := by decide

/-- A sample of the pollutant slot with tag 0, and of the FEED slot with the configured line. -/
theorem test_sample_witnesses : SampleOf st 3 0 0 0 (cfg.slots.getD 0 {}) ∧ SampleOf st 3 3 1 3 (cfg.slots.getD 3 {}) := by
  unfold SampleOf Hears; decide

/-- One below the cap: 3 samples taken of the 4 there may be. -/
theorem test_below_cap_witnesses :
    BelowCap (withAcc 0 { valid := 3 } st) 0 (cfg.slots.getD 0 {}) ∧ SampleOf (withAcc 0 { valid := 3 } st) 3 0 0 0 (cfg.slots.getD 0 {})
    ∧ BelowCap (withAcc 3 { fault := 3 } st) 3 (cfg.slots.getD 3 {}) ∧ SampleOf (withAcc 3 { fault := 3 } st) 3 3 1 3 (cfg.slots.getD 3 {}) := by
  refine ⟨⟨{ valid := 3 }, by decide, by decide⟩, ?_, ⟨{ fault := 3 }, by decide, by decide⟩, ?_⟩ <;>
    (unfold SampleOf Hears; decide)

/-- At the cap: 4 samples taken, of two statuses. -/
theorem test_at_cap_witness : SampleOf (withAcc 0 { valid := 3, calib := 1 } st) 3 0 0 0 (cfg.slots.getD 0 {})
    ∧ (4 : BitVec 8).toNat ≤ 4 ∧ (withAcc 0 { valid := 3, calib := 1 } st).accs[0]? = some { valid := 3, calib := 1 }
    ∧ 2 * (60 / (cfg.slots.getD 0 {}).interval) ≤ 3 + 0 + 1 + 0 := by
  unfold SampleOf Hears; decide

/-! ## Witnesses: minutes, half-hours, the line -/

theorem test_base_status_witnesses : (5 : Nat) ≤ 2 * ({ valid := 3 } : Acc).valid ∧ 2 * ({ valid := 2 } : Acc).valid < 5 := by decide

/-- MinuteEntriesFollowTheSamples: a slot without samples, VALID slots of each kind, and a wet pollutant with a VALID and a
failed water vapour minute, and with a VALID and a failed oxygen minute. -/
theorem test_entry_witnesses : baseStatus (60 / (cfg.slots.getD 0 {}).interval) {} ≠ .valid
    ∧ baseStatus (60 / (cfg.slots.getD 0 {}).interval) { valid := 1 } = .valid ∧ (cfg.slots.getD 3 {}).kind = .feed
    ∧ (cfg.slots.getD 1 {}).kind = .o2 ∧ (dry .h2o).kind = .h2o ∧ (cfg.slots.getD 2 {}).kind = .furnace
    ∧ (dry .pollutant).basis = .dry ∧ (wet .pollutant).basis = .wet ∧ (valid 1850).status = .valid
    ∧ (valid 1850).value = some (.analogue (1850 : Nat)) ∧ ({ status := .fault } : MinuteEntry).status ≠ .valid := by decide

/-- R26, R27, R29: means beyond the clamps, and half the samples not zero. -/
theorem test_reference_entries : (referenceEntry (dry .o2) { valid := 6, sum := 6 * 2101 }).value = some (.analogue 2100)
    ∧ (referenceEntry (dry .o2) { valid := 6, sum := -6 }).value = some (.analogue 0)
    ∧ (referenceEntry (dry .h2o) { valid := 6, sum := -6 }).flags.h2oClamp = true
    ∧ (referenceEntry (dry .feed) { valid := 6, nonZero := 3 }).value = some (.binary true)
    ∧ (referenceEntry (dry .feed) { valid := 7, nonZero := 3 }).value = some (.binary false) := by decide

/-- The 60th disturbed minute in a row, and the 600th of the year, with FSTOP released and asserted, and one below both
caps. -/
theorem test_cap_witnesses : st.cfg.runCap ≤ min 16777215 (59 + 1) ∧ st.cfg.yearCap ≤ 599 + 1
    ∧ (st.setLine { run := 59 }).line.fstop = false ∧ (st.setLine { yearTotal := 599, fstop := true }).line.fstop = true
    ∧ ¬ (st.cfg.runCap ≤ min 16777215 (58 + 1) ∨ st.cfg.yearCap ≤ 598 + 1) := by
  decide

/-- FstopAssertionIsCountedOnce: three quarters of the year cap to the minute, with the warning given and not (R49). -/
theorem test_warn_witnesses : 449 + 1 = 3 * st.cfg.yearCap / 4 ∧ (st.setLine { yearTotal := 449 }).line.warned = false
    ∧ (lineMinute .firing true (st.setLine { yearTotal := 449 })).line.warned = true
    ∧ (lineMinute .firing true (st.setLine { yearTotal := 450 })).line.warned = false := by decide

/-- Fifteen operating minutes with a standardized value of 300.00. -/
def minuteRows (n : Nat) : List MinuteRow :=
  List.replicate n ⟨.withSamples, .firing, false, false, false,
    [(0, { status := .valid, value := some (.analogue 300), std := some 300 })]⟩

/-- HalfHourCountsStatusAndValue: a record with an entry, a period of 15 operating minutes with a raw value, and one of
14. -/
theorem test_half_hour_witnesses :
    (halfHourRecord 43200 (st.setMinutes { rows := minuteRows 15 })).entries.length = 1
    ∧ (halfHourEntry cfg (minuteRows 15) none 0 (cfg.slots.getD 0 {})).raw = some 300
    ∧ (minuteCountsOf (minuteRows 14)).operating < 15 := by decide

/-- R69: without a pair of the period, 14 operating minutes have mass 0, and of 15 the rate is carried forward where there
is one; without a FLOW slot no mass at all. The period of section 4.8 has pairs. -/
theorem test_mass_witnesses : slotOfKind cfg .flow ≠ none ∧ slotOfKind { cfg with slots := [] } .flow = none
    ∧ (halfHourEntry cfg (minuteRows 14) (some 6000) 0 (cfg.slots.getD 0 {})).mass = some 0
    ∧ (halfHourEntry cfg (minuteRows 15) (some 6000) 0 (cfg.slots.getD 0 {})).mass = some 15
    ∧ (halfHourEntry cfg (minuteRows 15) (some 6000) 0 (cfg.slots.getD 0 {})).massSubst = true
    ∧ (halfHourEntry cfg (minuteRows 15) none 0 (cfg.slots.getD 0 {})).massNone = true
    ∧ (halfHourEntry { cfg with slots := [] } (minuteRows 15) (some 6000) 0 {}).mass = none := by decide

/-- HalfHourCloseAppendsItsRecord: 15 entries; 16 of which the first is on the line and the second may be removed; 16 that
all wait for the archive. An entry that exceeds limit A, and one INVALID in its third half-hour. -/
def publishing : State :=
  ((withPort { state := .active, recordQ := [⟨someRec 1, false⟩], onLine := some ⟨.record, []⟩ } st).setArch
    { lastAssigned := 16, latest := 16
      outbound := (List.range 16).map (fun i => { ownEntry .waitingPublish (some (i + 1)) with placed := i == 0 }) })

theorem test_full_queue_witnesses : 16 ≤ publishing.arch.outbound.length
    ∧ publishing.arch.outbound = [{ ownEntry .waitingPublish (some 1) with placed := true }]
      ++ ownEntry .waitingPublish (some 2) :: (List.range 14).map (fun i => ownEntry .waitingPublish (some (i + 3)))
    ∧ removablePublish publishing (ownEntry .waitingPublish (some 2)) = true
    ∧ removablePublish publishing { ownEntry .waitingPublish (some 1) with placed := true } = false
    ∧ (∀ x ∈ List.replicate 16 (ownEntry .waitingArchive none), removablePublish st x = false)
    ∧ (ownEntry .waitingArchive none).state = .waitingArchive := by decide +kernel

theorem test_causes_witnesses : (halfHourEntry { cfg with slots := [{ limitA := 279 }] } (minuteRows 15) none 0 { limitA := 279 }).aExceeded = true
    ∧ (halfHourEntry cfg (minuteRows 9 ++ List.replicate 6 ⟨.timegap, .noRecord, false, false, false, []⟩) none 0 (cfg.slots.getD 0 {})).status = .invalid
    ∧ 2 ≤ (avgRowAt { rows := [{ slot := 0, loss := 2 }] } 0).loss := by decide

/-- R156: a full queue loses its oldest published entry that is not on the line. -/
theorem test_full_queue : (appendRecord .day 0 [] publishing).arch.outbound.map (·.seq)
      = [some 1] ++ (List.range 14).map (fun i => some (i + 3)) ++ [none]
    ∧ (appendRecord .day 0 [] publishing).year.day.unpublished = 1 := by decide +kernel

/-- The other clauses of RecordAppended: the release goes on waiting for the entries left unplaced, and of 16 that wait for
the archive the first, with the last assigned number, leaves. -/
def unarchiving : State :=
  st.setArch { lastAssigned := 9, latest := 8, state := .fault
               outbound := ownEntry .waitingArchive (some 9) :: List.replicate 15 (ownEntry .waitingArchive none) }

theorem test_append_witnesses : publishing.arch.releaseTicket = none
    ∧ (appendRecord .day 0 [] publishing).arch.releaseTicket = some 0
    ∧ (appendRecord .day 0 [] publishing).port.ticket = 1
    ∧ (∀ x ∈ unarchiving.arch.outbound, removablePublish unarchiving x = false) ∧ 16 ≤ unarchiving.arch.outbound.length
    ∧ (appendRecord .day 0 [] unarchiving).arch.lastAssigned = 8 ∧ (appendRecord .day 0 [] unarchiving).retr.flags = 0x40
    ∧ (appendRecord .day 0 [] unarchiving).arch.outbound.map (·.seq) = List.replicate 16 none := by decide +kernel

/-- R156 at the day close and at the year close: what leaves a full queue counts for the day that begins; of two year records
that meet 15 entries the second makes room. -/
theorem test_full_queue_at_closes : (closeDay 86400 publishing).year.day.unpublished = 1
    ∧ (closeDay 86400 publishing).year.totals.unpublished = 0
    ∧ (closeYear 31622400 (unarchiving.setArch { unarchiving.arch with outbound := unarchiving.arch.outbound.take 15 })).arch.outbound.map
        (fun e => (e.kind, e.seq)) = List.replicate 14 (.yearGeneral, none) ++ [(.yearGeneral, none), (.yearSlot, none)]
    ∧ (closeYear 31622400 (unarchiving.setArch { unarchiving.arch with outbound := unarchiving.arch.outbound.take 15 })).year.day.unarchived
        = 1 := by decide +kernel

/-- DayCloseAppendsItsRecordAndRestartsTheDay: a day with an average at the limit and above it, one INVALID by its
allowance, and a queue with room. -/
theorem test_day_witnesses : st.arch.outbound.length < 16 ∧ st.avg.rows = { slot := 0 } :: []
    ∧ (dayEntry cfg 0 { dailyLimit := 100 } ⟨2, 2, 202, 0, 0⟩).exceeded = true
    ∧ (dayEntry cfg 0 { dailyLimit := 100 } ⟨2, 2, 200, 0, 0⟩).exceeded = false
    ∧ (dayEntry cfg 0 {} ⟨1, 0, 0, 1, 0⟩).status = .invalid := by decide

/-- YearCloseRestartsTheTallies: room for every record to the entry; a slot with and without limit B and a half-hour. -/
theorem test_year_close_witnesses : (st.setArch { outbound := List.replicate 14 (ownEntry .waitingArchive none) }).arch.outbound.length
      + 1 + st.year.rows.length ≤ 16
    ∧ ({ slot := 1, validHalfHours := 1 } : YearRow).validHalfHours = 1 ∧ 0 < (cfg55.slots.getD 1 {}).limitB
    ∧ (yearSlotOf cfg55 2031 { slot := 1, validHalfHours := 1, bCompliant := 1 }).permille = some 1000
    ∧ (yearSlotOf cfg55 2031 { slot := 1 }).permille = none ∧ slotOfKind cfg55 .flow ≠ none ∧ slotOfKind {} .flow = none := by
  decide

/-! ## Witnesses: plant time -/

/-- TimeTelegramStoresItsOffset: the last plant time there is, from each kind of sender. -/
theorem test_time_witnesses : Hears st 2 ∧ Hears st 4 ∧ Hears st 3 ∧ Hears st 31 ∧ CatchingUpOrRecording st
    ∧ CatchingUpOrRecording (inState .catchUp st) ∧ st.tb.state ≠ .unset ∧ st.tb.plant = some (43230 * 1024)
    ∧ (3155760000 : BitVec 32).toNat * 1024 + (0 : BitVec 16).toNat ≤ Config.plantTimeEnd
    ∧ stationKind st.cfg 2 = .recorder ∧ stationKind st.cfg 4 = .terminal ∧ stationKind st.cfg 3 = .source
    ∧ stationKind st.cfg 31 = .absent := by
  unfold Hears CatchingUpOrRecording; decide

/-- TIME_UNSET, without a plant time. -/
def unset : State := withTime {} (inState .timeUnset st)

/-- ReferenceTimeIsAdopted: the latest send time that leaves room for the 2 ticks. -/
theorem test_adopt_witness : Hears unset 4 ∧ unset.supply.station = some .timeUnset
    ∧ stationKind unset.cfg (4 : BitVec 5).toNat = .terminal
    ∧ (3155759999 : BitVec 32).toNat * 1024 + (1022 : BitVec 16).toNat + 2 ≤ Config.plantTimeEnd := by
  unfold Hears; decide

/-- What TIME is not taken: a tick past the end of plant time, in HOLD and SCAN, and while no time is known. -/
theorem test_untaken_time_witnesses : Config.plantTimeEnd < (3155760000 : BitVec 32).toNat * 1024 + (1 : BitVec 16).toNat
    ∧ (inState .hold st).supply.station ≠ some .timeUnset ∧ ¬ CatchingUpOrRecording (inState .scan st)
    ∧ (inState .scan st).supply.station ≠ some .timeUnset ∧ (withTime {} st).tb.state = .unset := by
  unfold CatchingUpOrRecording; decide

/-- EstablishmentWindowAdoptsTheMiddle, the times collected in TIME_UNSET, with R115 by hand: the first one starts the
window, a second one of the station replaces it and leaves the window, and what is not taken stores nothing. -/
theorem test_collect_witnesses : Hears unset 2 ∧ Hears unset 3 ∧ Hears unset 31 ∧ Hears unset 4
    ∧ (3155760000 : BitVec 32).toNat * 1024 + (0 : BitVec 16).toNat ≤ Config.plantTimeEnd
    ∧ (stationKind unset.cfg 2, stationKind unset.cfg 3, stationKind unset.cfg 31, stationKind unset.cfg 4)
      = (.recorder, .source, .absent, .terminal)
    ∧ unset.tb.window = none
    ∧ (collectTime 2 5000 false unset).tb = { stored := [⟨2, 5002, 1000000⟩], window := some 1000000 }
    ∧ (collectTime 2 9000 false (withTime { stored := [⟨2, 5002, 7⟩, ⟨6, 1, 8⟩], window := some 7 } unset)).tb
      = { stored := [⟨6, 1, 8⟩, ⟨2, 9002, 1000000⟩], window := some 7 } := by
  unfold Hears; decide

/-- EntersCatchUp: a resume point a second later than plant time, one whose next minute is due, and one a second short of
that; in 2002 a half-hour at the start of 2001, and the one before it. -/
theorem test_resume_witnesses : unset.year.resume = none ∧ 43230 * 1024 < 43231 * 1024
    ∧ (43170 + 60) * 1024 ≤ 43230 * 1024 ∧ 43230 * 1024 < (43171 + 60) * 1024
    ∧ yearStart (yearOf (43230 * 1024 / 1024) - 1) ≤ 43170 - 1800
    ∧ yearStart (yearOf (63158400 * 1024 / 1024) - 1) ≤ 31624200 - 1800
    ∧ 31622400 - 1800 < yearStart (yearOf (63158400 * 1024 / 1024) - 1) := by decide

/-- R116: CATCH_UP from the resume point, in a freeze at a later one, and without the years between. -/
def resumed (r plant : Nat) : State :=
  enterCatchUp ((withTime { plant := some plant, state := .running } unset).setYear { st.year with resume := some r })

theorem test_enters_catch_up : (resumed 43170 (43230 * 1024)).supply.station = some .catchUp
    ∧ (resumed 43170 (43230 * 1024)).tb.gaps = [⟨43170, .powerLoss⟩]
    ∧ (resumed 43200 (43230 * 1024)).supply.station = some .recording
    ∧ (resumed 45000 (43230 * 1024)).tb.state = .frozen ∧ (resumed 45000 (43230 * 1024)).tb.sampled = some 45000
    ∧ (resumed 31622400 (63158430 * 1024)).tb.closed = some 63158400 := by decide +kernel

/-- A window exactly 20 s old with two stored times. -/
def window : State :=
  withTime { window := some (1000000 - 20480), stored := [⟨2, 5000, 1000000 - 20480⟩, ⟨6, 7000, 1000000⟩] } unset

theorem test_window_witness : window.supply.station = some .timeUnset ∧ window.tb.window = some (1000000 - 20480)
    ∧ 1000000 - 20480 + 20 * 1024 ≤ window.elapsed ∧ window.tb.stored ≠ [] := by decide

def due (d : Dues) : State := withTime { st.tb with dues := d } st

/-- TimeSendPlacesATimeTelegram: an empty queue, and an entry on the line. -/
theorem test_time_send_witnesses : (due { time := true }).tb.dues.time = true ∧ CatchingUpOrRecording (due { time := true })
    ∧ (due { time := true }).tb.state ≠ .unset ∧ isOnLine (due { time := true }).port .time = false
    ∧ isOnLine { st.port with onLine := some ⟨.time, []⟩, timeQ := { entry := some false } } .time = true := by
  unfold CatchingUpOrRecording; decide

/-- A due round with a reference offset of this size, just received, or received 60 s ago. -/
def roundOf (offset receipt : Int) : State :=
  withTime { st.tb with dues := { round := true }, reference := some ⟨4, offset, receipt⟩ } st

/-- AgreementRoundActsByMagnitude: the hypotheses at both ends of freshness, and the offsets at the ends of its clauses. -/
theorem test_round_witnesses : (∀ r ∈ [43230 * 1024, 43230 * 1024 - 61440], ∀ c ∈ [256, -256, 257, -2047, 2048, 88473600, 88473601, -44267521],
      (roundOf c r).tb.dues.round = true ∧ (roundOf c r).supply.station = some .recording ∧ (roundOf c r).tb.state ≠ .unset
      ∧ (roundOf c r).tb.catchUp = false ∧ (roundOf c r).tb.plant = some (43230 * 1024)
      ∧ (roundOf c r).tb.reference = some ⟨4, c, r⟩ ∧ r ≤ (43230 * 1024 : Nat) ∧ ((43230 * 1024 : Nat) : Int) ≤ r + 61440)
    ∧ (256 : Int).natAbs ≤ 256 ∧ 256 < (257 : Int).natAbs ∧ (-2047 : Int).natAbs ≤ 2047 ∧ 2048 ≤ (2048 : Int).natAbs
    ∧ (88473600 : Int).natAbs ≤ 88473600 ∧ 88473600 < (88473601 : Int).natAbs
    ∧ ((43230 * 1024 : Nat) : Int) + -44267521 < 0 := by decide

/-- A round in which the one reference entry is a tick too old. -/
theorem test_stale_round_witness : (roundOf 5000 (43230 * 1024 - 61441)).tb.dues.round = true
    ∧ (∀ e, ((roundOf 5000 (43230 * 1024 - 61441)).tb.reference = some e ∨ e ∈ (roundOf 5000 (43230 * 1024 - 61441)).tb.peers) →
        ¬ (e.receipt ≤ (43230 * 1024 : Nat) ∧ ((43230 * 1024 : Nat) : Int) ≤ e.receipt + 61440)) := by
  refine ⟨by decide, ?_⟩
  rintro e (h | h)
  · cases (Option.some.inj h : (⟨4, 5000, 43230 * 1024 - 61441⟩ : OffsetEntry) = e)
    decide
  · cases (h : e ∈ ([] : List OffsetEntry))

/-- A due round with two fresh peer offsets and one that is a tick too old, no reference, and so many rounds counted. -/
def peerRound (a b : Int) (count : Nat) : State :=
  withTime { st.tb with
    dues := { round := true }, stepCount := count
    peers := [⟨2, a, 43230 * 1024⟩, ⟨6, b, 43230 * 1024 - 61440⟩, ⟨9, 999999, 43230 * 1024 - 61441⟩] } st

/-- AgreementRoundActsByMagnitude, peer rounds: no reference, a fresh peer at each end of freshness, targets at the ends
of the clauses, and the first, second and third round of one sign. -/
theorem test_peer_round_witnesses : (peerRound 2048 5000 2).tb.reference = none
    ∧ (∃ e ∈ (peerRound 2048 5000 2).tb.peers,
        e.receipt ≤ (43230 * 1024 : Nat) ∧ ((43230 * 1024 : Nat) : Int) ≤ e.receipt + 61440)
    ∧ roundTarget (peerRound 256 5000 0).tb = some (256, false) ∧ roundTarget (peerRound 257 5000 0).tb = some (257, false)
    ∧ roundTarget (peerRound 2047 5000 0).tb = some (2047, false) ∧ roundTarget (peerRound 2048 5000 2).tb = some (2048, false)
    ∧ countedSteps (peerRound 2048 5000 0).tb 2048 = 1 ∧ countedSteps (peerRound 2048 5000 2).tb 2048 = 3
    ∧ countedSteps (peerRound (-5000) (-5000) 2).tb (-5000) = 1 := by
  refine ⟨by decide, ⟨⟨6, 5000, 43230 * 1024 - 61440⟩, by decide, by decide⟩, ?_⟩
  decide

/-- R108: a correction backwards puts its second back, and one forwards does not. -/
theorem test_round_puts_back : (agreementRound (roundOf (-5) (43230 * 1024))).tb.taken = some 43230
    ∧ (agreementRound (roundOf 5 (43230 * 1024))).tb.taken = none := by decide

/-- The clauses of a step: refused beyond 24 hours, and one that makes a minute due, one that does not, and one before and
one at T_c (section 6.8 and 6.9). -/
theorem test_step_effects : (agreementRound (peerRound 2048 5000 2)).tb.plant = some (43230 * 1024 + 2048)
    ∧ (agreementRound (peerRound 2048 5000 1)).tb.plant = some (43230 * 1024 + 256)
    ∧ (agreementRound (roundOf 30720 (43230 * 1024))).tb.gaps = [⟨43260, .timegap⟩]
    ∧ (agreementRound (roundOf 30719 (43230 * 1024))).tb.gaps = []
    ∧ (agreementRound (roundOf (-30721) (43230 * 1024))).tb.state = .frozen
    ∧ (agreementRound (roundOf (-30720) (43230 * 1024))).tb.state = .running
    ∧ (agreementRound (roundOf 88473601 (43230 * 1024))).tb.plant = some (43230 * 1024) := by decide

/-- A boundary that is due to the tick: at `c + 60` seconds of plant time. -/
def boundaryAt (c ticks : Nat) : State := withTime { st.tb with plant := some ticks, closed := some c } st

/-- A catch-up with 15 outbound records. -/
def crowded (n : Nat) : State :=
  (withTime { st.tb with plant := some (46800 * 1024), closed := some 44940, catchUp := true } (inState .catchUp st)).setArch
    { outbound := List.replicate n (ownEntry .waitingArchive none) }

/-- MinuteBoundaryClosesTheOpenMinuteWhenDue, first clause: inside a half-hour, at its end, and in a catch-up with room
for one record. -/
theorem test_boundary_witnesses : CatchingUpOrRecording (boundaryAt 43200 (43260 * 1024)) ∧ (43200 + 60) * 1024 ≤ 43260 * 1024
    ∧ (boundaryAt 43200 (43260 * 1024)).tb.state = .running ∧ (boundaryAt 43200 (43260 * 1024)).tb.catchUp = false
    ∧ (43200 + 60) % 1800 ≠ 0 ∧ (boundaryAt 43200 (43260 * 1024)).minutes.rows.length ≤ 43200 % 1800 / 60
    ∧ (boundaryAt 43200 (43260 * 1024)).year.compareDue = false ∧ (44940 + 60) % 1800 = 0
    ∧ CatchingUpOrRecording (crowded 15) ∧ (crowded 15).tb.state = .running ∧ (44940 + 60) * 1024 ≤ 46800 * 1024
    ∧ (crowded 15).tb.plant = some (46800 * 1024) ∧ (crowded 15).tb.closed = some 44940
    ∧ (crowded 15).arch.outbound.length + roomNeeded (44940 + 60) ≤ 16 := by
  unfold CatchingUpOrRecording; decide

/-- The close kind's clauses: the sampled minute, and the last of two gap entries from the minute's start on. The tables
filled as far as the minute, and a row with and without samples. -/
theorem test_close_kind_witnesses : (boundaryAt 43200 (43260 * 1024)).tb.sampled = some 43200 ∧ (crowded 15).tb.sampled ≠ some 44940
    ∧ ([⟨44880, .timegap⟩, ⟨44940, .hold⟩] : List GapEntry) = [⟨44880, .timegap⟩] ++ ⟨44940, .hold⟩ :: [] ∧ 44940 ≤ 44940
    ∧ 43200 % 1800 / 60 ≤ (boundaryAt 43200 (43260 * 1024)).minutes.rows.length
    ∧ slotOfKind cfg .o2 = some (1, cfg.slots.getD 1 {}) ∧ slotOfKind cfg .feed = some (3, cfg.slots.getD 3 {})
    ∧ slotOfKind cfg .furnace = some (2, cfg.slots.getD 2 {})
    ∧ (cfg.slots.getD 0 {}).kind = .pollutant ∧ (0, cfg.slots.getD 0 {}) ∈ slotsInUse cfg := by decide

/-- R99: the comparison after a cold start, with a resume point at the half-hour and one before it; and a table that lacks
the earlier minutes of its half-hour (R21). -/
def comparing (resume : Nat) : State :=
  ((st.setYear { st.year with resume := some resume, compareDue := true }).setLine { run := 5 })

theorem test_compare_witnesses : (comparing 43200).year.compareDue = true ∧ (comparing 43200).year.resume = some (43230 / 1800 * 1800)
    ∧ (comparing 41400).year.resume ≠ some (43230 / 1800 * 1800) ∧ (compareResume 43200 (comparing 43200)).line.run = 5
    ∧ (compareResume 43200 (comparing 41400)).line.run = 0 ∧ (compareResume 43200 (comparing 41400)).year.openYear = some 2000
    ∧ st.minutes.rows.length < 2 ∧ (closeNumbered 2 .withSamples st).minutes.rows.map (·.closeKind)
      = [.powerLoss, .powerLoss, .withSamples] := by decide +kernel

/-- Minutes fed and not fed, hot and not, as R40 classifies them, and one lost in a disturbed run (R44). -/
def fedState (fed hot : Bool) : State :=
  withAcc 3 { valid := 2, nonZero := if fed then 2 else 0 } (withAcc 2 { valid := 2, sum := if hot then 170000 else 0 } st)

theorem test_row_states : (minuteRow .withSamples (fedState false false)).opState = .off
    ∧ (minuteRow .withSamples (fedState false true)).opState = .standby
    ∧ (minuteRow .withSamples (fedState true true)).opState = .firing
    ∧ (minuteRow .withSamples (fedState true false)).opState = .coldFiring
    ∧ (minuteRow .withSamples st).opState = .unknown
    ∧ (minuteRow .timegap (st.setLine { run := 1 })).disturbed = true := by decide

/-- Second clause: a tick too early, and in a catch-up without the room. -/
theorem test_no_boundary_witnesses : (boundaryAt 43200 (43260 * 1024 - 1)).tb.plant = some (43260 * 1024 - 1)
    ∧ (boundaryAt 43200 (43260 * 1024 - 1)).tb.closed = some 43200 ∧ 43260 * 1024 - 1 < (43200 + 60) * 1024
    ∧ (crowded 16).tb.catchUp = true ∧ (crowded 16).arch.state = .ready
    ∧ 16 < (crowded 16).arch.outbound.length + roomNeeded (44940 + 60) := by decide

/-! ## Witnesses: the bus port -/

/-- A frame of a class-5 query whose length byte is `len`, with `payload` and a check that is right, or `wrong` by one. -/
def frame (cls len : Nat) (payload : List Byte) (wrong : Nat) : List Byte :=
  let covered := beBytes 1 (32 * cls + 4) ++ beBytes 1 len ++ payload
  covered ++ beBytes 2 ((crc16 covered).toNat + wrong)

/-- ReceiveErrorIsCounted: a length of 241, a frame cut short, a READING of 4 bytes, a check that is off by one. -/
theorem test_receive_error_witnesses : st.port.state ≠ .off ∧ 240 < field (frame 6 241 [0] 0) 1 1
    ∧ (frame 6 240 [0] 0).length ≠ field (frame 6 240 [0] 0) 1 1 + 4
    ∧ permittedLength (field (frame 1 4 [0, 0, 0, 0] 0) 0 1 / 32) (slice (frame 1 4 [0, 0, 0, 0] 0) 2 (field (frame 1 4 [0, 0, 0, 0] 0) 1 1)) = false
    ∧ field (frame 5 3 [1, 2, 3] 1) (2 + field (frame 5 3 [1, 2, 3] 1) 1 1) 2
        ≠ (crc16 ((frame 5 3 [1, 2, 3] 1).take (2 + field (frame 5 3 [1, 2, 3] 1) 1 1))).toNat := by
  decide +kernel

/-- StationClashIsCountedAndRaisesBus: the part's own number in ACTIVE and in SILENT, and lengths at each bound. -/
theorem test_clash_witness : (1 : BitVec 5).toNat = st.cfg.own ∧ (withPort { state := .silent } st).port.state ≠ .off
    ∧ (⟨1, 1, 7⟩ : QueryHead).terminal.toNat = st.cfg.own
    ∧ recordKindOf (3 : BitVec 8).toNat = some .yearGeneral ∧ bodyLengthOk .yearGeneral generalBody = true
    ∧ bodyLengthOk .yearGeneral (generalBody.drop 1) = false ∧ recordKindOf (9 : BitVec 8).toNat = none
    ∧ (List.replicate 3 (⟨1, 0, 0⟩ : MarkEntry)).length ≤ 3 ∧ 3 < (List.replicate 4 (⟨1, 0, 0⟩ : MarkEntry)).length
    ∧ (List.replicate 200 (0 : Byte)).length ≤ 200 ∧ 200 < (List.replicate 201 (0 : Byte)).length := by decide +kernel

/-- Log entry 40: a MARK of four entries under the part's own number is one receive error and no clash. -/
theorem test_bad_length_of_own_number :
    exec (.receiveMark 1 (List.replicate 4 ⟨1, 0, 0⟩)) st = .next (countUp .rxErrors 1 st) := by rfl

/-- 7.7.3 by hand: channel 3 under line 5, status OVERRANGE, value -2; a TIME of second 258 and tick 1,023 with the unnamed
bits of its last byte set; a GAP; and a MARK of one entry. -/
theorem test_payloads_by_hand :
    telegramOf 1 12 [0x35, 4, 0xFF, 0xFF, 0xFE] = some (.receiveReading 12 3 5 4 0xFFFFFE)
    ∧ readingValue 0xFFFFFE = -2
    ∧ telegramOf 0 2 [0, 0, 1, 2, 3, 0xFF, 0xFF] = some (.receiveTime 2 258 1023 true)
    ∧ telegramOf 4 6 [1, 0, 0, 1, 0, 16] = some (.receiveGap 6 1 256 16)
    ∧ telegramOf 3 6 [1, 1, 0, 0, 0, 9, 0, 0, 0, 2] = some (.receiveMark 6 [⟨1, 9, 2⟩])
    ∧ telegramOf 7 2 [1, 1, 5, 0, 0, 1, 0, 0, 0, 0, 1, 0, 0, 0, 0, 1, 0xFF, 0x05]
      = some (.receivePresence 2 ⟨1, 1, 5, 256, 1, 0, 1, 0x105⟩) := by decide +kernel

/-- The six kinds of QUERY by hand, to station 1 with tag 7; a cause set with bits that name no cause; a kind not listed. -/
theorem test_queries_by_hand :
    telegramOf 5 4 [1, 7, 1, 2, 0, 0, 1, 1, 0xFF, 0xFF] = some (.read ⟨4, 1, 7⟩ 2 257 65535)
    ∧ telegramOf 5 4 [1, 7, 2, 1, 26] = some (.readYear ⟨4, 1, 7⟩ 1 26)
    ∧ telegramOf 5 4 [1, 7, 3] = some (.condition ⟨4, 1, 7⟩)
    ∧ telegramOf 5 4 [1, 7, 4, 0xFF, 0x02] = some (.clearAttention ⟨4, 1, 7⟩ 0x102)
    ∧ telegramOf 5 4 [1, 7, 5, 0x03, 0xE8, 2, 10, 11] = some (.configBlock ⟨4, 1, 7⟩ 1000 [10, 11])
    ∧ telegramOf 5 4 [1, 7, 6, 0x01, 0xA0, 0x35, 0x24] = some (.configCommit ⟨4, 1, 7⟩ 416 13604)
    ∧ telegramOf 5 4 [1, 7, 9] = none := by decide +kernel

/-- A RECORD by hand: YEAR_GENERAL of station 2, sequence 258, start 0, the backfill flag with unnamed bits beside it. -/
theorem test_record_by_hand : telegramOf 2 2 ([3, 2, 0, 0, 1, 2, 0, 0, 0, 0, 0xFF, 82] ++ generalBody)
    = some (.receiveRecord 2 ⟨3, 2, 258, 0, true⟩ generalBody) := by decide +kernel

/-- FramesReadBack: a READING of station 12, whose key is 44 (7.6), heard by station 1 and by station 12; the ANSWER of
another recorder; a frame cut short. -/
theorem test_frame_witnesses : (Instr.receiveReading 12 3 5 4 0xFFFFFE).wf = true
    ∧ (telegramFrame (.receiveReading 12 3 5 4 0xFFFFFE)).map (fun f => (f.getD 0 0, f.length)) = some (44, 9)
    ∧ (telegramFrame (.receiveReading 12 3 5 4 0xFFFFFE)).bind (commandOfFrame 1 · true)
      = some (.receiveReading 12 3 5 4 0xFFFFFE)
    ∧ (telegramFrame (.receiveReading 12 3 5 4 0xFFFFFE)).bind (commandOfFrame 12 · true) = some (.stationClash 1)
    ∧ commandOfFrame 1 (frameBytes 6 2 [4, 1, 4]) true = none
    ∧ frameIsError [44, 5, 0x35] true = true
    ∧ (st.hear [44, 5, 0x35] true).pending = [.receiveError [44, 5, 0x35] true] := by decide +kernel

/-- Its clause on named bits: a PRESENCE and a CLEAR_ATTENTION with no other bit set; and telegrams without such fields. -/
theorem test_named_bits_witnesses : OnlyNamedBits (.receivePresence 2 ⟨1, 1, 5, 256, 1, 0, 1, 0x1FF⟩)
    ∧ OnlyNamedBits (.clearAttention ⟨4, 1, 7⟩ 0x1FF) ∧ OnlyNamedBits (.receiveReading 12 3 5 4 0) := by
  refine ⟨⟨?_, ?_⟩, ⟨?_, ?_⟩, ⟨?_, ?_⟩⟩ <;> intro _ _ h <;> cases h <;> decide

/-- UnnamedBitsIgnored: bytes that agree in bit 0 alone, after 6, 10, 16 and 3 bytes, the third of the 3 a 4. -/
theorem test_unnamed_bits_witnesses : (0xFF : Byte).getLsbD 0 = (1 : Byte).getLsbD 0 ∧ (0xFF : Byte) ≠ 1
    ∧ (∀ n ∈ [6, 10, 16], (List.replicate n (0 : Byte)).length = n) ∧ ([1, 7, 4] : List Byte).length = 3
    ∧ field [1, 7, 4] 2 1 = 4 ∧ ([0] : List Byte).length = 1 := by decide +kernel

/-- BusIdleOffersTheLowestQueue: nothing to offer, and a GAP before a PRESENCE. -/
theorem test_bus_idle_witnesses : st.port.state = .active ∧ st.port.onLine = none ∧ offer st = none
    ∧ (offer (withPort { state := .active, gapQ := [⟨2, 1, 1⟩], presenceQ := { entry := some ⟨1, .recording, 0, 0, 0, .running, 0⟩ } } st)).map (·.queue)
      = some .gap := by decide +kernel

def onLine (q : TxQueue) (p : Port) : State := withPort { p with state := .active, onLine := some ⟨q, []⟩ } st

/-- The end of a transmission of each queue, and of a first publication whose entry waits. -/
theorem test_transmit_witnesses : (∀ q : TxQueue, q ∈ [.time, .record, .mark, .gap, .answer, .presence] →
      (onLine q {}).port.onLine = some ⟨q, []⟩)
    ∧ (onLine .record { recordQ := [⟨someRec 1, true⟩] }).port.recordQ = ⟨someRec 1, true⟩ :: []
    ∧ ((onLine .record { recordQ := [⟨someRec 1, false⟩] }).setArch
        { outbound := [{ ownEntry .waitingPublish (some 1) with placed := true }] }).port.recordQ = ⟨someRec 1, false⟩ :: []
    ∧ (∃ e ∈ ((onLine .record { recordQ := [⟨someRec 1, false⟩] }).setArch
        { outbound := [{ ownEntry .waitingPublish (some 1) with placed := true }] }).arch.outbound,
        e.state = .waitingPublish ∧ e.placed = true ∧ e.seq = some (someRec 1).seq) := by decide

/-- R160: of three archived entries the one whose telegram was sent leaves; a telegram whose entry is gone takes none. -/
def publishedThree (sent : Nat) : State :=
  (onLine .record { recordQ := [⟨someRec sent, false⟩] }).setArch
    { outbound := [1, 2, 3].map (fun n => { ownEntry .waitingPublish (some n) with placed := true }) }

theorem test_released_entry_leaves : ∀ c ∈ [(2, [some 1, some 3]), (4, [some 1, some 2, some 3])],
    (match exec .transmitComplete (publishedThree c.1) with
      | .next t => t.arch.outbound.map (·.seq)
      | _ => []) = c.2 := by decide +kernel

/-- The GAP on the line is the origin's queued one, or the origin has one that is not. -/
theorem test_gap_sent_witnesses : (withPort { gapQ := [⟨2, 1, 5⟩], onLine := some ⟨.gap, []⟩ }
      (withOrigin { place := 0, station := 2, gap := some ⟨1, 5, .queued⟩ } st)).port.gapQ = ⟨2, 1, 5⟩ :: []
    ∧ originOf (withOrigin { place := 0, station := 2, gap := some ⟨1, 5, .queued⟩ } st) 2
      = some { place := 0, station := 2, gap := some ⟨1, 5, .queued⟩ }
    ∧ (∀ x, (some ⟨3, 5, .queued⟩ : Option Gap) = some x → x.first ≠ 1 ∨ x.phase ≠ .queued) := by
  refine ⟨by decide, by decide, ?_⟩
  intro x h
  cases h
  decide

/-- The 31st and the 32nd error in a row; 1 s of SILENT and a tick less. -/
theorem test_silent_witnesses : (onLine .answer { errorRun := 30 }).port.errorRun + 1 < 32
    ∧ 32 ≤ (onLine .answer { errorRun := 31 }).port.errorRun + 1
    ∧ (withPort { state := .silent, silentSince := 1000000 - 1024 } st).port.state = .silent
    ∧ 1024 ≤ (withPort { state := .silent, silentSince := 1000000 - 1024 } st).elapsed - (1000000 - 1024)
    ∧ (withPort { state := .silent, silentSince := 1000000 - 1023 } st).elapsed - (1000000 - 1023) < 1024 := by decide

/-! ## Witnesses: witness copies -/

theorem accounted (o : Origin) (h : o.using .reserved ≤ 2 ∧ o.using .shared ≤ 46) (p : o.place < 3)
    (c : o.staged.map (·.record.seq) = List.range' (o.held + 1) o.staged.length) :
    StagingAccounted (withOrigin o st) where
  partitions := by simp [withOrigin, State.setWit]
  places := by simpa [withOrigin, State.setWit] using p
  reservations := by simp [withOrigin, State.setWit, st, cfg]
  reserved := by simpa [withOrigin, State.setWit, st, cfg] using h.1
  shared := by simpa [withOrigin, State.setWit, st, cfg] using h.2
  consecutive := by simpa [withOrigin, State.setWit] using c

/-- Station 2 with `n` staged records, `shared` of them in shared slots. -/
def origin (n shared : Nat) : Origin := { place := 0, station := 2, staged := stagedOf n shared }

/-- ExpectedRecordIsStaged: the last shared slot free, and one reserved slot with no shared one. -/
theorem test_expected_record_witnesses :
    (StagingAccounted (withOrigin (origin 45 45) st) ∧ 0 < freeShared (withOrigin (origin 45 45) st))
    ∧ (StagingAccounted (withOrigin (origin 47 46) st) ∧ freeShared (withOrigin (origin 47 46) st) = 0
      ∧ 0 < freeReserved (withOrigin (origin 47 46) st) (origin 47 46)) :=
  ⟨⟨accounted _ (by decide +kernel) (by decide) (by decide +kernel), by decide +kernel⟩,
    ⟨accounted _ (by decide +kernel) (by decide) (by decide +kernel), by decide +kernel, by decide +kernel⟩⟩

/-- The other hypotheses of it: the record of station 2 with the number expected. -/
theorem test_record_witnesses : Hears (withOrigin (origin 47 46) st) 2
    ∧ (withOrigin (origin 47 46) st).supply.station = some .recording
    ∧ originOf (withOrigin (origin 47 46) st) (2 : BitVec 5).toNat = some (origin 47 46)
    ∧ recordKindOf (3 : BitVec 8).toNat = some .yearGeneral ∧ bodyLengthOk .yearGeneral generalBody = true
    ∧ (48 : BitVec 32).toNat = (origin 47 46).expected ∧ (withOrigin (origin 47 46) st).arch.state ≠ .fault := by
  unfold Hears; decide +kernel

/-- UnexpectedOrRefusedRecordIsNotStaged: another number, an archive in FAULT, and no slot of either pool. -/
theorem test_refused_record_witnesses : (49 : BitVec 32).toNat ≠ (origin 47 46).expected
    ∧ ((withOrigin (origin 0 0) st).setArch { state := .fault }).arch.state = .fault
    ∧ StagingAccounted (withOrigin (origin 48 46) st) ∧ freeShared (withOrigin (origin 48 46) st) = 0
    ∧ freeReserved (withOrigin (origin 48 46) st) (origin 48 46) = 0 :=
  ⟨by decide +kernel, by decide, accounted _ (by decide +kernel) (by decide) (by decide +kernel), by decide +kernel, by decide +kernel⟩

/-- The RECORDs that are ignored (R137): in CATCH_UP, of an origin that has not sent it, and of one that is not witnessed. -/
theorem test_ignored_record_witnesses : Hears (inState .catchUp st) 2 ∧ Hears st 6
    ∧ (inState .catchUp st).supply.station ≠ some .recording ∧ (2 : BitVec 8).toNat ≠ (6 : BitVec 5).toNat
    ∧ (6 : BitVec 8).toNat = (6 : BitVec 5).toNat ∧ originOf st (6 : BitVec 8).toNat = none := by
  unfold Hears; decide

/-- The MARKs and GAPs that are ignored (R147, R142): in TIME_UNSET, of a source, and without an entry of the part, of 3
entries; in CATCH_UP, and to another recorder. -/
theorem test_ignored_mark_and_gap_witnesses : ¬ CatchingUpOrRecording unset ∧ Hears unset 2 ∧ Hears st 3
    ∧ stationKind st.cfg (3 : BitVec 5).toNat ≠ .recorder
    ∧ (∀ x ∈ List.replicate 3 (⟨2, 0, 0⟩ : MarkEntry), x.origin.toNat ≠ st.cfg.own)
    ∧ (List.replicate 3 (⟨2, 0, 0⟩ : MarkEntry)).length ≤ 3
    ∧ (inState .catchUp st).supply.station ≠ some .recording ∧ (2 : BitVec 8).toNat ≠ st.cfg.own := by
  unfold CatchingUpOrRecording Hears; decide

/-- The state after a RECORD of station 2 with this number. -/
def afterRecord (seq : BitVec 32) (s : State) : State :=
  match exec (.receiveRecord 2 ⟨3, 2, seq, 0, false⟩ generalBody) s with
  | .next t => t
  | _ => s

/-- Station 2 with one staged record, and nine archived as far as is known: 2 is the number expected. -/
def behind (g : Option Gap) : Origin := { origin 1 1 with known := 9, gap := g }

/-- The hypotheses of the GAP clauses of both: a GAP of the number expected alone, one that goes on after it, and none. -/
theorem test_gap_clause_witnesses : StagingAccounted (withOrigin (behind (some ⟨2, 1, .sent 0⟩)) st)
    ∧ (behind none).expected = 2 ∧ (2 : Nat) + 1 ≤ (behind (some ⟨2, 1, .sent 0⟩)).expected + 1
    ∧ (behind (some ⟨2, 2, .sent 0⟩)).expected + 1 < 2 + 2 ∧ (behind none).gap = none
    ∧ 1 ≤ freeShared (withOrigin (behind none) st) + freeReserved (withOrigin (behind none) st) (behind none) - 1
    ∧ ¬ WaitsForRoom (behind none) ∧ (withPort { gapQ := List.replicate 2 ⟨6, 1, 1⟩ } st).port.gapQ.length = 2 :=
  ⟨accounted _ (by decide) (by decide) (by decide), by decide, by decide, by decide, rfl, by decide,
    by rintro ⟨g, n, h, -⟩; exact Option.noConfusion rfl (heq_of_eq h), by decide⟩

/-- R141 by hand: record 2 answers the GAP of 2 alone, and the next one is of 3 to 9; it does not answer that of 2 and 3;
without a GAP record 9 makes one of 2 to 9, which waits while the queue is full. -/
theorem test_record_and_gap :
    (afterRecord 2 (withOrigin (behind (some ⟨2, 1, .sent 0⟩)) st)).wit.origins.map (·.gap) = [some ⟨3, 7, .queued⟩]
    ∧ (afterRecord 2 (withOrigin (behind (some ⟨2, 1, .sent 0⟩)) st)).port.gapQ = [⟨2, 3, 7⟩]
    ∧ (afterRecord 2 (withOrigin (behind (some ⟨2, 2, .sent 0⟩)) st)).wit.origins.map (·.gap) = [some ⟨2, 2, .sent 0⟩]
    ∧ (afterRecord 9 (withOrigin (behind none) st)).wit.origins.map (·.gap) = [some ⟨2, 8, .queued⟩]
    ∧ (afterRecord 9 (withOrigin (behind none) (withPort { state := .active, gapQ := List.replicate 2 ⟨6, 1, 1⟩, ticket := 5 } st))).wit.origins.map
      (·.gap) = [some ⟨2, 8, .waiting 5⟩] := by decide +kernel

/-- R147: seven stations a tick short of 10 minutes old and an eighth that reports; and one of the seven a tick older. -/
def sevenMarks (oldest : Nat) : State :=
  st.setWit { st.wit with
    marks := ⟨30, 1, 1000000 - oldest⟩ :: (List.range 6).map (fun i => ⟨i + 10, 1, 1000000 - 614399⟩) }

theorem test_eighth_station :
    7 ≤ ((sevenMarks 614399).wit.marks.filter (fun m => decide ((sevenMarks 614399).elapsed - m.at_ < 614400))).length
    ∧ (∀ m ∈ (sevenMarks 614399).wit.marks, m.station ≠ (2 : BitVec 5).toNat)
    ∧ (ownMark 2 5 (sevenMarks 614399)).wit.marks = (sevenMarks 614399).wit.marks
    ∧ ((sevenMarks 614400).wit.marks.filter (fun m => decide ((sevenMarks 614400).elapsed - m.at_ < 614400))).length < 7
    ∧ (ownMark 2 5 (sevenMarks 614400)).wit.marks.map (·.station) = [10, 11, 12, 13, 14, 15, 2] := by decide

/-- MarkUpdatesTableAndSecuredMark: an empty table, and a full one that holds the sender's entry, a tick short of
10 minutes old; one report in the table with a quorum of 1, of 0, and of 2. -/
theorem test_mark_witnesses : Hears st 2 ∧ CatchingUpOrRecording st ∧ stationKind st.cfg (2 : BitVec 5).toNat = .recorder
    ∧ [(⟨1, 5, 1⟩ : MarkEntry)].find? (fun x => x.origin.toNat == st.cfg.own) = some ⟨1, 5, 1⟩ ∧ st.wit.marks.length < 7
    ∧ (∃ m ∈ (List.range 7).map (fun i => (⟨i + 2, 1, 1000000 - 614399⟩ : WitnessMark)),
        m.station = (2 : BitVec 5).toNat ∧ 1000000 - m.at_ < 614400)
    ∧ 1 ≤ st.cfg.quorum ∧ st.cfg.quorum ≤ [(⟨2, 5, 1000000⟩ : WitnessMark)].length
    ∧ [(⟨2, 5, 1000000⟩ : WitnessMark)].length < 2 := by
  unfold Hears CatchingUpOrRecording; decide

/-- R149: a lag of 96 records to the record, of 95, and one that the time since SCAN hides for another tick. -/
theorem test_lag_witnesses : (ownMark 2 4 (st.setArch { latest := 100 })).retr.flags = 0x20
    ∧ (ownMark 2 5 (st.setArch { latest := 100 })).retr.flags = 0
    ∧ (ownMark 2 4 ((st.setArch { latest := 100 }).setWit { lagHoldoff := some (1000000 - 614399) })).retr.flags = 0 := by
  decide

/-- SecuredMarkNeverDecreasesBetweenColdStarts: a report of 4 with 5 records archived; the mark rises to it. -/
theorem test_secured_witness : (∀ svc, Instr.receiveMark 2 [⟨1, 4, 1⟩] ≠ .coldStart svc)
    ∧ ∃ t, exec (.receiveMark 2 [⟨1, 4, 1⟩]) (st.setArch { latest := 5 }) = .next t ∧ t.wit.secured = 4 := by
  refine ⟨by intro _; exact Instr.noConfusion, _, rfl, ?_⟩
  decide

def backfilling (jobs : List Backfill) : State :=
  ((st.setWit { st.wit with jobs := jobs }).setArch { latest := 20, lastAssigned := 20, op := .erasing .own 3 })

/-- GapIsAbsorbedQueuedOrDropped: what is ignored, absorbed, dropped, queued behind another, and worked at once. -/
theorem test_gap_witnesses : Hears st 2 ∧ (1 : BitVec 8).toNat = st.cfg.own
    ∧ ¬ (1 ≤ (0 : BitVec 32).toNat) ∧ ¬ ((17 : BitVec 8).toNat ≤ 16) ∧ ¬ ((21 : BitVec 32).toNat ≤ min (21 + 1 - 1) 20)
    ∧ (1 ≤ (5 : BitVec 32).toNat ∧ 1 ≤ (16 : BitVec 8).toNat ∧ (16 : BitVec 8).toNat ≤ 16 ∧ (5 : BitVec 32).toNat ≤ min (5 + 16 - 1) (backfilling []).arch.latest)
    ∧ (∃ j ∈ (backfilling [⟨5, 20⟩]).wit.jobs, j.next ≤ 5 ∧ min (5 + 16 - 1) 20 ≤ j.last)
    ∧ 4 ≤ (backfilling (List.replicate 4 ⟨1, 1⟩)).wit.jobs.length
    ∧ ¬ (∃ j ∈ (backfilling (List.replicate 3 ⟨1, 1⟩)).wit.jobs, j.next ≤ 5 ∧ min (5 + 16 - 1) 20 ≤ j.last)
    ∧ (backfilling (List.replicate 3 ⟨1, 1⟩)).wit.jobs.length < 4 ∧ (backfilling []).wit.jobs = []
    ∧ (backfilling []).arch.op ≠ .idle := by
  unfold Hears; decide

/-- The first own record archived, and nothing in flight. -/
def archivedOne : State :=
  match exec (.programComplete true)
    (st.setArch { op := .programming .own, outbound := [ownEntry .programming (some 1)], lastAssigned := 1 }) with
  | .next t => t
  | _ => st

set_option maxRecDepth 100000 in
/-- GapIsAbsorbedQueuedOrDropped, the job that is served at once: its record is there, or it is not. -/
theorem test_gap_at_once_witnesses : archivedOne.wit.jobs = [] ∧ archivedOne.arch.op = .idle ∧ archivedOne.arch.requests = []
    ∧ archivedOne.arch.latest = 1 ∧ readRecord archivedOne .own 1 = some (⟨.yearGeneral, 1, 1, 0, generalBody⟩ : Rec)
    ∧ (st.setArch { latest := 1 }).arch.op = .idle ∧ readRecord (st.setArch { latest := 1 }) .own 1 = none := by
  decide +kernel

/-- PresenceMovesTheFloorAndMayJump: a floor at the expected number, and one above it. -/
theorem test_presence_witnesses : Hears (withOrigin (origin 3 3) st) 2 ∧ CatchingUpOrRecording (withOrigin (origin 3 3) st)
    ∧ originOf (withOrigin (origin 3 3) st) (2 : BitVec 5).toNat = some (origin 3 3)
    ∧ (4 : BitVec 32).toNat ≤ (origin 3 3).expected ∧ (origin 3 3).expected < (5 : BitVec 32).toNat
    ∧ (withOrigin (origin 3 3) st).arch.op ≠ .programming (.part (origin 3 3).place) := by
  unfold Hears CatchingUpOrRecording; decide +kernel

/-- The same with a program of the origin in flight, and a station that is no origin. -/
theorem test_presence_waits_witnesses : Hears (withOp (.programming (.part 0)) (withOrigin (origin 3 3) st)) 2
    ∧ CatchingUpOrRecording (withOp (.programming (.part 0)) (withOrigin (origin 3 3) st))
    ∧ (withOp (.programming (.part 0)) (withOrigin (origin 3 3) st)).arch.op = .programming (.part (origin 3 3).place)
    ∧ Hears st 4 ∧ originOf st (4 : BitVec 5).toNat = none := by
  unfold Hears CatchingUpOrRecording; decide +kernel

/-- The clauses of the GAP test after a PRESENCE: the origin accounted for, without a GAP and with one, in RECORDING. -/
theorem test_presence_gap_witnesses : StagingAccounted (withOrigin (origin 3 3) st) ∧ (origin 3 3).gap = none
    ∧ StagingAccounted (withOrigin (behind (some ⟨2, 2, .queued⟩)) st) ∧ (behind (some ⟨2, 2, .queued⟩)).gap ≠ none
    ∧ (withOrigin (origin 3 3) st).supply.station = some .recording :=
  ⟨accounted _ (by decide) (by decide) (by decide), rfl, accounted _ (by decide) (by decide) (by decide), by decide, rfl⟩

/-- R170 by hand: a floor of 5 while the FOLLOW job of terminal 4 waits for record 4 of station 2 leaves nothing held up to
4, so that the job answers NOT_HELD. -/
theorem test_jump_wakes_follow :
    (match exec (.receivePresence 2 ⟨1, 1, 5, 9, 5, 0, 1, 0⟩) ((withOrigin (origin 3 3) st).setRetr
        { jobs := [{ job 4 0 with origin := 2, next := 4, work := .waiting }] }) with
      | .next t => t.retr.jobs.map (·.work)
      | _ => []) = [.ready (.notHeld 2 4) true 0] := by decide +kernel

/-- The FOLLOW job of terminal 4 on station 2, at its record 1. -/
def following (w : JobWork) (s : State) : State :=
  s.setRetr { jobs := [{ job 4 0 with origin := 2, next := 1, work := w }] }

/-- PresenceSendPlacesPresenceAndMark: with a witness set and without one. -/
theorem test_presence_send_witnesses : (due { presence := true }).supply.station = some .recording
    ∧ (due { presence := true }).tb.dues.presence = true ∧ (due { presence := true }).port.state ≠ .off
    ∧ isOnLine (due { presence := true }).port .presence = false ∧ isOnLine (due { presence := true }).port .mark = false
    ∧ witnessed (due { presence := true }).cfg ≠ [] ∧ witnessed ((due { presence := true }).setCfg {}).cfg = [] := by decide

/-- The same with an entry of each queue on the line, where the newer telegram is held aside. -/
def presenceOnLine (q : TxQueue) : State :=
  withPort {
    state := .active, onLine := some ⟨q, []⟩, markQ := { entry := some [] }
    presenceQ := { entry := some ⟨1, .recording, 0, 0, 0, .running, 0⟩ } } (due { presence := true })

theorem test_presence_aside_witnesses : isOnLine (presenceOnLine .presence).port .presence = true
    ∧ (presenceOnLine .presence).port.presenceQ.entry ≠ none ∧ isOnLine (presenceOnLine .mark).port .mark = true
    ∧ (presenceOnLine .mark).port.markQ.entry ≠ none ∧ (presenceOnLine .mark).tb.dues.presence = true
    ∧ (presenceOnLine .mark).supply.station = some .recording := by decide

/-- Three in the RECORD queue, an entry to release, a backfill ready, and both in the order of waiting. -/
def producers (release backfill : Nat) : State :=
  (((withPort { state := .active, recordQ := List.replicate 3 ⟨someRec 1, true⟩ } st).setArch
    { outbound := [ownEntry .waitingPublish (some 1)], releaseTicket := some release }).setWit
    { st.wit with work := .ready (someRec 1) backfill })

theorem test_producers_witnesses : CatchingUpOrRecording (producers 3 4) ∧ (producers 3 4).port.recordQ.length < 4
    ∧ (producers 3 4).arch.outbound.find? (fun x => x.state == .waitingPublish && !x.placed) = some (ownEntry .waitingPublish (some 1))
    ∧ (producers 3 4).arch.releaseTicket = some 3 ∧ (producers 3 4).wit.work = .ready (someRec 1) 4 ∧ 3 ≤ 4
    ∧ (producers 4 4).wit.work = .ready (someRec 1) 4 ∧ (producers 4 4).arch.releaseTicket = some 4 := by
  unfold CatchingUpOrRecording; decide

/-- The queue of the outbound records split at the entry to release, in TIME_UNSET and with a placed one before it; a backfill
job at its last sequence with another behind it, and one that goes on (R143, R160). -/
def releasing : State :=
  (inState .timeUnset (producers 3 4)).setArch
    { releaseTicket := some 3
      outbound := { ownEntry .waitingPublish (some 1) with placed := true } :: [2, 3].map (fun n => ownEntry .waitingPublish (some n)) }

theorem test_release_and_backfill_witnesses :
    releasing.arch.outbound = [{ ownEntry .waitingPublish (some 1) with placed := true }]
      ++ ownEntry .waitingPublish (some 2) :: [ownEntry .waitingPublish (some 3)]
    ∧ releasing.supply.station = some .timeUnset ∧ releasing.arch.releaseTicket = some 3
    ∧ (placeRelease (ownEntry .waitingPublish (some 2)) releasing).arch.outbound.map (·.placed) = [true, true, false]
    ∧ (advanceBackfill ((producers 4 4).setWit { jobs := [⟨5, 5⟩, ⟨8, 9⟩] })).arch.requests = [⟨.backfill, .own, 8⟩]
    ∧ (advanceBackfill ((producers 4 4).setWit { jobs := [⟨5, 6⟩] })).wit.jobs = [⟨6, 6⟩]
    ∧ (advanceBackfill ((producers 4 4).setWit { jobs := [⟨5, 5⟩] })).wit.work = .idle := by decide

def gapOf (p : GapPhase) : Origin := { place := 0, station := 2, known := 5, gap := some ⟨1, 5, p⟩ }

theorem test_gap_place_witness : originOf (withOrigin (gapOf (.waiting 6)) st) (2 : BitVec 5).toNat = some (gapOf (.waiting 6))
    ∧ (withPort { state := .active, gapQ := [⟨2, 1, 1⟩] } st).port.gapQ.length < 2
    ∧ (withOrigin (gapOf (.waiting 6)) st).supply.station ≠ none ∧ (withOrigin (gapOf (.waiting 6)) st).supply.station ≠ some .hold
    ∧ (∀ m ∈ gapTickets (withOrigin (gapOf (.waiting 6)) st), 6 ≤ m) := by decide

/-- WitnessExpiriesEndWhatIsOld: 10 s to the tick, and 10 minutes to the tick. -/
theorem test_expiry_witnesses : originOf (withOrigin (gapOf (.sent (1000000 - 10240))) st) (2 : BitVec 5).toNat
      = some (gapOf (.sent (1000000 - 10240)))
    ∧ 1000000 - 10240 + 10240 ≤ st.elapsed
    ∧ (st.setWit { st.wit with lagHoldoff := some (1000000 - 614400) }).wit.lagHoldoff = some (1000000 - 614400)
    ∧ 614400 ≤ st.elapsed - (1000000 - 614400) ∧ st.elapsed - (1000000 - 614399) < 614400 ∧ st.wit.lagHoldoff = none
    ∧ st.elapsed < 1000000 - 10239 + 10240 ∧ st.supply.station ≠ none := by decide

/-- The hypotheses and the clauses of a GAP's expiry: wanted again with room and with a full queue, not wanted in HOLD, and
an origin that has no GAP sent. -/
theorem test_gap_expiry_witnesses : StagingAccounted (withOrigin (gapOf (.sent (1000000 - 10240))) st)
    ∧ (gapOf (.sent (1000000 - 10240))).expected ≤ (gapOf (.sent (1000000 - 10240))).known
    ∧ 1 ≤ freeShared (withOrigin (gapOf (.sent (1000000 - 10240))) st)
    ∧ gapTickets (withOrigin (gapOf (.sent (1000000 - 10240))) st) = [] ∧ st.port.gapQ.length < 2
    ∧ (∀ y ∈ (withOrigin (gapOf (.sent (1000000 - 10240))) st).wit.origins, ¬ y.place < 0)
    ∧ 2 ≤ (withPort { gapQ := List.replicate 2 ⟨6, 1, 1⟩ } st).port.gapQ.length
    ∧ (inState .hold st).supply.station ≠ some .recording
    ∧ (gapOf .queued).gap = some ⟨1, 5, .queued⟩ ∧ (∀ n, GapPhase.queued ≠ .sent n) :=
  ⟨accounted _ (by decide) (by decide) (by decide), by decide, by decide, by decide, by decide, by decide, by decide,
    by decide, rfl, by intro n; exact GapPhase.noConfusion⟩

/-- R179: in reset the three expiries change nothing, whatever is old. -/
def oldInReset : State :=
  (State.reset.setElapsed 1000000).setWit
    { origins := [{ place := 0, station := 2, known := 5, gap := some ⟨1, 5, .sent 0⟩ }], marks := [⟨2, 1, 0⟩], lagHoldoff := some 0 }

theorem test_no_expiry_in_reset : oldInReset.supply.station = none ∧ exec (.gapExpiry 2) oldInReset = .next oldInReset
    ∧ exec (.markEntryExpiry 2) oldInReset = .next oldInReset ∧ exec .witnessLagHoldoffEnd oldInReset = .next oldInReset
    ∧ (tick (withTime { plant := some (120 * 1024), closed := some 0, state := .frozen } State.reset)).tb.state = .frozen :=
  ⟨rfl, rfl, rfl, rfl, by decide⟩

/-! ## Witnesses: the archive -/

/-- An own record being programmed, its page empty, two failures before it. -/
def programmingOwn : State :=
  st.setArch { op := .programming .own, outbound := [ownEntry .programming (some 1)], lastAssigned := 1, failureRun := 2 }

theorem test_program_witness : FlashCanonical programmingOwn ∧ programmingOwn.arch.op = .programming .own
    ∧ programmingOwn.arch.outbound.find? (fun x => x.state == .programming) = some (ownEntry .programming (some 1))
    ∧ (ownEntry .programming (some 1)).seq = some 1 ∧ (ownEntry .programming (some 1)).body.length ≤ 224
    ∧ 2 ≤ programmingOwn.arch.failureRun ∧ programmingOwn.arch.state ≠ .fault := by
  unfold FlashCanonical; decide

/-- GoodProgramsArchiveTheirRecords: the first record of the open year, and one of an earlier year or a later record; a
number at which the lag is 96, and one at which it is 95. -/
theorem test_own_program_witnesses : programmingOwn.wit.yearStart = none
    ∧ programmingOwn.year.openYear = some (yearOf (ownEntry .programming (some 1)).start)
    ∧ (programmingOwn.setYear { st.year with openYear := some 2001 }).year.openYear ≠ some (yearOf 0)
    ∧ (programmingOwn.setWit { yearStart := some 1 }).wit.yearStart ≠ none
    ∧ programmingOwn.wit.lagHoldoff = none ∧ 0 < programmingOwn.cfg.quorum ∧ programmingOwn.wit.secured + 96 ≤ 96
    ∧ ¬ programmingOwn.wit.secured + 96 ≤ 95 := by decide

/-- The head staged record of station 2 being programmed, with a floor that waits for it, or one that does not. -/
def programmingPart (floor failures : Nat) : State :=
  (withOrigin { origin 3 3 with floor := floor } st).setArch { op := .programming (.part 0), failureRun := failures }

theorem test_part_program_witness : FlashCanonical (programmingPart 4 2) ∧ StagingAccounted (programmingPart 4 2)
    ∧ (programmingPart 4 2).arch.op = .programming (.part 0) ∧ 0 < (programmingPart 4 2).arch.parts.length
    ∧ originAt (programmingPart 4 2) 0 = some { origin 3 3 with floor := 4 }
    ∧ (origin 3 3).staged = ⟨someRec 1, .shared⟩ :: [⟨someRec 2, .shared⟩, ⟨someRec 3, .shared⟩]
    ∧ (someRec 1).body.length ≤ 224 ∧ 4 ≤ 0 + 2 + 2 ∧ 0 + 2 + 2 < 5 ∧ 4 ≤ (origin 3 3).expected
    ∧ 2 ≤ (programmingPart 4 2).arch.failureRun ∧ (programmingPart 4 2).arch.state ≠ .fault := by
  refine ⟨by unfold FlashCanonical; decide, ?_, by decide, by decide, by decide, by decide, by decide, by decide, by decide,
    by decide, by decide, by decide⟩
  have h := accounted { origin 3 3 with floor := 4 } (by decide) (by decide) (by decide)
  exact ⟨h.partitions, h.places, h.reservations, h.reserved, h.shared, h.consecutive⟩

/-- ErasesClearTheirSectorOrAreCounted: the last sector of the own ring and of a partition, a first and a second failure,
and a sector whose records an abandoned erase has taken. -/
def erasingPart (oldest : Option Nat) (r : Ring) : State :=
  (withOrigin { place := 0, station := 2, held := 40, oldest := oldest } st).setArch
    { op := .erasing (.part 0) 3071, parts := [r, {}, {}] }

theorem test_erase_witness : (withOp (.erasing .own 7166) st).arch.op = .erasing .own 7166
    ∧ (erasingPart (some 5) { broken := some (3071, 20) }).arch.op = .erasing (.part 0) 3071
    ∧ 0 < (erasingPart (some 5) { broken := some (3071, 20) }).arch.parts.length
    ∧ originAt (erasingPart (some 5) {}) 0 = some { place := 0, station := 2, held := 40, oldest := some 5 }
    ∧ FlashCanonical (erasingPart (some 5) { failTarget := 3071, eraseFails := 1 })
    ∧ (if (0 : Nat) = 3071 then 1 else 0) + 1 < 2 ∧ 2 ≤ (if (3071 : Nat) = 3071 then 1 else 0) + 1 := by
  unfold FlashCanonical; decide

/-- R138: the good erase after an abandoned one raises oldest held past what the sector held before it, and one of a
sector that held nothing does not; and the note is then gone. -/
theorem test_oldest_after_broken_erase :
    (∀ n ∈ [(20, 21), (3, 5)], (areaEraseEnd (.part 0) 3071 true (erasingPart (some 5) { broken := some (3071, n.1) })).wit.origins.map (·.oldest)
      = [some n.2])
    ∧ (areaEraseEnd (.part 0) 3071 true (erasingPart (some 5) { broken := some (7, 20) })).wit.origins.map (·.oldest) = [some 5]
    ∧ (areaEraseEnd (.part 0) 3071 true (erasingPart (some 5) { broken := some (3071, 20) })).arch.parts.map (·.broken)
      = [none, none, none] := by decide +kernel

/-- The queue of the outbound records split at the entry that is programmed; a floor above the number expected while a
program fails (R139, R157). -/
theorem test_program_end_witnesses : programmingOwn.arch.outbound = [] ++ ownEntry .programming (some 1) :: []
    ∧ (ownProgramEnd false programmingOwn).arch.outbound.map (fun e => (e.seq, e.state)) = [(some 1, .waitingArchive)]
    ∧ (ownProgramEnd true programmingOwn).arch.outbound.map (fun e => (e.seq, e.state)) = [(some 1, .waitingPublish)]
    ∧ { origin 3 3 with floor := 5 }.expected < 5
    ∧ (partProgramEnd 0 false (programmingPart 5 0)).year.day = { defective := 1, skips := 4 } := by decide +kernel

/-- An own ring at the first page of a sector of this year, which the ring would have to erase, with a record that waits. -/
def ringAt (x : ArchiveState) (openYear : Nat) (entries : List OutEntry) (dir : List (Nat × DirEntry)) : State :=
  ((withOrigin (origin 1 1) st).setYear { st.year with openYear := some openYear }).setArch
    { state := x, outbound := entries, lastAssigned := 9, own := { dir := dir }, roundRobin := 2 }

def yearSector : List (Nat × DirEntry) := [(0, { state := .full, firstYear := some 2000, lastYear := some 2000 })]

/-- What a flash-idle event starts (R153, R157, R161, R162): the own erase when it is allowed, else with the erase barred the
head staged record; the own program, with a new number and with the one it has; and in RING_FULL and FAULT. -/
theorem test_operation_starts :
    EraseNeeded .own (ringAt .ready 2002 [] yearSector).arch.own 0
    ∧ (flashIdle (ringAt .ready 2002 [ownEntry .waitingArchive none] yearSector)).arch.op = .erasing .own 0
    ∧ OwnEraseBarred (ringAt .ready 2001 [] yearSector)
    ∧ (flashIdle (ringAt .ready 2001 [ownEntry .waitingArchive none] yearSector)).arch.op = .programming (.part 0)
    ∧ (∀ k, ¬ EraseNeeded .own (ringAt .ready 2000 [] []).arch.own k)
    ∧ (flashIdle (ringAt .ready 2000 [ownEntry .waitingArchive none] [])).arch.lastAssigned = 10
    ∧ (flashIdle (ringAt .ready 2000 [ownEntry .waitingArchive (some 9)] [])).arch.outbound.map (·.seq) = [some 9]
    ∧ (flashIdle (ringAt .ready 2000 [] [])).arch.op = .programming (.part 0)
    ∧ (flashIdle (ringAt .ringFull 2000 [ownEntry .waitingArchive none] [])).arch.roundRobin = 0
    ∧ (flashIdle (ringAt .fault 2000 [ownEntry .waitingArchive none] [])).arch.op = .idle :=
  ⟨(eraseNeed_iff _ _ _).1 (by decide), by decide +kernel, (ownEraseForbidden_iff _).1 (by decide), by decide +kernel,
    (eraseNeed_none _ _).1 (by decide), by decide +kernel, by decide +kernel, by decide +kernel, by decide +kernel,
    by decide +kernel⟩

/-- The work of a partition: its head staged record, or the erase that its ring needs first (R153). -/
theorem test_part_work : PartWork (ringAt .ready 2000 [] []) 0 (.programming (.part 0))
    ∧ (∀ x, ¬ PartWork (ringAt .ready 2000 [] []) 1 x)
    ∧ PartWork ((ringAt .ready 2000 [] []).setArch { parts := [{ dir := yearSector }, {}, {}] }) 0 (.erasing (.part 0) 0) := by
  refine ⟨(partWork_iff _ _ _).1 (by decide), ?_, (partWork_iff _ _ _).1 (by decide)⟩
  intro x h
  have e := (partWork_iff _ _ _).2 h
  rw [(by decide : partWork (ringAt .ready 2000 [] []) 1 = none)] at e
  cases e

/-- R162: RING_FULL is entered with ARCHIVE raised, and left in the year in which the sector is retained no more. -/
theorem test_ring_full : (retentionTest (ringAt .ready 2001 [] yearSector)).arch.state = .ringFull
    ∧ flagSet (retentionTest (ringAt .ready 2001 [] yearSector)) .archive = true
    ∧ (retentionTest (ringAt .ringFull 2002 [] yearSector)).arch.state = .ready
    ∧ ownEraseForbidden (ringAt .ringFull 2002 [] yearSector) = false := by decide

/-- PageOfARecordReadsBackAsIt: a record at the ends of its fields. -/
theorem test_page_witness : (255 : Nat) < 256 ∧ (4294967295 : Nat) < 4294967296
    ∧ bodyLengthOk (⟨.yearGeneral, 255, 4294967295, 4294967295, generalBody⟩ : Rec).kind generalBody = true := by decide

/-- Records whose fields fit their bodies: a slot entry INVALID with a mass, and a day entry VALID. -/
def fittingHalfHour : HalfHour where
  start := 0
  counts := { firing := 30 }
  disturbed := 255
  runAtClose := 16777215
  h2oSubst := 0
  o2Clamped := 0
  o2Avg := some 65535
  h2oAvg := none
  fstop := true
  entries := [{ slot := 15, status := .invalid, cause := some .hold, validMinutes := 19, mass := some 1099511627775 },
    { slot := 0, status := .valid, validMinutes := 30, raw := some (-8388608), validated := some 16777215, massSubst := true }]

def fittingDay : DayRecord :=
  { start := 0, operating := 48, counters := { clockSteps := 4294967295 }
    entries := [{ slot := 15, status := .valid, average := some 16777215, valid := 48, invalid := 0, aExceed := 48, exceeded := true }] }

theorem test_fits_witnesses : HalfHourFits fittingHalfHour ∧ DayFits fittingDay := by
  simp [HalfHourFits, DayFits, fittingHalfHour, fittingDay, MinuteCounts.toList, Counters.toList]

/-- R70, R79, 7.7.4: those records read back as they are. -/
theorem test_bodies_read_back : halfHourOf 0 (halfHourBody fittingHalfHour) = fittingHalfHour
    ∧ dayOf 0 (dayBody fittingDay) = fittingDay := by decide +kernel

/-- Every list at its capacity, a record secured, one archived, one being programmed and one waiting. -/
def full : State :=
  (((((withOrigin (origin 48 46) st).setArch
    { op := .programming .own, lastAssigned := 15, latest := 14
      outbound := (List.range 14).map (fun i => ownEntry .waitingPublish (some (i + 1)))
        ++ [ownEntry .programming (some 15), ownEntry .waitingArchive none] }).setWit
    { origins := [origin 48 46], jobs := List.replicate 4 ⟨1, 1⟩, marks := (List.range 7).map (fun i => ⟨i + 2, 5, 0⟩), secured := 14 }).setTb
    { st.tb with
      catchUp := true, gaps := [⟨43140, .powerLoss⟩, ⟨43200, .hold⟩]
      peers := (List.range 31).map (fun i => ⟨i + 1, 0, 0⟩) }).setPort
    { state := .active, recordQ := List.replicate 4 ⟨someRec 1, true⟩, gapQ := List.replicate 2 ⟨2, 1, 1⟩
      answerQ := List.replicate 4 ⟨4, 7, .busy⟩ }).setRetr
    { jobs := [job 4 0, job 5 0], answers := List.replicate 4 ⟨4, 7, .busy, 0⟩ }

theorem test_capacities_witness : WithinCapacities full where
  recordQueue := by decide
  gapQueue := by decide
  answerQueue := by decide
  backfillJobs := by decide
  markTable := by decide
  retrievalJobs := by decide
  pendingAnswers := by decide
  outboundQueue := by decide
  gapList := by decide
  gapListEmpty := by decide
  gapListFull := by decide
  backfillRanges := by decide
  jobTerminals := by decide
  requesters := by intro q h; cases h
  peerTable := by decide
  peerStations := by decide +kernel
  peerNumbers := by decide +kernel

theorem test_sequence_witness : SequenceOrder full where
  secured := by decide
  latest := by decide
  younger := by decide
  oldest := by
    intro e h q hq
    cases (Option.some.inj h : ownEntry .programming (some 15) = e)
    cases (Option.some.inj hq : 15 = q)
    decide
  programming := by
    intro e h _
    cases (Option.some.inj h : ownEntry .programming (some 15) = e)
    decide
  distinct := by decide +kernel
  assigned := by
    have h : ∀ e ∈ full.arch.outbound, (e.seq.getD 0) ≤ full.arch.lastAssigned := by decide +kernel
    intro e m q hq
    simpa [hq] using h e m
  commission := by decide

/-- The step that the four invariants speak of goes on from such states: on an empty queue it is a tick. -/
theorem test_step_witness : step full = .next (tick full) ∧ step (withOrigin (origin 48 46) st) = .next (tick (withOrigin (origin 48 46) st))
    ∧ FlashCanonical programmingOwn ∧ step programmingOwn = .next (tick programmingOwn) := ⟨rfl, rfl, by unfold FlashCanonical; decide, rfl⟩

theorem test_staging_witness : StagingAccounted (withOrigin (origin 48 46) st) :=
  accounted _ (by decide +kernel) (by decide) (by decide +kernel)

/-! ## Witnesses: retrieval -/

def withJobs (l : List Job) (s : State) : State := s.setRetr { s.retr with jobs := l }

theorem test_takes_query : TakesQuery st (head 4) := by unfold TakesQuery Hears; decide

/-- ReadsAreAdmittedBusyOrRefused: an origin that is not held, two jobs of others, the terminal's own job, and room. -/
theorem test_read_witnesses : areaOf st (9 : BitVec 8).toNat = none ∧ areaOf st (1 : BitVec 8).toNat ≠ none
    ∧ areaOf st (2 : BitVec 8).toNat ≠ none ∧ TakesQuery (withJobs [job 5 0, job 7 0] st) (head 4)
    ∧ (withJobs [job 5 0, job 7 0] st).retr.jobs.any (fun j => j.terminal == (4 : BitVec 5).toNat) = false
    ∧ 2 ≤ (withJobs [job 5 0, job 7 0] st).retr.jobs.length
    ∧ (withJobs [job 5 0, job 4 0] st).retr.jobs.any (fun j => j.terminal == (4 : BitVec 5).toNat) = true
    ∧ (withJobs [job 5 0] st).retr.jobs.length < 2 ∧ unset.supply.station = some .timeUnset := by
  unfold TakesQuery Hears; decide

/-- The premise on the read requests: without any, and with the read of a job that stands. -/
theorem test_requester_witnesses : (∀ q ∈ (withJobs [job 5 0] st).arch.requests, ∀ t, q.who = .job t → False)
    ∧ ∀ q ∈ [(⟨.job 5, .own, 1⟩ : Request)], ∀ t, q.who = .job t → ∃ j ∈ (withJobs [job 5 0] st).retr.jobs, j.terminal = t := by
  constructor
  · intro q h
    cases h
  · intro q h t e
    cases List.mem_singleton.mp h
    exact ⟨job 5 0, by simp [withJobs], Requester.job.inj e⟩

/-- R169: sectors of 16 records from 1, 17, 33 and 49 on, the year 2001 beginning in the third; two defective pages less
and the range moves back one sector more, until 10 record pages are taken; it ends at the highest that S holds. -/
def yearSectors (records : Nat) : List (Nat × DirEntry) :=
  [(0, { firstSeq := some 1, firstYear := some 2000, lastYear := some 2000, records := 16, highSeq := some 16 }),
    (1, { firstSeq := some 17, firstYear := some 2000, lastYear := some 2000, records := records, highSeq := some 32 }),
    (2, { firstSeq := some 33, firstYear := some 2000, lastYear := some 2001, records := 16, highSeq := some 48 }),
    (3, { firstSeq := some 60, firstYear := some 2002, lastYear := some 2002, records := 16, highSeq := some 75 })]

theorem test_year_range : yearRange 2001 (yearSectors 10) = some (17, 48) ∧ yearRange 2001 (yearSectors 9) = some (1, 48)
    ∧ yearRange 2003 (yearSectors 16) = none ∧ yearRange 1999 (yearSectors 16) = none := by decide

/-- UntakenQueryIsRefusedOrDropped: CATCH_UP, RECORDING, another recorder's query, and a full answer list. -/
theorem test_untaken_witnesses : Hears (inState .catchUp st) (head 4).terminal ∧ answersHeld (inState .catchUp st) < 4
    ∧ (inState .catchUp st).supply.station ≠ some .timeUnset ∧ (inState .catchUp st).supply.station ≠ some .recording
    ∧ (inState .catchUp st).supply.station ≠ some .commission ∧ (⟨4, 2, 7⟩ : QueryHead).target.toNat ≠ st.cfg.own
    ∧ (head 4).target.toNat = st.cfg.own
    ∧ 4 ≤ answersHeld (st.setRetr { answers := List.replicate 4 ⟨4, 7, .busy, 0⟩ })
    ∧ 1 ≤ [(0 : Byte)].length ∧ (List.replicate 200 (0 : Byte)).length ≤ 200 := by
  unfold Hears; decide +kernel

/-- A pending answer with ticket 5, a job's answer with ticket 5 or 6, and three in the ANSWER queue. -/
def answering (ticket : Nat) (x : Answer) : State :=
  (withPort { state := .active, answerQ := List.replicate 3 ⟨5, 1, .busy⟩ } st).setRetr
    { jobs := [{ job 4 0 with work := .ready x false ticket }], answers := [⟨5, 1, .busy, 5⟩] }

theorem test_answer_witnesses : (answering 6 (.done 1)).port.answerQ.length < 4
    ∧ (answering 6 (.done 1)).retr.answers = ⟨5, 1, .busy, 5⟩ :: [] ∧ (answering 6 (.done 1)).supply.station ≠ none
    ∧ (answering 6 (.done 1)).supply.station ≠ some .hold
    ∧ jobOf (answering 5 (.record (someRec 1))) (4 : BitVec 5).toNat = some { job 4 0 with work := .ready (.record (someRec 1)) false 5 }
    ∧ (∀ a ∈ (answering 5 (.done 1)).retr.answers, 5 ≤ a.ticket)
    ∧ jobOf (answering 5 (.done 1)) (4 : BitVec 5).toNat = some { job 4 0 with work := .ready (.done 1) false 5 } := by decide

/-- A read of a FOLLOW job that waits, and one of a READ_YEAR job that passes over the sequence 1. -/
def reading (k : JobKind) : State :=
  (withJobs [{ job 4 0 with kind := k, next := 1, last := some 3, work := .reading }] archivedOne).setArch
    { archivedOne.arch with requests := [⟨.job 4, .own, 1⟩] }

theorem test_reading_witnesses : (reading .follow).arch.requests ≠ [] ∧ (reading .follow).arch.op = .idle
    ∧ (reading .follow).supply.station = some .recording ∧ (∀ j ∈ (reading .follow).wit.jobs, j.next ≤ j.last)
    ∧ ((reading .follow).retr.jobs.map (·.terminal)).Nodup
    ∧ rangeOf (reading .follow) 1 = (some 1, 1) := by decide +kernel

/-- R168, R169: a READ_YEAR job of 2001 passes over a record of 2000, and one of 2000 is answered with it. -/
theorem test_year_record : yearRecord 2000 ⟨.yearGeneral, 1, 1, 0, generalBody⟩ = true
    ∧ yearRecord 2001 ⟨.yearGeneral, 1, 1, 0, generalBody⟩ = false
    ∧ (jobResult 4 none (reading (.readYear 2001))).retr.jobs.map (fun j => (j.next, j.work))
      = [(2, .ready (.done 0) false (reading .follow).port.ticket)] := by decide +kernel

set_option maxRecDepth 100000 in
/-- R168: the FOLLOW job is answered RECORD. -/
theorem test_read_served : (serveOne (reading .follow)).retr.jobs.map (·.work)
    = [.ready (.record ⟨.yearGeneral, 1, 1, 0, generalBody⟩) false (reading .follow).port.ticket] := by decide +kernel

set_option maxRecDepth 100000 in
/-- R170 by hand: record 1 of station 2 is programmed while a floor of 5 waits for it. The jump comes with it, the FOLLOW job
answers NOT_HELD once, for 1, and goes on at 5, the held mark plus 1, where it waits. Without the jump it is answered 1. -/
theorem test_jump_at_program_end :
    (match exec (.programComplete true) (following .waiting (programmingPart 5 0)) with
      | .next t => (t.retr.jobs.map (·.work), t.wit.origins.map (·.held),
          (afterPlaced { job 4 0 with origin := 2, next := 1 } (.notHeld 2 1) true t).retr.jobs.map (fun j => (j.next, j.work)))
      | _ => ([], [], [])) = ([.ready (.notHeld 2 1) true 0], [4], [(5, .waiting)])
    ∧ (match exec (.programComplete true) (following .waiting (programmingPart 4 0)) with
      | .next t => t.retr.jobs.map (·.work)
      | _ => []) = [.ready (.record (someRec 1)) false 0] := by decide +kernel

/-- R170 by hand: a read waits while the jump of station 2 leaves nothing held up to 4: NOT_HELD stands for all of it, and
otherwise for the sequence alone (R168). -/
theorem test_read_after_jump : (rangeOf (following .reading (withOrigin { origin 0 0 with held := 4 } st)) 2).1 = none
    ∧ (jobResult 4 none (following .reading (withOrigin { origin 0 0 with held := 4 } st))).retr.jobs.map (·.work)
      = [.ready (.notHeld 2 1) true 0]
    ∧ (jobResult 4 none (following .reading (withOrigin { origin 0 0 with held := 4, oldest := some 1 } st))).retr.jobs.map (·.work)
      = [.ready (.notHeld 2 1) false 0] := by decide +kernel

/-- R48, R174 by hand: BUS set, and enabled, or with another cause enabled; and both lines while output is not permitted. -/
theorem test_lines : let s (enable : BitVec 9) (output : Bool) : State :=
      (((st.setCfg { cfg with enable := enable }).setRetr { flags := 0x100 }).setLine { fstop := true }).setSupply { output := output }
    (attnLine (s 0x100 true), attnLine (s 0x0FF true), attnLine (s 0x1FF false)) = (true, false, false)
    ∧ (fstopLine (s 0 true), fstopLine (s 0 false)) = (true, false) := by decide

/-- In that state no job has waited longer than the pending answer, nor than the job itself. -/
theorem test_answer_turn_witness (t : Nat) (h : 5 ≤ t) :
    ∀ j ∈ (answering t (.done 1)).retr.jobs, ∀ x b n, j.work = .ready x b n → 5 ≤ n := by
  intro j m x b n w
  cases (List.mem_singleton.mp m : j = { job 4 0 with work := .ready (.done 1) false t })
  cases w
  exact h

/-- SilentTerminalsJobEnds: 5 minutes to the tick, and a tick less. -/
theorem test_silent_job_witnesses : jobOf (withJobs [job 4 (1000000 - 307200)] st) (4 : BitVec 5).toNat = some (job 4 (1000000 - 307200))
    ∧ 307200 ≤ st.elapsed - (job 4 (1000000 - 307200)).heardAt ∧ st.elapsed - (job 4 (1000000 - 307199)).heardAt < 307200
    ∧ CatchingUpOrRecording (withJobs [job 4 0] st) := by
  unfold CatchingUpOrRecording; decide

/-! ## Witnesses: COMMISSION -/

/-- An image with the fixture's kinds of station and slot, every field at a permitted value. -/
def image : List Byte :=
  let slot (kind station channel scale : Nat) : List Byte :=
    [BitVec.ofNat 8 kind, BitVec.ofNat 8 station, BitVec.ofNat 8 channel, 30] ++ beBytes 3 scale ++ List.replicate 15 0
  let settings : List Byte :=
    [1, 1, 1, 1, 2, 3] ++ List.replicate 27 0 ++ beBytes 2 1100 ++ beBytes 2 1700 ++ beBytes 2 0 ++ beBytes 3 85000
    ++ beBytes 2 60 ++ beBytes 2 600 ++ [0, 0, 1, 2, 0, 0, 2, 1, 0, 0]
  let table : List Byte := slot 1 3 0 1000 ++ slot 2 3 1 2500 ++ slot 5 3 2 150000 ++ slot 6 3 3 0 ++ List.replicate (12 * 22) 0
  settings ++ table

/-- The image with its marker, length 416 and check before it, filled up to 1,024 bytes. -/
def stored : List Byte :=
  [0x3C, 0x5A] ++ beBytes 2 416 ++ beBytes 2 13604 ++ [0xFF, 0xFF] ++ image ++ List.replicate 608 0xFF

/-- COMMISSION with a staging image. -/
def commissioned (b : List Byte) (c : Commit) : State :=
  st.setSupply { station := some .commission, staging := b, commit := c }

set_option maxRecDepth 100000 in
theorem test_image_crc : crc16 image = 13604 := by decide +kernel

theorem test_image_slice : slice stored 8 408 = image := by decide +kernel

theorem test_stored_fields : stored.length = 1024 ∧ stored.take 2 = [0x3C, 0x5A] ∧ field stored 2 2 = 416
    ∧ field stored 4 2 = 13604 ∧ imageError stored = none := by decide +kernel

theorem test_stored_image_is_valid : imageValid stored = true := by
  simp [imageValid, imageCheckHolds, test_stored_fields, test_image_slice, test_image_crc]

/-- ConfigBlockWritesTheStagingImage: a commit in flight, data that end at 1,025, and at 1,024. -/
theorem test_block_witnesses : TakesQuery (commissioned stored .idle) (head 4)
    ∧ TakesQuery (commissioned stored (.inFlight 4 7)) (head 4) ∧ (commissioned stored (.inFlight 4 7)).supply.commit ≠ .idle
    ∧ (commissioned stored .idle).supply.station = some .commission ∧ (commissioned stored .idle).supply.commit = .idle
    ∧ 1024 < (1024 : BitVec 16).toNat + [(0 : Byte)].length ∧ (1023 : BitVec 16).toNat + [(0 : Byte)].length ≤ 1024 := by
  unfold TakesQuery Hears; decide +kernel

/-- ConfigCommitChecksThenErases: a commit in flight (test_block_witnesses), a length of 415, a check that fits an image without faults, and an image whose own
number is 0 with the check that fits it. -/
theorem test_commit_witnesses : ¬ (416 ≤ (415 : BitVec 16).toNat)
    ∧ (416 ≤ (416 : BitVec 16).toNat ∧ (416 : BitVec 16).toNat ≤ 1024
      ∧ (13604 : BitVec 16) = crc16 (slice stored 8 ((416 : BitVec 16).toNat - 8)))
    ∧ imageError stored = none ∧ imageError (stored.set 8 0) = some 8 :=
  ⟨by decide, ⟨by decide, by decide, by
      show (13604 : BitVec 16) = crc16 (slice stored 8 408)
      rw [test_image_slice, test_image_crc]⟩, test_stored_fields.2.2.2.2, by decide +kernel⟩

/-- FirstFault: the own number 0 is the first fault of its image, at offset 8. -/
theorem test_first_fault_witness : FirstFault (stored.set 8 0) 8 := by
  refine ⟨0, Or.inl ⟨rfl, Or.inl ⟨(8, 1, 1, 31), by decide, rfl, by decide +kernel⟩⟩, ?_⟩
  rintro r o (⟨rfl, ⟨x, m, rfl, -⟩ | ⟨h, -⟩ | ⟨h, -⟩⟩ | ⟨h, -⟩ | ⟨h, -⟩ | ⟨h, -⟩ | ⟨h, -⟩ | ⟨h, -⟩)
  · exact Or.inr ⟨rfl, (by decide : ∀ x ∈ settingBounds, 8 ≤ x.1) x m⟩
  all_goals omega

set_option maxRecDepth 100000 in
theorem test_settings_of_stored : ∀ off < 64, ¬ SettingFails stored off := by unfold SettingFails; decide +kernel

set_option maxRecDepth 100000 in
theorem test_slots_of_stored : ∀ i < 16, ∀ d < 22, ¬ SlotFieldFails stored i d := by
  intro i hi d _ h
  unfold SlotFieldFails at h
  dsimp only at h
  rcases h with ⟨rfl, h⟩ | ⟨h1, -, ⟨rfl, h⟩ | ⟨rfl, h⟩ | ⟨rfl, h⟩ | ⟨rfl, h⟩ | ⟨rfl, h⟩ | ⟨rfl, h⟩ | ⟨rfl | rfl | rfl, h⟩
    | ⟨rfl, h⟩ | ⟨rfl, h⟩⟩ <;> (revert i; decide +kernel)

set_option maxRecDepth 100000 in
/-- An image without any fault: the second clause of imageError's content. -/
theorem test_no_fault_witness : ∀ rank off, ¬ ImageFault stored rank off := by
  rintro rank off (⟨-, h⟩ | ⟨-, i, hi, d, hd, -, h⟩ | ⟨-, i, hi, -, h⟩ | ⟨h1, h2, i, hi, -, h⟩ | ⟨h1, h⟩ | ⟨-, h⟩)
  · refine test_settings_of_stored off ?_ h
    rcases h with ⟨x, m, rfl, -⟩ | ⟨-, h, -⟩ | ⟨-, h, -⟩
    · exact (by decide : ∀ x ∈ settingBounds, x.1 < 64) x m
    all_goals omega
  · exact test_slots_of_stored i hi d hd h
  · revert i; decide +kernel
  · exact (by decide +kernel : ∀ r ≤ 17, 11 ≤ r → ∀ i < 16, ¬ (kindAt stored i = r - 10
      ∧ (if r = 11 then 10 else 1) ≤ (List.range i).countP (fun j => kindAt stored j == r - 10))) rank h2 h1 i hi h
  · rcases h1 with rfl | rfl | rfl | rfl <;> exact absurd h.1 (by decide +kernel)
  · obtain ⟨-, i, hi, -, h⟩ := h
    revert i; decide +kernel

/-- CommitWritesItsPagesInOrder: the erase, the third page and the last one in flight. -/
theorem test_commit_flash_witnesses : FlashCanonical (withOp .commitErase (commissioned stored (.inFlight 4 7)))
    ∧ (withOp .commitErase (commissioned stored (.inFlight 4 7))).supply.commit = .inFlight 4 7
    ∧ (withOp .commitErase (commissioned stored (.inFlight 4 7))).arch.op = .commitErase
    ∧ (withOp (.commitPage 2) (commissioned stored (.inFlight 4 7))).arch.op = .commitPage 2 ∧ 2 < 3
    ∧ (withOp (.commitPage 3) (commissioned stored (.inFlight 4 7))).arch.op = .commitPage 3 ∧ 3 ≤ 3
    ∧ (withOp (.commitPage 3) (commissioned stored (.inFlight 4 7))).supply.staging.length = 1024 := by
  unfold FlashCanonical; decide +kernel

/-- R86, R183: a page of the image that reads back wrong is one defective page and no part of the failure run, also when
the supply fails; a failed erase is neither. -/
theorem test_failed_page_is_counted :
    (match exec (.commitFlashComplete false) (withOp (.commitPage 2) (commissioned stored (.inFlight 4 7))) with
      | .next t => (t.year.day.defective, t.arch.failureRun)
      | _ => (9, 9)) = (1, 0)
    ∧ (cutFlash false (withOp (.commitPage 2) (commissioned stored (.inFlight 4 7)))).year.day.defective = 1
    ∧ (cutFlash true (withOp (.commitPage 2) (commissioned stored (.inFlight 4 7)))).year.day.defective = 0
    ∧ (match exec (.commitFlashComplete false) (withOp .commitErase (commissioned stored (.inFlight 4 7))) with
      | .next t => t.year.day
      | _ => { defective := 9 }) = {} :=
  ⟨by decide +kernel, by decide +kernel, by decide +kernel, by
    simp [exec, execCommitFlashComplete, withOp, State.setArch, commissioned, State.setSupply, st]⟩

/-! ## Witnesses: supply, reset and start -/

/-- HOLD from a station state, with good supply for so many ticks. -/
def held (from_ : Station) (ticks : Nat) (warm : Bool) : State :=
  st.setSupply { station := some .hold, heldFrom := some from_, goodSince := 1000000 - ticks, ramIntact := warm }

/-- SupplyFailEntersHold: with a plant time, RUNNING and FROZEN. -/
theorem test_supply_fail_witness : st.supply.station = some .recording ∧ Station.recording ≠ .hold
    ∧ st.tb.plant = some (43230 * 1024) ∧ st.tb.state ≠ .frozen ∧ st.tb.closed = some 43200
    ∧ (withTime { st.tb with state := .frozen } st).tb.state = .frozen
    ∧ (holdTimebase st.tb).holdFrom = 43260 := by decide

/-- Every kind of operation in flight when the supply fails or RESET comes (R176). -/
theorem test_cut_off_witnesses : st.arch.op = .idle ∧ programmingOwn.arch.op = .programming .own
    ∧ (withOp (.erasing .own 7166) st).arch.op = .erasing .own 7166 ∧ FlashCanonical (withOp (.erasing .own 7166) st)
    ∧ (withOp (.commitPage 3) (commissioned stored (.inFlight 4 7))).arch.op = .commitPage 3 ∧ 3 ≤ 3
    ∧ FlashCanonical (withOp (.commitPage 3) (commissioned stored (.inFlight 4 7)))
    ∧ (cutFlash true programmingOwn).arch.latest = 1 := by
  unfold FlashCanonical; decide +kernel

/-- R147, R150, R170: a return after a hold with a mark of 10 minutes, a GAP sent 10 s ago and a job silent for 5 minutes,
and with each of them a tick younger. -/
def agedHold (young : Nat) : State :=
  (withJobs [job 4 (1000000 - 307200 + young)] (held .recording 154 true)).setWit
    { origins := [gapOf (.sent (1000000 - 10240 + young))], marks := [⟨6, 1, 1000000 - 614400 + young⟩] }

def returned (s : State) : State :=
  match exec .supplyReturn (withTime { s.tb with plant := some (43260 * 1024) } s) with
  | .next t => t
  | _ => s

theorem test_aged_at_return : ((agedHold 0).wit.origins.map (·.place)).Nodup
    ∧ (returned (agedHold 0)).wit.marks = [] ∧ (returned (agedHold 0)).retr.jobs = []
    ∧ (returned (agedHold 0)).wit.origins.map (·.gap) = [none]
    ∧ (returned (agedHold 1)).wit.marks.length = 1 ∧ (returned (agedHold 1)).retr.jobs.length = 1
    ∧ (returned (agedHold 1)).wit.origins = [gapOf (.sent (1000000 - 10239))]
    ∧ (held .timeUnset 154 true).tb.catchUp = false := by decide +kernel

/-- The return after an erase was cut off, with an own record waiting, two partitions that need an erase, and the pointer at
the one whose erase it was. -/
def cutErase (x : ArchiveState) (openYear : Nat) (a : Area) (ownDir : List (Nat × DirEntry)) : State :=
  let s := ringAt x openYear [ownEntry .waitingArchive none] ownDir
  let s1 := (s.setWit { s.wit with origins := [origin 1 1, { place := 1, station := 3 }] }).setArch { s.arch with
    parts := [{ dir := yearSector }, { dir := yearSector }, {}], op := .erasing a 0, roundRobin := 0 }
  (cutFlash true s1).setSupply (held .recording 154 true).supply

/-- R165, R178: the first flash-idle event after a warm return reissues the abandoned erase, before the own record and the next
partition; in FAULT it does not, a barred own erase gives way to the witness work, and an erase no more needed to the own
record. -/
theorem test_abandoned_erase_reissued :
    (cutErase .ready 2000 (.part 0) []).arch.abandoned = some (.part 0, 0)
    ∧ (cutErase .ready 2000 (.part 0) []).arch.op = .idle
    ∧ (returned (cutErase .ready 2000 (.part 0) [])).arch.op = .erasing (.part 0) 0
    ∧ (returned (cutErase .ready 2000 (.part 0) [])).arch.abandoned = none
    ∧ (returned (cutErase .ringFull 2001 (.part 0) yearSector)).arch.op = .erasing (.part 0) 0
    ∧ (returned (cutErase .ready 2002 .own yearSector)).arch.op = .erasing .own 0
    ∧ (returned (cutErase .fault 2000 (.part 0) [])).arch.op = .idle
    ∧ (returned (cutErase .fault 2000 (.part 0) [])).arch.abandoned = none
    ∧ (returned (cutErase .ready 2001 .own yearSector)).arch.op = .erasing (.part 1) 0
    ∧ (returned (cutErase .ready 2000 .own [])).arch.op = .programming .own := by decide +kernel

/-- SupplyReturnIsWarmOrCold: the abandoned erase of a partition, and of the own ring, may start. -/
theorem test_reissue_witness : EraseMayStart (cutErase .ready 2000 (.part 0) []) (.part 0) 0
    ∧ EraseMayStart (cutErase .ready 2002 .own yearSector) .own 0
    ∧ ¬ EraseMayStart (cutErase .fault 2000 (.part 0) []) (.part 0) 0 := by
  simp only [← eraseMayStart_iff]; decide +kernel

/-- R170: the read of the job that goes is left to nobody; R162: READY with the own erase barred, as at a return. -/
theorem test_frame_at_return : ((dropSilentJobs ((agedHold 0).setArch { requests := [⟨.job 4, .own, 1⟩, ⟨.backfill, .own, 2⟩] })).arch.requests.map
      (·.who)) = [.nobody, .backfill]
    ∧ (ringAt .ready 2001 [] yearSector).arch.state = .ready ∧ ownEraseForbidden (ringAt .ready 2001 [] yearSector) = true
    ∧ ¬ (ringAt .fault 2001 [] yearSector).arch.state = .ready := by decide +kernel

theorem test_supply_event_witnesses : (st.setSupply { sense := false }).supply.sense = false ∧ State.reset.supply.station = none
    ∧ State.reset.supply.sense = true ∧ (held .recording 154 true).supply.station = some .hold
    ∧ (held .recording 154 true).supply.sense = true := by decide

/-- SupplyReturnIsWarmOrCold: 154 ticks are 150 ms and 153 are not; each state HOLD may have come from. -/
theorem test_supply_return_witnesses : (∀ x ∈ [Station.catchUp, .recording, .timeUnset], (held x 154 true).supply.station = some .hold
      ∧ (held x 154 true).supply.sense = true ∧ 153600 ≤ 1000 * ((held x 154 true).elapsed - (held x 154 true).supply.goodSince)
      ∧ (held x 154 true).supply.ramIntact = true ∧ (held x 154 true).supply.resetInHold = false
      ∧ (held x 154 true).supply.heldFrom = some x)
    ∧ 1000 * ((held .recording 153 true).elapsed - (held .recording 153 true).supply.goodSince) < 153600
    ∧ (held .recording 154 false).supply.ramIntact = false ∧ (held .commission 154 true).supply.heldFrom = some .commission := by
  decide

/-- The two clauses of the gap list: a minute due to the tick, and a tick less; the HOLD entry after a TIMEGAP one. -/
theorem test_hold_entry_witnesses : (43200 + 60) * 1024 ≤ 43260 * 1024 ∧ 43260 * 1024 - 1 < (43200 + 60) * 1024
    ∧ (withTime { st.tb with plant := some (43260 * 1024) } (held .recording 154 true)).tb.closed = some 43200
    ∧ gapsWith 43260 .hold [⟨43200, .timegap⟩] = [⟨43200, .timegap⟩, ⟨43260, .hold⟩]
    ∧ gapsWith 43260 .hold [⟨43200, .hold⟩] = [⟨43200, .hold⟩] := by decide

set_option maxRecDepth 100000 in
/-- R178 by hand: HOLD finds an error run of 31 and records queued, and the return an ACTIVE port with a run of 0 and the
same queue; peers, reference and step count go on, and the ATTN line takes the flag that the enable set names. -/
theorem test_port_at_return : let s := returned (withPort { errorRun := 31, recordQ := [⟨someRec 1, false⟩] } (withTime
        { st.tb with peers := [⟨2, 5, 6⟩], reference := some ⟨4, 7, 8⟩, stepCount := 2 }
        (((held .recording 154 true).setCfg { cfg with enable := 1 }).setRetr { flags := 1 })))
    s.port = { state := .active, activeSince := 1000000, recordQ := [⟨someRec 1, false⟩] }
      ∧ (s.tb.peers, s.tb.reference, s.tb.stepCount) = ([⟨2, 5, 6⟩], some ⟨4, 7, 8⟩, 2) ∧ attnLine s = true
      ∧ s.supply.station = some .catchUp := by decide +kernel

theorem test_reset_line_witnesses : st.supply.resetLine = false ∧ (st.setSupply { resetLine := true }).supply.resetLine = true := by decide

/-- In reset with an image stored, and with or without a plant time in the backup domain. -/
def starting (b : List Byte) (valid : Bool) : State :=
  ((State.reset.setSupply { clockValid := valid }).setTb { plant := if valid then some (43230 * 1024) else none }).setArch
    { flash := (b.zipIdx.map (fun p => (p.2, p.1))).filter (fun c => c.2 != erasedByte) }

theorem test_stored_reads_back : (starting stored true).arch.flash.bytes 0 1024 = stored := by decide +kernel

/-- ColdStartWithoutRecording and ColdStartScansAndGoesOn: a blank flash, and a valid image. -/
theorem test_cold_start_witnesses : (coldStartDue (starting [] false) = true
      ∧ imageValid ((starting [] false).arch.flash.bytes 0 1024) = false)
    ∧ coldStartDue (starting stored true) = true ∧ imageValid ((starting stored true).arch.flash.bytes 0 1024) = true
    ∧ (starting stored false).supply.clockValid = false :=
  ⟨by decide +kernel, by decide +kernel, by rw [test_stored_reads_back]; exact test_stored_image_is_valid,
    by decide +kernel⟩

/-- The image, and in the own ring a HALF_HOUR record of 11:30 and after it a defective page whose marker is not 0. -/
def recorded : State :=
  let page := pageBytesOf ⟨.halfHour, 1, 7, 41400, halfHourBody (halfHourRecord 41400 (st.setMinutes { rows := minuteRows 15 }))⟩
  (starting stored true).setArch
    { flash := (starting stored true).arch.flash
        ++ (((page ++ [1#8]).zipIdx.map (fun p => (4096 + p.2, p.1))).filter (fun c => c.2 != erasedByte)) }

theorem test_recorded_image_reads_back : recorded.arch.flash.bytes 0 1024 = stored := by decide +kernel

/-- ColdStartScansAndGoesOn with a resume point (R94, R157, R165): the period ends at 12:00, the number of the defective page
counts as assigned, and the write position is in the following sector. -/
theorem test_resume_point_witness : coldStartDue recorded = true ∧ imageValid (recorded.arch.flash.bytes 0 1024) = true
    ∧ resumePoint (ownRecords recorded) = some 43200 ∧ scanLatest recorded = 7 ∧ scanLastAssigned recorded = 8
    ∧ scanWritePos recorded .own = 16 ∧ findFloor (ownRecords recorded) 7 2000 = (7, some 7) :=
  ⟨by decide +kernel, by rw [test_recorded_image_reads_back]; exact test_stored_image_is_valid, by decide +kernel,
    by decide +kernel, by decide +kernel, by decide +kernel, by decide +kernel⟩

/-- The YEAR_SLOT records that a closed year lacks: room to the entry, a slot that has its record and one that has not. -/
theorem test_missing_slot_witnesses : (st.setArch { outbound := List.replicate 15 (ownEntry .waitingArchive none) }).arch.outbound.length
      + st.year.rows.length ≤ 16
    ∧ yearSlotClosed [⟨.yearSlot, 1, 1, 0, [0]⟩] 2000 0 = true ∧ yearSlotClosed [someRec 1] 2000 0 = false
    ∧ yearClosed [someRec 1] 2000 = true := by decide +kernel

end Sys2Proof.Tests
end

section
/-! The intake unit and readings (chapter 1), and what every command keeps. -/

namespace Sys2Proof.Machine

/-! ## Readings that are ignored (R8 to R10) -/

/-- A telegram from another station that its block leaves without effect changes nothing. -/
theorem deliver_inert {s : State} {sender : BitVec 5} {f : State → State} (hown : sender.toNat ≠ s.cfg.own)
    (hf : f s = s) : deliver sender true f s = s := by
  simp [deliver, hown, hf]

/-- A code above 4 is no reading status (R9). -/
theorem readingStatusOf_unlisted {code : BitVec 8} (h : 4 < code.toNat) : readingStatusOf code = none := by
  obtain ⟨n, hn⟩ : ∃ n, code.toNat = n + 5 := ⟨code.toNat - 5, by omega⟩
  simp [readingStatusOf, hn]

/-- A listed code is a reading status (R9). -/
theorem readingStatusOf_listed {code : BitVec 8} (h : code.toNat ≤ 4) : ∃ st, readingStatusOf code = some st := by
  unfold readingStatusOf
  interval_cases code.toNat <;> exact ⟨_, rfl⟩

/-- Outside RECORDING the intake unit takes no reading (R8). -/
theorem intakeReading_not_recording {s : State} (h : s.supply.station ≠ some .recording) (sender : BitVec 5)
    (channel tag : BitVec 4) (status : BitVec 8) (value : BitVec 24) :
    intakeReading sender channel tag status value s = s := by
  simp [intakeReading, h]

/-- A status that is not listed lets no reading in (R9). -/
theorem intakeReading_unlisted_status {status : BitVec 8} (h : readingStatusOf status = none) (sender : BitVec 5)
    (channel tag : BitVec 4) (value : BitVec 24) (s : State) :
    intakeReading sender channel tag status value s = s := by
  simp [intakeReading, h]

/-- A source that no slot has lets no reading in (R10). -/
theorem intakeReading_unmatched {s : State} {sender : BitVec 5} {channel : BitVec 4}
    (h : matchSlot s.cfg sender.toNat channel.toNat = none) (tag : BitVec 4) (status : BitVec 8) (value : BitVec 24) :
    intakeReading sender channel tag status value s = s := by
  simp [intakeReading, h]

/-- A line tag that does not match lets no reading in (R9, R10). -/
theorem intakeReading_other_line {s : State} {tag : BitVec 4} (h : tagMatches s.cfg tag.toNat = false)
    (sender : BitVec 5) (channel : BitVec 4) (status : BitVec 8) (value : BitVec 24) :
    intakeReading sender channel tag status value s = s := by
  unfold intakeReading
  split
  · rfl
  · split <;> simp [h]

/-- The command of a reading that the intake unit leaves without effect changes nothing. -/
theorem exec_receiveReading_inert {sender : BitVec 5} {channel tag : BitVec 4} {status : BitVec 8} {value : BitVec 24}
    {s : State} (hown : sender.toNat ≠ s.cfg.own) (h : intakeReading sender channel tag status value s = s) :
    exec (.receiveReading sender channel tag status value) s = .next s :=
  congrArg Host.Outcome.next (deliver_inert hown h)

/-- Settles O5: the two checks of R9 each stop the reading in the intake unit. -/
theorem readingOfUnlistedTagOrStatusIsIgnored : Obligations.ReadingOfUnlistedTagOrStatusIsIgnored := by
  intro sender channel tag status value s hown h
  refine exec_receiveReading_inert hown ?_
  rcases h with htag | hstatus
  · exact intakeReading_other_line (by simp [tagMatches]; omega) ..
  · exact intakeReading_unlisted_status (readingStatusOf_unlisted hstatus) ..

/-- Settles O6: a station state other than RECORDING, no slot, and another line's tag each stop the reading. -/
theorem unmatchedReadingIsIgnored : Obligations.UnmatchedReadingIsIgnored := by
  intro sender channel tag status value s hown h
  refine exec_receiveReading_inert hown ?_
  rcases h with hstation | hslot | ⟨hzero, hline⟩
  · exact intakeReading_not_recording hstation ..
  · refine intakeReading_unmatched ?_ ..
    simpa [matchSlot, List.find?_eq_none] using hslot
  · exact intakeReading_other_line (by simp [tagMatches, hzero, hline]) ..

/-! ## Readings that are taken (R11 to R14) -/

/-- Two changes of the entry at a place are the same when they agree on what stands there. -/
theorem modify_congr_at {α : Type} {l : List α} {i : Nat} {f g : α → α} (h : ∀ a, l[i]? = some a → f a = g a) :
    l.modify i f = l.modify i g := by
  refine List.ext_getElem? fun j => ?_
  rw [List.getElem?_modify, List.getElem?_modify]
  by_cases hj : i = j
  · subst hj
    cases hl : l[i]? with
    | none => rfl
    | some a => simp [h a hl]
  · simp [hj]

/-- A sample changes the accumulator of its slot as `sample` says, and nothing else (R10 to R14). -/
theorem exec_receiveReading_sample {sender : BitVec 5} {channel tag : BitVec 4} {status : BitVec 8}
    {value : BitVec 24} {i : Nat} {sl : Slot} {s : State} {st : ReadingStatus} {f : Acc → Acc}
    (h : SampleOf s sender channel tag i sl) (hst : readingStatusOf status = some st)
    (hf : ∀ a, s.accs[i]? = some a → sample sl a st (readingValue value) = f a) :
    exec (.receiveReading sender channel tag status value) s = .next (s.setAccs (s.accs.modify i f)) := by
  obtain ⟨hears, hstation, hslot, htag, hline⟩ := h
  have intake : intakeReading sender channel tag status value s = s.setAccs (s.accs.modify i f) := by
    simp [intakeReading, hstation, hst, hslot, tagMatches, htag, hline, modify_congr_at hf]
  exact congrArg Host.Outcome.next ((deliver_hears hears _).trans intake)

/-- Below the cap a sample enters its accumulator by its status (R11 to R14). -/
theorem exec_receiveReading_taken {sender : BitVec 5} {channel tag : BitVec 4} {status : BitVec 8}
    {value : BitVec 24} {i : Nat} {sl : Slot} {s : State} {st : ReadingStatus} {f : Acc → Acc}
    (h : SampleOf s sender channel tag i sl) (hcap : BelowCap s i sl) (hst : readingStatusOf status = some st)
    (hf : ∀ a, takeSample sl a st (readingValue value) = f a) :
    exec (.receiveReading sender channel tag status value) s = .next (s.setAccs (s.accs.modify i f)) := by
  obtain ⟨a, ha, below⟩ := hcap
  refine exec_receiveReading_sample h hst fun x hx => ?_
  obtain rfl : a = x := Option.some.inj (ha.symm.trans hx)
  rw [← hf, sample, if_pos (show a.taken < 2 * expectedCount sl from below)]

/-- FEED and DISTURB are the binary kinds. -/
theorem isBinary_iff (k : SlotKind) : isBinary k = true ↔ k = .feed ∨ k = .disturb := by simp [isBinary]

/-- A valid sample, marked or not, on a binary slot and on an analogue one (R12, R13). -/
theorem enterValid_eq (sl : Slot) (a : Acc) (v : Int) (marked : Bool) :
    enterValid sl a v marked =
      if sl.kind = .feed ∨ sl.kind = .disturb then
        { a with
          valid := a.valid + 1, overrange := a.overrange + marked.toNat
          nonZero := a.nonZero + (if v = 0 then 0 else 1) }
      else
        { a with valid := a.valid + 1, overrange := a.overrange + marked.toNat, sum := a.sum + enteredValue sl v } := by
  have bit : (decide (v ≠ 0)).toNat = if v = 0 then 0 else 1 := by by_cases hv : v = 0 <;> simp [hv]
  simp only [enterValid, bit, isBinary_iff]

/-- Settles O7: below the cap, on a binary slot and on an analogue one. -/
theorem validSampleEntersItsAccumulator : Obligations.ValidSampleEntersItsAccumulator := by
  intro sender channel tag value i sl s hsample hcap
  refine exec_receiveReading_taken hsample hcap rfl fun a => ?_
  by_cases hk : sl.kind = .feed ∨ sl.kind = .disturb
  · simp [takeSample, enterValid_eq, hk, (isBinary_iff sl.kind).2 hk, readingValue]
  · have analogue : isBinary sl.kind = false := Bool.eq_false_iff.2 (mt (isBinary_iff _).1 hk)
    have entered : (decide (enteredValue sl value.toInt ≠ value.toInt)).toNat
        = if enteredValue sl value.toInt = value.toInt then 0 else 1 := by split <;> simp [*]
    rw [takeSample, readingValue, analogue, enterValid_eq, if_neg hk, Bool.not_false, Bool.true_and, entered, if_neg hk]
    rfl

/-- Settles O8: OVERRANGE enters as a marked valid sample, and the other three raise their own count. -/
theorem otherSamplesEnterByTheirStatus : Obligations.OtherSamplesEnterByTheirStatus := by
  refine ⟨fun sender channel tag value i sl s hsample hcap => ?_, fun sender channel tag value i sl s hsample hcap => ?_⟩
  · exact exec_receiveReading_taken hsample hcap rfl fun a => enterValid_eq sl a value.toInt true
  · exact ⟨exec_receiveReading_taken hsample hcap rfl fun _ => rfl,
      exec_receiveReading_taken hsample hcap rfl fun _ => rfl, exec_receiveReading_taken hsample hcap rfl fun _ => rfl⟩

/-- Settles O9: at the cap a sample of any listed status is excess. -/
theorem sampleAtTheCapIsExcess : Obligations.SampleAtTheCapIsExcess := by
  intro sender channel tag status value i sl s a hsample hstatus ha hcap
  obtain ⟨st, hst⟩ := readingStatusOf_listed hstatus
  refine exec_receiveReading_sample hsample hst fun x hx => ?_
  obtain rfl : a = x := Option.some.inj (ha.symm.trans hx)
  rw [sample, if_neg (Nat.not_lt.2 (show 2 * expectedCount sl ≤ a.taken from hcap))]
  rfl

/-! ## The state after reset -/

/-- Settles O4: the state after reset is a literal, and each clause is one of its fields. -/
theorem resetStateHasTheColdStartValues : Obligations.ResetStateHasTheColdStartValues := by
  simp [Obligations.ResetStateHasTheColdStartValues, State.reset, fstopLine, attnLine, stagingUsed,
    MinuteCounts.toList, Counters.toList, List.replicate]

end Sys2Proof.Machine
end

section
/-! What every command keeps. -/

namespace Sys2Proof.Machine

/-! ## Every command has a next state -/

/-- The queue of commands, the time count and the configuration in use are as they were. -/
def KeepsCommand (s t : State) : Prop := t.pending = s.pending ∧ t.elapsed = s.elapsed ∧ t.cfg = s.cfg

/-- A command is answered by a next state that keeps these three. -/
def GoesOn (s : State) (o : Host.Outcome State Fault Refusal) : Prop := ∃ t, o = .next t ∧ KeepsCommand s t

@[simp] theorem goesOn_next (s t : State) :
    GoesOn s (.next t) ↔ t.pending = s.pending ∧ t.elapsed = s.elapsed ∧ t.cfg = s.cfg :=
  ⟨by rintro ⟨_, ⟨⟩, h⟩; exact h, fun h => ⟨t, rfl, h⟩⟩

/-- A telegram keeps what its block keeps: an error and a clash only count (R127, R128). -/
theorem deliver_keeps {s : State} {f : State → State} (hf : KeepsCommand s (f s)) (sender : BitVec 5)
    (permitted : Bool) : GoesOn s (.next (deliver sender permitted f s)) := by
  refine ⟨_, rfl, ?_⟩
  rcases deliver_cases sender permitted f s with ⟨-, h⟩ | ⟨-, -, h⟩ | ⟨-, -, -, h⟩ | ⟨-, -, h⟩ <;> rw [h]
  · exact ⟨rfl, rfl, rfl⟩
  · simp [KeepsCommand]
  · simp [KeepsCommand]
  · exact hf

/-- A query keeps what acting on it keeps: a refusal only adds an answer (R166). -/
theorem query_keeps {s : State} {act : State → State} (hact : KeepsCommand s (act s)) (head : QueryHead)
    (permitted taken : Bool) : GoesOn s (.next (query head permitted taken act s)) := by
  refine deliver_keeps ?_ head.terminal permitted
  split
  · exact ⟨rfl, rfl, rfl⟩
  · split
    · exact ⟨rfl, rfl, rfl⟩
    · split
      · exact hact
      · simp [KeepsCommand]

/-- A telegram or a query goes on, whatever its sender. -/
theorem exec_telegram_goesOn (c : Instr) (s : State) (h : c.sender ≠ none) : GoesOn s (exec c s) := by
  cases c with
  | receiveReading => exact deliver_keeps (by simp [KeepsCommand]) ..
  | receiveTime => exact deliver_keeps (by simp [KeepsCommand]) ..
  | receiveRecord => exact deliver_keeps (by simp [KeepsCommand]) ..
  | receiveMark => exact deliver_keeps (by simp [KeepsCommand]) ..
  | receiveGap => exact deliver_keeps (by simp [KeepsCommand]) ..
  | receivePresence => exact deliver_keeps (by simp [KeepsCommand]) ..
  | read => exact query_keeps (by simp [KeepsCommand]) ..
  | readYear => exact query_keeps (by simp [KeepsCommand]) ..
  | condition => exact query_keeps (by simp [KeepsCommand]) ..
  | clearAttention => exact query_keeps (by simp [KeepsCommand]) ..
  | configBlock => exact query_keeps (by simp [KeepsCommand]) ..
  | configCommit => exact query_keeps (by simp [KeepsCommand]) ..
  | _ => exact absurd rfl h

/-- Every command but COLD_START goes on with the configuration in use. -/
theorem exec_goesOn (c : Instr) (s : State) (h : ∀ svc, c ≠ .coldStart svc) : GoesOn s (exec c s) := by
  by_cases ht : c.sender = none
  swap
  · exact exec_telegram_goesOn c s ht
  cases c with
  | establishmentWindowEnd => simp only [exec, execEstablishmentWindowEnd]; (repeat' split) <;> simp
  | receiveError => simp only [exec, execReceiveError]; split <;> simp
  | stationClash => simp only [exec, execStationClash]; split <;> simp
  | commitFlashComplete => simp only [exec, execCommitFlashComplete]; (repeat' split) <;> simp
  | busIdle => simp only [exec, execBusIdle]; split <;> simp
  | arbitrationLost => simp only [exec, execArbitrationLost]; split <;> simp
  | transmitComplete => simp only [exec, execTransmitComplete]; split <;> simp
  | transmitError => simp only [exec, execTransmitError]; (repeat' split) <;> simp
  | silentEnd => simp only [exec, execSilentEnd]; split <;> simp
  | timeSend => simp only [exec, execTimeSend]; split <;> simp
  | presenceSend => simp only [exec, execPresenceSend]; (repeat' split) <;> simp
  | agreementRound => simp only [exec, execAgreementRound]; split <;> simp
  | minuteBoundary => simp only [exec, execMinuteBoundary]; (repeat' split) <;> simp
  | programComplete => simp only [exec, execProgramComplete]; split <;> simp
  | eraseComplete => simp only [exec, execEraseComplete]; split <;> simp
  | recordRelease => simp only [exec, execRecordRelease]; (repeat' split) <;> simp
  | backfillPlace => simp only [exec, execBackfillPlace]; (repeat' split) <;> simp
  | gapPlace => simp only [exec, execGapPlace]; (repeat' split) <;> simp
  | pendingAnswerPlace => simp only [exec, execPendingAnswerPlace]; (repeat' split) <;> simp
  | jobAnswerPlace => simp only [exec, execJobAnswerPlace]; (repeat' split) <;> simp
  | gapExpiry => simp only [exec, execGapExpiry]; (repeat' split) <;> simp
  | markEntryExpiry => simp only [exec, execMarkEntryExpiry]; split <;> simp
  | witnessLagHoldoffEnd => simp only [exec, execWitnessLagHoldoffEnd]; split <;> simp
  | jobSilenceExpiry => simp only [exec, execJobSilenceExpiry]; (repeat' split) <;> simp
  | supplyFail => simp only [exec, execSupplyFail]; split <;> simp
  | supplySenseRise => simp only [exec, execSupplySenseRise]; split <;> simp
  | supplySenseBounce => simp only [exec, execSupplySenseBounce]; split <;> simp
  | supplyReturn => simp only [exec, execSupplyReturn]; (repeat' split) <;> simp
  | resetAssert => simp only [exec, execResetAssert]; split <;> simp
  | resetRelease => simp only [exec, execResetRelease]; split <;> simp
  | coldStart svc => exact absurd rfl (h svc)
  | backupCellRanOut => simp only [exec, execBackupCellRanOut]; split <;> simp
  | _ => exact absurd ht (by simp [Instr.sender])

/-- COLD_START keeps the queue and the time count. -/
theorem coldStart_keeps (svc : Bool) (s : State) :
    (coldStart svc s).pending = s.pending ∧ (coldStart svc s).elapsed = s.elapsed := by
  simp only [coldStart]
  split
  · simp [coldRam]
  · split <;> simp [coldRam]

/-- Settles O3: COLD_START apart, by the command. -/
theorem everyCommandGoesOnAndOnlyColdStartReconfigures :
    Obligations.EveryCommandGoesOnAndOnlyColdStartReconfigures := by
  intro c s
  by_cases h : ∀ svc, c ≠ .coldStart svc
  · obtain ⟨t, ht, hpending, helapsed, hcfg⟩ := exec_goesOn c s h
    exact ⟨t, ht, hpending, helapsed, fun _ => hcfg⟩
  · push Not at h
    obtain ⟨svc, rfl⟩ := h
    by_cases due : coldStartDue s = true
    · obtain ⟨hpending, helapsed⟩ := coldStart_keeps svc s
      exact ⟨coldStart svc s, by simp [exec, execColdStart, due], hpending, helapsed, fun no => absurd rfl (no svc)⟩
    · exact ⟨s, by simp [exec, execColdStart, due], rfl, rfl, fun _ => rfl⟩

end Sys2Proof.Machine
end

section
/-! The checks of a configuration image (R6, R134, R183): each group of checks names the least offset that fails, and the
groups come in the order of their ranks. -/

namespace Sys2Proof.Machine

/-! ## The first check that fails -/

/-- `x` is the least offset at which a check of a group fails, or none when the group holds. -/
def LeastOf (fails : Nat → Prop) (x : Option Nat) : Prop :=
  (x = none → ∀ o, ¬ fails o) ∧ ∀ o, x = some o → fails o ∧ ∀ y, fails y → o ≤ y

theorem LeastOf.congr {p q : Nat → Prop} {x : Option Nat} (h : LeastOf p x) (e : ∀ o, p o ↔ q o) : LeastOf q x := by
  obtain rfl : p = q := funext fun o => propext (e o)
  exact h

/-- The offsets that the failing checks of a list name do not fall. -/
def Ascending (l : List (Option Nat)) : Prop := l.Pairwise (fun x y => ∀ a ∈ x, ∀ c ∈ y, a ≤ c)

/-- A check names no other offset than this one. -/
def Names (off : Nat) (x : Option Nat) : Prop := ∀ a ∈ x, a = off

theorem firstFail_cons (x : Option Nat) (l : List (Option Nat)) :
    firstFail (x :: l) = match x with | some o => some o | none => firstFail l := by
  cases x <;> rfl

theorem firstFail_flatMap {α : Type} (f : α → List (Option Nat)) (l : List α) :
    firstFail (l.flatMap f) = l.findSome? (fun g => firstFail (f g)) := by
  induction l with
  | nil => rfl
  | cons g l ih =>
    rw [List.flatMap_cons, firstFail, List.findSome?_append, List.findSome?_cons, ← ih]
    change (firstFail (f g)).or (firstFail _) = _
    cases firstFail (f g) <;> rfl

theorem firstFail_singleton (x : Option Nat) : firstFail [x] = x := by cases x <;> rfl

/-- The first failing check of an ascending list names the least offset. -/
theorem firstFail_least {l : List (Option Nat)} (h : Ascending l) : LeastOf (fun o => some o ∈ l) (firstFail l) := by
  induction l with
  | nil => exact ⟨fun _ _ => List.not_mem_nil, nofun⟩
  | cons x l ih =>
    obtain ⟨hx, hl⟩ := List.pairwise_cons.1 h
    rw [firstFail_cons]
    cases x with
    | none => exact (ih hl).congr fun o => by simp
    | some o =>
      refine ⟨nofun, fun p hp => ?_⟩
      obtain rfl : o = p := Option.some.inj hp
      refine ⟨List.mem_cons_self, fun y hy => ?_⟩
      rcases List.mem_cons.1 hy with e | hy
      · exact (Option.some.inj e).ge
      · exact hx _ hy o rfl y rfl

theorem offset_mem_of_names {offs : List Nat} {l : List (Option Nat)} (h : List.Forall₂ Names offs l) {o : Nat}
    (ho : some o ∈ l) : o ∈ offs := by
  induction h with
  | nil => exact absurd ho List.not_mem_nil
  | cons hx _ ih =>
    rcases List.mem_cons.1 ho with rfl | ho
    · exact hx o rfl ▸ List.mem_cons_self
    · exact List.mem_cons_of_mem _ (ih ho)

/-- Checks that name rising offsets one after the other are ascending. -/
theorem ascending_of_names {offs : List Nat} {l : List (Option Nat)} (h : List.Forall₂ Names offs l)
    (sorted : offs.Pairwise (· < ·)) : Ascending l := by
  induction h with
  | nil => exact List.Pairwise.nil
  | cons hx hl ih =>
    obtain ⟨below, sorted⟩ := List.pairwise_cons.1 sorted
    refine List.pairwise_cons.2 ⟨fun y hy a ha c hc => ?_, ih sorted⟩
    obtain rfl := hc
    exact hx a ha ▸ (below c (offset_mem_of_names hl hy)).le

/-! ## The order of the ranks -/

section Ranks
variable {fault : Nat → Nat → Prop} {groups : List (Nat × List (Option Nat))}

/-- While the groups below a rank hold, no fault has a lower rank. -/
theorem no_fault_below (covered : ∀ r o, fault r o → ∃ g ∈ groups, g.1 = r)
    (least : ∀ g ∈ groups, (∀ r < g.1, ∀ o, ¬ fault r o) → LeastOf (fault g.1) (firstFail g.2)) (n : Nat)
    (hold : ∀ g ∈ groups, g.1 < n → firstFail g.2 = none) : ∀ r < n, ∀ o, ¬ fault r o := by
  intro r
  induction r using Nat.strong_induction_on with
  | _ r ih =>
    intro hr o ho
    obtain ⟨g, hg, rfl⟩ := covered r o ho
    exact (least g hg fun q hq => ih q hq (hq.trans hr)).1 (hold g hg hr) o ho

/-- The first failing check of groups in the order of their ranks is the first fault, and there is none exactly when every
group holds. -/
theorem firstFail_groups (sorted : groups.Pairwise (fun g h => g.1 < h.1))
    (covered : ∀ r o, fault r o → ∃ g ∈ groups, g.1 = r)
    (least : ∀ g ∈ groups, (∀ r < g.1, ∀ o, ¬ fault r o) → LeastOf (fault g.1) (firstFail g.2)) :
    (firstFail (groups.flatMap (·.2)) = none → ∀ r o, ¬ fault r o)
    ∧ ∀ off, firstFail (groups.flatMap (·.2)) = some off →
      ∃ rank, fault rank off ∧ ∀ r o, fault r o → rank < r ∨ (rank = r ∧ off ≤ o) := by
  have below := no_fault_below covered least
  rw [firstFail_flatMap]
  refine ⟨fun h r => ?_, fun off h => ?_⟩
  · exact below (r + 1) (fun g hg _ => List.findSome?_eq_none_iff.1 h g hg) r (Nat.lt_succ_self r)
  · obtain ⟨before, g, after, rfl, hg, hold⟩ := List.findSome?_eq_some_iff.1 h
    have earlier : ∀ r < g.1, ∀ o, ¬ fault r o := by
      refine below g.1 fun k hk hlt => ?_
      rcases List.mem_append.1 hk with hk | hk
      · exact hold k hk
      · have : g.1 ≤ k.1 := by
          rcases List.mem_cons.1 hk with rfl | hk
          · exact le_rfl
          · exact (List.pairwise_cons.1 (List.pairwise_append.1 sorted).2.1).1 k hk |>.le
        omega
    obtain ⟨here, least⟩ := (least g (by simp) earlier).2 off hg
    refine ⟨g.1, here, fun r o ho => ?_⟩
    rcases Nat.lt_trichotomy r g.1 with hr | rfl | hr
    · exact absurd ho (earlier r hr o)
    · exact Or.inr ⟨rfl, least o ho⟩
    · exact Or.inl hr

end Ranks

/-! ## The faults of each rank -/

theorem imageFault_setting {b : List Byte} {o : Nat} : ImageFault b 0 o ↔ SettingFails b o := by simp [ImageFault]

theorem imageFault_field {b : List Byte} {o : Nat} :
    ImageFault b 1 o ↔ ∃ i < 16, ∃ d < 22, o = entryAtOffset i + d ∧ SlotFieldFails b i d := by
  simp [ImageFault]

theorem imageFault_source {b : List Byte} {o : Nat} :
    ImageFault b 2 o ↔ ∃ i < 16, o = entryAtOffset i + 2 ∧ kindAt b i ≠ 0
      ∧ ∃ j < i, kindAt b j ≠ 0 ∧ field b (entryAtOffset j + 1) 1 = field b (entryAtOffset i + 1) 1
        ∧ field b (entryAtOffset j + 2) 1 = field b (entryAtOffset i + 2) 1 := by
  simp [ImageFault]

/-- The slots of a kind that the table may hold (R2). -/
def kindBound (code : Nat) : Nat := if code = 1 then 10 else 1

theorem imageFault_upper {b : List Byte} {code o : Nat} (lo : 1 ≤ code) (hi : code ≤ 7) :
    ImageFault b (10 + code) o ↔ ∃ i < 16, o = entryAtOffset i ∧ kindAt b i = code
      ∧ kindBound code ≤ (List.range i).countP (fun j => kindAt b j == code) := by
  interval_cases code <;> simp [ImageFault, kindBound]

theorem imageFault_lower {b : List Byte} {code o : Nat} (h : code ∈ [1, 2, 5, 6]) :
    ImageFault b (20 + code) o ↔ (∀ j < 16, kindAt b j ≠ code) ∧ ∃ i < 16, o = entryAtOffset i ∧ kindAt b i = 0 := by
  simp only [List.mem_cons, List.not_mem_nil, or_false] at h
  rcases h with rfl | rfl | rfl | rfl <;> simp [ImageFault]

theorem imageFault_water {b : List Byte} {o : Nat} :
    ImageFault b 30 o ↔ (∀ j < 16, kindAt b j ≠ 3) ∧ ∃ i < 16, o = entryAtOffset i + 8
      ∧ (kindAt b i = 1 ∨ kindAt b i = 2) ∧ field b (entryAtOffset i + 8) 1 = 1 := by
  simp [ImageFault]

/-- No fault has another rank than these. -/
theorem imageFault_rank {b : List Byte} {rank o : Nat} (h : ImageFault b rank o) :
    rank ∈ [0, 1, 2, 11, 12, 13, 14, 15, 16, 17, 21, 22, 25, 26, 30] := by
  rcases h with ⟨rfl, -⟩ | ⟨rfl, -⟩ | ⟨rfl, -⟩ | ⟨lo, hi, -⟩ | ⟨h, -⟩ | ⟨rfl, -⟩
  · simp
  · simp
  · simp
  · interval_cases rank <;> simp
  · rcases h with rfl | rfl | rfl | rfl <;> simp
  · simp

/-! ## Rank 0: the recorder settings (R134, R183) -/

theorem rangeCheck_eq_some {b : List Byte} {off len lo hi o : Nat} :
    rangeCheck b off len lo hi = some o ↔ off = o ∧ (field b o len < lo ∨ hi < field b o len) := by
  unfold rangeCheck
  split <;> simp <;> rintro rfl <;> omega

theorem rangeCheck_names (b : List Byte) (off len lo hi : Nat) : Names off (rangeCheck b off len lo hi) :=
  fun _ h => (rangeCheck_eq_some.1 h).1.symm

theorem stationCheck_eq_some {b : List Byte} {st o : Nat} :
    stationCheck b st = some o ↔ 9 + st = o ∧ (3 < field b o 1 ∨ (st = field b 8 1 ∧ field b o 1 ≠ 1)) := by
  unfold stationCheck
  split
  · rw [rangeCheck_eq_some]
    omega
  · rw [rangeCheck_eq_some]
    omega

theorem witnessCheck_eq_some {b : List Byte} {i o : Nat} :
    witnessCheck b i = some o ↔ 57 + i = o ∧ field b o 1 ≠ 0 ∧ (31 < field b o 1 ∨ field b (9 + field b o 1) 1 ≠ 1
      ∨ field b o 1 = field b 8 1 ∨ ∃ j < 3, 57 + j ≠ o ∧ field b (57 + j) 1 = field b o 1) := by
  have hcode : tableCode b (field b (57 + i) 1) = some 1 ↔
      1 ≤ field b (57 + i) 1 ∧ field b (57 + i) 1 ≤ 31 ∧ field b (9 + field b (57 + i) 1) 1 = 1 := by
    unfold tableCode; split <;> simp <;> omega
  have others : (((List.range 3).filter (fun j => j != i)).map (fun j => field b (57 + j) 1)).contains
        (field b (57 + i) 1) = false
      ↔ ¬ ∃ j < 3, 57 + j ≠ 57 + i ∧ field b (57 + j) 1 = field b (57 + i) 1 := by
    simp [List.contains_eq_mem]
  have named : ∀ (c : Prop) [Decidable c], (if c then none else some (57 + i)) = some o ↔ 57 + i = o ∧ ¬ c := by
    intro c _; by_cases hc : c <;> simp [hc]
  refine (named _).trans (and_congr_right ?_)
  rintro rfl
  rw [hcode, others]
  by_cases twice : ∃ j < 3, 57 + j ≠ 57 + i ∧ field b (57 + j) 1 = field b (57 + i) 1
  · simp only [twice, not_true, and_false, or_false, or_true, and_true]
  · simp only [twice, not_false_eq_true, and_true, or_false]
    omega

/-- The offsets of the recorder settings in image order. -/
def settingOffsets : List Nat :=
  [8, 9] ++ (List.range 31).map (10 + ·) ++ [41, 43, 45, 47, 50, 52, 54, 55, 56, 57, 58, 59, 60, 61]

theorem settingsChecks_names (b : List Byte) : List.Forall₂ Names settingOffsets (settingsChecks b) := by
  have stations : List.Forall₂ Names ((List.range 31).map (10 + ·)) ((List.range 31).map fun i => stationCheck b (i + 1)) := by
    rw [List.forall₂_map_left_iff, List.forall₂_map_right_iff, List.forall₂_same]
    intro i _ a ha
    have := (stationCheck_eq_some.1 ha).1
    omega
  have entries : ∀ i, Names (57 + i) (witnessCheck b i) := fun i a ha => (witnessCheck_eq_some.1 ha).1.symm
  refine List.rel_append (List.rel_append ?_ stations) ?_
  · simp [rangeCheck_names]
  · simp [rangeCheck_names, entries 0, entries 1, entries 2]

/-- The checks of the settings that are numbers. -/
def numberChecks (b : List Byte) : List (Option Nat) :=
  settingBounds.map (fun x => rangeCheck b x.1 x.2.1 x.2.2.1 x.2.2.2)

/-- The settings in image order: the station table comes after the second number, the witness set after the eleventh. -/
theorem settingsChecks_eq (b : List Byte) :
    settingsChecks b = (numberChecks b).take 2 ++ (List.range 31).map (fun i => stationCheck b (i + 1))
      ++ (((numberChecks b).drop 2).take 9 ++ [witnessCheck b 0, witnessCheck b 1, witnessCheck b 2]
        ++ (numberChecks b).drop 11) := rfl

theorem mem_numberChecks {b : List Byte} {c : Option Nat} :
    c ∈ numberChecks b ↔ c ∈ (numberChecks b).take 2 ∨ c ∈ ((numberChecks b).drop 2).take 9 ∨ c ∈ (numberChecks b).drop 11 := by
  rw [← List.mem_append, ← List.mem_append]
  rfl

/-- A check of the recorder settings names an offset exactly when the setting there fails. -/
theorem mem_settingsChecks {b : List Byte} {o : Nat} : some o ∈ settingsChecks b ↔ SettingFails b o := by
  have regroup : ∀ first middle last table set : Prop,
      ((first ∨ table) ∨ (middle ∨ set) ∨ last) ↔ (first ∨ middle ∨ last) ∨ table ∨ set := by
    intros; tauto
  have numbers : (∃ x ∈ settingBounds, x.1 = o ∧ (field b o x.2.1 < x.2.2.1 ∨ x.2.2.2 < field b o x.2.1))
      ↔ some o ∈ numberChecks b := by
    simp only [numberChecks, List.mem_map, rangeCheck_eq_some]
  have stations : (10 ≤ o ∧ o ≤ 40 ∧ (3 < field b o 1 ∨ (o - 9 = field b 8 1 ∧ field b o 1 ≠ 1)))
      ↔ some o ∈ (List.range 31).map (fun i => stationCheck b (i + 1)) := by
    simp only [List.mem_map, List.mem_range, stationCheck_eq_some]
    constructor
    · rintro ⟨hlo, hhi, h⟩
      exact ⟨o - 10, by omega, by omega, by omega⟩
    · rintro ⟨i, hi, rfl, h⟩
      omega
  have entries : (57 ≤ o ∧ o ≤ 59 ∧ field b o 1 ≠ 0 ∧ (31 < field b o 1 ∨ field b (9 + field b o 1) 1 ≠ 1
      ∨ field b o 1 = field b 8 1 ∨ ∃ i < 3, 57 + i ≠ o ∧ field b (57 + i) 1 = field b o 1))
      ↔ some o ∈ [witnessCheck b 0, witnessCheck b 1, witnessCheck b 2] := by
    simp only [List.mem_cons, List.not_mem_nil, or_false, eq_comm (a := some o), witnessCheck_eq_some, ← or_and_right,
      ← and_assoc]
    refine and_congr_left fun _ => and_congr_left fun _ => ?_
    omega
  rw [SettingFails, numbers, stations, entries, mem_numberChecks, settingsChecks_eq]
  simp only [List.mem_append (a := some o)]
  exact regroup ..

theorem settingsChecks_least (b : List Byte) : LeastOf (SettingFails b) (firstFail (settingsChecks b)) :=
  (firstFail_least (ascending_of_names (settingsChecks_names b) (by decide))).congr fun _ => mem_settingsChecks

/-! ## Rank 1: the fields of the slots (R3) -/

theorem slotKindOf_none {n : Nat} : slotKindOf n = none ↔ 8 ≤ n := by
  rcases Nat.lt_or_ge n 8 with h | h
  · interval_cases n <;> simp [slotKindOf]
  · obtain ⟨m, rfl⟩ := Nat.exists_eq_add_of_le' h
    simp [slotKindOf]

theorem slotKindOf_lt {n : Nat} {k : SlotKind} (h : slotKindOf n = some k) : n < 8 := by
  by_contra hn
  simp [slotKindOf_none.2 (Nat.not_lt.1 hn)] at h

theorem slotKindOf_unused {n : Nat} : slotKindOf n = some .unused ↔ n = 0 := by
  refine ⟨fun h => ?_, by rintro rfl; rfl⟩
  have := slotKindOf_lt h
  interval_cases n <;> simp_all [slotKindOf]

/-- What the kind of a listed code other than 0 holds (R3). -/
theorem slotKindOf_used {n : Nat} {k : SlotKind} (h : slotKindOf n = some k) (hk : k ≠ .unused) :
    1 ≤ n ∧ n ≤ 7 ∧ (k = .pollutant ↔ n = 1) ∧ (k = .flow ↔ n = 4) ∧ (k.analogue = true ↔ n ≤ 5)
      ∧ (k.hasBasis = true ↔ n ≤ 2) := by
  have := slotKindOf_lt h
  interval_cases n <;> obtain rfl := Option.some.inj h <;> simp_all [SlotKind.analogue, SlotKind.hasBasis]

theorem checkIf_eq_some {held : Bool} {c : Option Nat} {o : Nat} : checkIf held c = some o ↔ held = true ∧ c = some o := by
  cases held <;> simp [checkIf]

/-- The offsets of the fields of a slot entry that are checked, in image order. -/
def slotFieldOffsets : List Nat := [1, 2, 3, 4, 7, 8, 9, 12, 15, 17, 20]

theorem guard_eq_some {c : Prop} [Decidable c] {off o : Nat} :
    (if c then none else some off) = some o ↔ off = o ∧ ¬ c := by
  by_cases hc : c <;> simp [hc]

theorem tableCode_eq_some {b : List Byte} {st code : Nat} :
    tableCode b st = some code ↔ 1 ≤ st ∧ st ≤ 31 ∧ field b (9 + st) 1 = code := by
  unfold tableCode
  split <;> simp <;> omega

/-- A check of a slot entry in use names an offset exactly when the field there fails. -/
theorem mem_slotChecks {b : List Byte} {i o : Nat} :
    some o ∈ slotChecks b i ↔ ∃ d < 22, o = entryAtOffset i + d ∧ SlotFieldFails b i d := by
  have code : kindCode b i = field b (entryAtOffset i) 1 := rfl
  unfold slotChecks
  split
  case h_1 h =>
    rw [slotKindOf_none, code] at h
    simp only [List.mem_singleton, Option.some.injEq, SlotFieldFails]
    constructor
    · rintro rfl
      exact ⟨0, by omega, rfl, Or.inl ⟨rfl, h⟩⟩
    · rintro ⟨d, -, rfl, ⟨rfl, -⟩ | ⟨-, h7, -⟩⟩
      · rfl
      · omega
  case h_2 h =>
    rw [slotKindOf_unused, code] at h
    simp only [List.not_mem_nil, false_iff, SlotFieldFails, h]
    omega
  case h_3 k hk h =>
    obtain ⟨hlo, hhi, hp, hflow, hanalogue, hbasis⟩ := slotKindOf_used h hk
    rw [code] at hlo hhi hp hflow hanalogue hbasis
    have offset : slotOffset i = entryAtOffset i := rfl
    simp only [List.mem_cons, List.not_mem_nil, or_false, eq_comm (a := some o), guard_eq_some, rangeCheck_eq_some,
      checkIf_eq_some, tableCode_eq_some, beq_iff_eq, hp, hflow, hanalogue, hbasis, offset, intervals,
      List.contains_iff_mem, SlotFieldFails]
    constructor
    · rintro (⟨rfl, h⟩ | ⟨rfl, h⟩ | ⟨rfl, h⟩ | ⟨hk, rfl, h⟩ | ⟨hk, rfl, h⟩ | ⟨hk, rfl, h⟩ | ⟨hk, rfl, h⟩ | ⟨hk, rfl, h⟩
        | ⟨hk, rfl, h⟩ | ⟨hk, rfl, h⟩ | ⟨hk, rfl, h⟩)
      · exact ⟨1, by omega, rfl, Or.inr ⟨hlo, hhi, by simp; omega⟩⟩
      · exact ⟨2, by omega, rfl, Or.inr ⟨hlo, hhi, by simp; omega⟩⟩
      · exact ⟨3, by omega, rfl, Or.inr ⟨hlo, hhi, by simpa using h⟩⟩
      · exact ⟨4, by omega, rfl, Or.inr ⟨hlo, hhi, by simp; omega⟩⟩
      · exact ⟨7, by omega, rfl, Or.inr ⟨hlo, hhi, by simp; omega⟩⟩
      · exact ⟨8, by omega, rfl, Or.inr ⟨hlo, hhi, by simp; omega⟩⟩
      · exact ⟨9, by omega, rfl, Or.inr ⟨hlo, hhi, by simp; omega⟩⟩
      · exact ⟨12, by omega, rfl, Or.inr ⟨hlo, hhi, by simp; omega⟩⟩
      · exact ⟨15, by omega, rfl, Or.inr ⟨hlo, hhi, by simp; omega⟩⟩
      · exact ⟨17, by omega, rfl, Or.inr ⟨hlo, hhi, by simp; omega⟩⟩
      · exact ⟨20, by omega, rfl, Or.inr ⟨hlo, hhi, by simp; omega⟩⟩
    · rintro ⟨d, -, rfl, ⟨-, hk⟩ | ⟨-, -, ⟨rfl, h⟩ | ⟨rfl, h⟩ | ⟨rfl, h⟩ | ⟨rfl, hk, h⟩ | ⟨rfl, hk, h⟩ | ⟨rfl, hk, h⟩
        | ⟨rfl | rfl | rfl, hk, h⟩ | ⟨rfl, hk, h⟩ | ⟨rfl, hk, h⟩⟩⟩
      · omega
      case inr.inr.inr.inl => simpa using h
      all_goals simp; omega
theorem checkIf_names {held : Bool} {off : Nat} {c : Option Nat} (h : Names off c) : Names off (checkIf held c) :=
  fun a ha => h a (checkIf_eq_some.1 ha).2

theorem guard_names {c : Prop} [Decidable c] (off : Nat) : Names off (if c then none else some off) :=
  fun _ ha => (guard_eq_some.1 ha).1.symm

theorem slotChecks_ascending (b : List Byte) (i : Nat) : Ascending (slotChecks b i) := by
  unfold slotChecks
  split
  · exact List.pairwise_singleton ..
  · exact List.Pairwise.nil
  · refine ascending_of_names (offs := slotFieldOffsets.map (slotOffset i + ·)) ?_ ?_
    · simp [slotFieldOffsets, guard_names, checkIf_names, rangeCheck_names]
    · exact List.pairwise_map.2 ((by decide : slotFieldOffsets.Pairwise (· < ·)).imp (Nat.add_lt_add_left · _))

theorem usedSlots_sorted (b : List Byte) : (usedSlots b).Pairwise (· < ·) := List.pairwise_lt_range.filter _

theorem mem_usedSlots {b : List Byte} {i : Nat} : i ∈ usedSlots b ↔ i < 16 ∧ kindAt b i ≠ 0 := by
  simp [usedSlots, kindCode, kindAt, entryAtOffset, slotOffset]

/-- The offsets of an entry are before those of a later one. -/
theorem entryAtOffset_lt {i j d : Nat} (h : i < j) (hd : d < 22) (e : Nat) : entryAtOffset i + d < entryAtOffset j + e := by
  unfold entryAtOffset
  omega

theorem slotFields_least (b : List Byte) : LeastOf (ImageFault b 1) (firstFail ((usedSlots b).flatMap (slotChecks b))) := by
  have ascending : Ascending ((usedSlots b).flatMap (slotChecks b)) := by
    refine List.pairwise_flatMap.2 ⟨fun i _ => slotChecks_ascending b i, (usedSlots_sorted b).imp ?_⟩
    rintro i j hij x hx y hy a rfl c rfl
    obtain ⟨d, hd, rfl, -⟩ := mem_slotChecks.1 hx
    obtain ⟨e, -, rfl, -⟩ := mem_slotChecks.1 hy
    exact (entryAtOffset_lt hij hd e).le
  refine (firstFail_least ascending).congr fun o => ?_
  simp only [List.mem_flatMap, mem_slotChecks, mem_usedSlots, imageFault_field]
  constructor
  · rintro ⟨i, ⟨hi, -⟩, fails⟩
    exact ⟨i, hi, fails⟩
  · rintro ⟨i, hi, d, hd, rfl, fails⟩
    refine ⟨i, ⟨hi, ?_⟩, d, hd, rfl, fails⟩
    rcases fails with ⟨-, large⟩ | ⟨used, -⟩
    · exact Nat.ne_of_gt (show 0 < kindAt b i from Nat.lt_of_lt_of_le (by decide) large)
    · exact Nat.ne_of_gt used

/-! ## Rank 2: a source that a slot of lower number has (R6) -/

theorem uniqueCheck_eq_some {b : List Byte} {i o : Nat} (hi : i < 16) :
    uniqueCheck b i = some o ↔ entryAtOffset i + 2 = o
      ∧ ∃ j < i, kindAt b j ≠ 0 ∧ field b (entryAtOffset j + 1) 1 = field b (entryAtOffset i + 1) 1
        ∧ field b (entryAtOffset j + 2) 1 = field b (entryAtOffset i + 2) 1 := by
  have taken : (usedSlots b).any (fun j => decide (j < i) && sourceOf b j == sourceOf b i) = true
      ↔ ∃ j < i, kindAt b j ≠ 0 ∧ field b (entryAtOffset j + 1) 1 = field b (entryAtOffset i + 1) 1
        ∧ field b (entryAtOffset j + 2) 1 = field b (entryAtOffset i + 2) 1 := by
    simp only [List.any_eq_true, mem_usedSlots, Bool.and_eq_true, decide_eq_true_eq, beq_iff_eq, sourceOf, Prod.mk.injEq]
    constructor
    · rintro ⟨j, ⟨-, hk⟩, hj, hs⟩
      exact ⟨j, hj, hk, hs⟩
    · rintro ⟨j, hj, hk, hs⟩
      exact ⟨j, ⟨hj.trans hi, hk⟩, hj, hs⟩
  rw [← taken, uniqueCheck]
  split
  · simp_all [slotOffset, entryAtOffset]
  · simp_all

theorem sources_least (b : List Byte) : LeastOf (ImageFault b 2) (firstFail ((usedSlots b).map (uniqueCheck b))) := by
  have ascending : Ascending ((usedSlots b).map (uniqueCheck b)) := by
    refine List.pairwise_map.2 ((usedSlots_sorted b).imp_of_mem ?_)
    intro i j hi hj hij a ha c hc
    obtain ⟨rfl, -⟩ := (uniqueCheck_eq_some (mem_usedSlots.1 hi).1).1 ha
    obtain ⟨rfl, -⟩ := (uniqueCheck_eq_some (mem_usedSlots.1 hj).1).1 hc
    exact (entryAtOffset_lt hij (by decide) 2).le
  refine (firstFail_least ascending).congr fun o => ?_
  simp only [List.mem_map, imageFault_source]
  constructor
  · rintro ⟨i, used, h⟩
    obtain ⟨hi, hk⟩ := mem_usedSlots.1 used
    obtain ⟨rfl, twice⟩ := (uniqueCheck_eq_some hi).1 h
    exact ⟨i, hi, rfl, hk, twice⟩
  · rintro ⟨i, hi, rfl, hk, twice⟩
    exact ⟨i, mem_usedSlots.2 ⟨hi, hk⟩, (uniqueCheck_eq_some hi).2 ⟨rfl, twice⟩⟩

/-! ## Ranks 11 to 17: too many slots of a kind (R2, R6) -/

/-- The entry of a filtered range at a place has that many before it. -/
theorem getElem?_filter_range {p : Nat → Bool} {m n i : Nat} :
    ((List.range m).filter p)[n]? = some i ↔ i < m ∧ p i = true ∧ (List.range i).countP p = n := by
  induction m with
  | zero => simp
  | succ m ih =>
    rw [List.range_succ, List.filter_append, List.getElem?_append, ← List.countP_eq_length_filter]
    split
    case isTrue short =>
      rw [ih]
      refine ⟨fun ⟨hi, h⟩ => ⟨by omega, h⟩, fun ⟨hi, hp, hn⟩ => ⟨?_, hp, hn⟩⟩
      rcases Nat.lt_succ_iff_lt_or_eq.1 hi with hi | rfl
      · exact hi
      · omega
    case isFalse long =>
      have beyond : ¬ (i < m ∧ p i = true ∧ (List.range i).countP p = n) := fun h => by
        have := (List.getElem?_eq_some_iff.1 (ih.2 h)).1
        rw [← List.countP_eq_length_filter] at this
        exact long this
      constructor
      · intro h
        have hp : p m = true := by
          by_contra hp
          simp [hp] at h
        obtain ⟨hn, rfl⟩ : n ≤ (List.range m).countP p ∧ m = i := by
          simpa [hp, List.getElem?_singleton, Nat.sub_eq_zero_iff_le] using h
        exact ⟨Nat.lt_succ_self _, hp, by omega⟩
      · rintro ⟨hi, hp, hn⟩
        rcases Nat.lt_succ_iff_lt_or_eq.1 hi with hi | rfl
        · exact absurd ⟨hi, hp, hn⟩ beyond
        · simp [hp, hn]

/-- The number of entries that meet a test grows along a range, and strictly past one that meets it. -/
theorem countP_range_lt {p : Nat → Bool} {i j : Nat} (h : i < j) (hp : p i = true) :
    (List.range i).countP p < (List.range j).countP p := by
  have step : (List.range (i + 1)).countP p = (List.range i).countP p + 1 := by
    simp [List.range_succ, hp]
  have sub : (List.range (i + 1)).countP p ≤ (List.range j).countP p :=
    (List.range_sublist.2 h).countP_le
  omega

theorem slotsOfCode_eq {b : List Byte} {code : Nat} (h : code ≠ 0) :
    slotsOfCode b code = (List.range 16).filter (fun i => kindAt b i == code) := by
  rw [slotsOfCode, usedSlots, List.filter_filter]
  refine List.filter_congr fun i _ => ?_
  change (kindAt b i == code && kindAt b i != 0) = (kindAt b i == code)
  by_cases hk : kindAt b i = code <;> simp [hk, h]

theorem upperCheck_eq_some {b : List Byte} {code n o : Nat} (h : code ≠ 0) :
    upperCheck b code n = some o ↔ ∃ i < 16, o = entryAtOffset i ∧ kindAt b i = code
      ∧ (List.range i).countP (fun j => kindAt b j == code) = n := by
  simp only [upperCheck, slotsOfCode_eq h, Option.map_eq_some_iff, getElem?_filter_range, beq_iff_eq]
  constructor
  · rintro ⟨i, ⟨hi, hk, hn⟩, rfl⟩
    exact ⟨i, hi, rfl, hk, hn⟩
  · rintro ⟨i, hi, rfl, hk, hn⟩
    exact ⟨i, ⟨hi, hk, hn⟩, rfl⟩

/-- Without a slot of a kind past its bound, the table holds no more of it. -/
theorem upperCheck_eq_none {b : List Byte} {code n : Nat} (h : code ≠ 0) :
    upperCheck b code n = none ↔ (List.range 16).countP (fun j => kindAt b j == code) ≤ n := by
  rw [upperCheck, slotsOfCode_eq h, Option.map_eq_none_iff, List.getElem?_eq_none_iff, ← List.countP_eq_length_filter]

theorem upperCheck_least (b : List Byte) {code : Nat} (lo : 1 ≤ code) (hi : code ≤ 7) :
    LeastOf (ImageFault b (10 + code)) (upperCheck b code (kindBound code)) := by
  have hc : code ≠ 0 := by omega
  refine ⟨fun h o => ?_, fun o h => ?_⟩
  · rw [imageFault_upper lo hi]
    rintro ⟨i, hi, -, hk, many⟩
    have few := (upperCheck_eq_none hc).1 h
    have := countP_range_lt (p := fun j => kindAt b j == code) hi (by simpa using hk)
    omega
  · obtain ⟨i, hlt, rfl, hk, hn⟩ := (upperCheck_eq_some hc).1 h
    refine ⟨(imageFault_upper lo hi).2 ⟨i, hlt, rfl, hk, hn.ge⟩, fun y hy => ?_⟩
    obtain ⟨j, -, rfl, hj, many⟩ := (imageFault_upper lo hi).1 hy
    by_contra hlt
    have : j < i := by unfold entryAtOffset at hlt; omega
    have := countP_range_lt (p := fun j => kindAt b j == code) this (by simpa using hj)
    omega

/-! ## Ranks 21 to 26: a kind that is lacking (R2, R6) -/

theorem slotsOfCode_isEmpty {b : List Byte} {code : Nat} (h : code ≠ 0) :
    (slotsOfCode b code).isEmpty = true ↔ ∀ j < 16, kindAt b j ≠ code := by
  simp [slotsOfCode_eq h]

/-- A list of codes 1 to 7 is as long as it has entries of each of them. -/
theorem length_eq_sum_counts (f : Nat → Nat) (l : List Nat) (h : ∀ i ∈ l, 1 ≤ f i ∧ f i ≤ 7) :
    l.length = l.countP (f · == 1) + l.countP (f · == 2) + l.countP (f · == 3) + l.countP (f · == 4)
      + l.countP (f · == 5) + l.countP (f · == 6) + l.countP (f · == 7) := by
  induction l with
  | nil => rfl
  | cons i l ih =>
    obtain ⟨lo, hi⟩ := h i (by simp)
    rw [List.length_cons, ih fun j hj => h j (by simp [hj])]
    generalize hk : f i = k at lo hi
    interval_cases k <;> simp [hk] <;> omega

/-- A table that holds no kind too often, no code that is not listed, and none of a required kind has an entry left. -/
theorem exists_unused {b : List Byte} {code : Nat} (h : code ∈ [1, 2, 5, 6])
    (earlier : ∀ r < 20 + code, ∀ o, ¬ ImageFault b r o) (lacking : ∀ j < 16, kindAt b j ≠ code) :
    ∃ i < 16, kindAt b i = 0 := by
  by_contra full
  push Not at full
  have listed : ∀ i < 16, kindAt b i ≤ 7 := by
    intro i hi
    by_contra large
    exact earlier 1 (by omega) _ (imageFault_field.2 ⟨i, hi, 0, by omega, rfl, Or.inl ⟨rfl, Nat.not_le.1 large⟩⟩)
  have bound : ∀ c, 1 ≤ c → c ≤ 7 → (List.range 16).countP (fun j => kindAt b j == c) ≤ kindBound c := by
    intro c lo hi
    rw [← upperCheck_eq_none (by omega), Option.eq_none_iff_forall_ne_some]
    intro o ho
    have small : 10 + c < 20 + code := by
      have : code ≠ 0 := by rintro rfl; simp at h
      omega
    exact earlier _ small o ((upperCheck_least b lo hi).2 o ho).1
  have none : (List.range 16).countP (fun j => kindAt b j == code) = 0 := by
    simpa [List.countP_eq_zero] using lacking
  have total := length_eq_sum_counts (kindAt b) (List.range 16) fun i hi => by
    rw [List.mem_range] at hi
    exact ⟨Nat.pos_of_ne_zero (full i hi), listed i hi⟩
  have b1 : (List.range 16).countP (kindAt b · == 1) ≤ 10 := bound 1 (by decide) (by decide)
  have b2 : (List.range 16).countP (kindAt b · == 2) ≤ 1 := bound 2 (by decide) (by decide)
  have b3 : (List.range 16).countP (kindAt b · == 3) ≤ 1 := bound 3 (by decide) (by decide)
  have b4 : (List.range 16).countP (kindAt b · == 4) ≤ 1 := bound 4 (by decide) (by decide)
  have b5 : (List.range 16).countP (kindAt b · == 5) ≤ 1 := bound 5 (by decide) (by decide)
  have b6 : (List.range 16).countP (kindAt b · == 6) ≤ 1 := bound 6 (by decide) (by decide)
  have b7 : (List.range 16).countP (kindAt b · == 7) ≤ 1 := bound 7 (by decide) (by decide)
  rw [List.length_range] at total
  simp only [List.mem_cons, List.not_mem_nil, or_false] at h
  rcases h with rfl | rfl | rfl | rfl <;> omega

/-- The first entry that meets a test is the one at the least offset. -/
theorem find_entry_least (p : Nat → Bool) (d : Nat) :
    LeastOf (fun o => ∃ i < 16, o = entryAtOffset i + d ∧ p i = true)
      (((List.range 16).find? p).map (fun i => entryAtOffset i + d)) := by
  cases hf : (List.range 16).find? p with
  | none =>
    refine ⟨fun _ o => ?_, nofun⟩
    rintro ⟨i, hi, -, hp⟩
    exact List.find?_eq_none.1 hf i (List.mem_range.2 hi) hp
  | some i =>
    obtain ⟨hp, hi, before⟩ := List.find?_range_eq_some.1 hf
    refine ⟨nofun, fun o ho => ?_⟩
    obtain rfl : entryAtOffset i + d = o := Option.some.inj ho
    refine ⟨⟨i, List.mem_range.1 hi, rfl, hp⟩, ?_⟩
    rintro y ⟨j, -, rfl, hj⟩
    by_contra hlt
    have hji : j < i := by unfold entryAtOffset at hlt; omega
    simpa [hj] using before j hji

theorem lowerCheck_least {b : List Byte} {code : Nat} (h : code ∈ [1, 2, 5, 6])
    (earlier : ∀ r < 20 + code, ∀ o, ¬ ImageFault b r o) :
    LeastOf (ImageFault b (20 + code)) (lowerCheck b code) := by
  have hc : code ≠ 0 := by rintro rfl; simp at h
  refine LeastOf.congr ?_ fun o => (imageFault_lower h).symm
  rw [lowerCheck]
  split
  case isTrue lacking =>
    rw [slotsOfCode_isEmpty hc] at lacking
    obtain ⟨none, some⟩ := find_entry_least (fun i => kindAt b i == 0) 0
    obtain ⟨k, hk, hk0⟩ := exists_unused h earlier lacking
    cases hf : ((List.range 16).find? (fun i => kindAt b i == 0)).map (fun i => entryAtOffset i + 0) with
    | none => exact absurd ⟨k, hk, rfl, by simpa using hk0⟩ (none hf _)
    | some first =>
      have named : firstUnused b = first := congrArg (·.getD 64) hf
      obtain ⟨⟨i, hi, at_, hi0⟩, least⟩ := some first hf
      refine ⟨nofun, fun o ho => ?_⟩
      obtain rfl : first = o := named.symm.trans (Option.some.inj ho)
      refine ⟨⟨lacking, i, hi, at_, by simpa using hi0⟩, ?_⟩
      rintro y ⟨-, j, hj, rfl, hj0⟩
      exact least _ ⟨j, hj, rfl, by simpa using hj0⟩
  case isFalse present =>
    rw [slotsOfCode_isEmpty hc] at present
    exact ⟨fun _ o hf => present hf.1, nofun⟩

/-! ## Rank 30: a WET basis without an H2O slot (R6) -/

theorem waterCheck_least (b : List Byte) : LeastOf (ImageFault b 30) (waterCheck b) := by
  refine LeastOf.congr ?_ fun o => imageFault_water.symm
  rw [waterCheck]
  split
  case isTrue dry =>
    rw [slotsOfCode_isEmpty (by decide)] at dry
    rw [usedSlots, List.find?_filter]
    refine (find_entry_least _ 8).congr fun o => ?_
    simp only [decide_eq_true_eq, bne_iff_ne, Bool.and_eq_true, Bool.or_eq_true, beq_iff_eq]
    rw [and_iff_right dry]
    refine exists_congr fun i => and_congr_right fun _ => and_congr_right fun _ => ?_
    change (kindAt b i ≠ 0 ∧ (kindAt b i = 1 ∨ kindAt b i = 2) ∧ field b (entryAtOffset i + 8) 1 = 1) ↔ _
    omega
  case isFalse present =>
    rw [slotsOfCode_isEmpty (by decide)] at present
    exact ⟨fun _ o hf => present hf.1, nofun⟩

/-! ## The image as a whole -/

/-- The checks of an image with the ranks of their faults. -/
def imageChecks (b : List Byte) : List (Nat × List (Option Nat)) :=
  [(0, settingsChecks b), (1, (usedSlots b).flatMap (slotChecks b)), (2, (usedSlots b).map (uniqueCheck b)),
   (11, [upperCheck b 1 10]), (12, [upperCheck b 2 1]), (13, [upperCheck b 3 1]), (14, [upperCheck b 4 1]),
   (15, [upperCheck b 5 1]), (16, [upperCheck b 6 1]), (17, [upperCheck b 7 1]),
   (21, [lowerCheck b 1]), (22, [lowerCheck b 2]), (25, [lowerCheck b 5]), (26, [lowerCheck b 6]), (30, [waterCheck b])]

theorem imageError_eq (b : List Byte) : imageError b = firstFail ((imageChecks b).flatMap (·.2)) := by
  simp only [imageError, imageChecks, bindingChecks, List.flatMap_cons, List.flatMap_nil, List.append_assoc,
    List.cons_append, List.nil_append, List.append_nil]

theorem imageChecks_least (b : List Byte) : ∀ g ∈ imageChecks b, (∀ r < g.1, ∀ o, ¬ ImageFault b r o) →
    LeastOf (ImageFault b g.1) (firstFail g.2) := by
  have upper : ∀ {code n}, 1 ≤ code → code ≤ 7 → n = kindBound code →
      LeastOf (ImageFault b (10 + code)) (firstFail [upperCheck b code n]) := by
    rintro code _ lo hi rfl
    rw [firstFail_singleton]
    exact upperCheck_least b lo hi
  have lower : ∀ {code}, code ∈ [1, 2, 5, 6] → (∀ r < 20 + code, ∀ o, ¬ ImageFault b r o) →
      LeastOf (ImageFault b (20 + code)) (firstFail [lowerCheck b code]) := by
    intro code h earlier
    rw [firstFail_singleton]
    exact lowerCheck_least h earlier
  simp only [imageChecks, List.forall_mem_cons, List.not_mem_nil, false_implies, implies_true, and_true]
  exact ⟨fun _ => (settingsChecks_least b).congr fun _ => imageFault_setting.symm,
    fun _ => slotFields_least b, fun _ => sources_least b,
    fun _ => upper (by decide) (by decide) rfl, fun _ => upper (by decide) (by decide) rfl,
    fun _ => upper (by decide) (by decide) rfl, fun _ => upper (by decide) (by decide) rfl,
    fun _ => upper (by decide) (by decide) rfl, fun _ => upper (by decide) (by decide) rfl,
    fun _ => upper (by decide) (by decide) rfl,
    lower (code := 1) (by decide), lower (code := 2) (by decide), lower (code := 5) (by decide),
    lower (code := 6) (by decide), fun _ => by rw [firstFail_singleton]; exact waterCheck_least b⟩

/-- The image has no error exactly when no check fails, and an error names the first fault. -/
theorem imageError_first (b : List Byte) :
    (imageError b = none → ∀ r o, ¬ ImageFault b r o) ∧ ∀ off, imageError b = some off → FirstFault b off := by
  rw [imageError_eq]
  refine firstFail_groups ?_ (fun r o h => ?_) (imageChecks_least b)
  · simp [imageChecks]
  · have := imageFault_rank h
    simpa [imageChecks, eq_comm] using this

theorem FirstFault.unique {b : List Byte} {x y : Nat} (hx : FirstFault b x) (hy : FirstFault b y) : x = y := by
  obtain ⟨r, fx, lx⟩ := hx
  obtain ⟨q, fy, ly⟩ := hy
  have := lx q y fy
  have := ly r x fx
  omega

theorem imageError_of_firstFault {b : List Byte} {off : Nat} (h : FirstFault b off) : imageError b = some off := by
  obtain ⟨none, some⟩ := imageError_first b
  cases e : imageError b with
  | none =>
    obtain ⟨r, hr, -⟩ := h
    exact absurd hr (none e r off)
  | some o => rw [(some o e).unique h]

theorem imageError_eq_none {b : List Byte} : imageError b = none ↔ ∀ rank off, ¬ ImageFault b rank off := by
  obtain ⟨none, some⟩ := imageError_first b
  refine ⟨none, fun h => ?_⟩
  cases e : imageError b with
  | none => rfl
  | some o =>
    obtain ⟨r, hr, -⟩ := some o e
    exact absurd hr (h r o)

/-! ## CONFIG_COMMIT (R183) -/

theorem commitCheckHolds_iff {b : List Byte} {length check : BitVec 16} :
    commitCheckHolds b length check = true
      ↔ 416 ≤ length.toNat ∧ length.toNat ≤ 1024 ∧ check = crc16 (slice b 8 (length.toNat - 8)) := by
  simp [commitCheckHolds, and_assoc]

/-- Settles O52: what a commit does when R166 takes it, and the order of the checks by `imageError_first`. -/
theorem configCommitChecksThenErases : Obligations.ConfigCommitChecksThenErases := by
  refine ⟨fun head length check s taken commission => ?_, fun b off => imageError_of_firstFault,
    fun b => imageError_eq_none.2⟩
  have reaches : exec (.configCommit head length check) s = .next (configCommit head length check s) := by
    simp [exec, execConfigCommit, query_taken taken, takesConfig, commission]
  rw [reaches]
  refine ⟨fun busy => ?_, fun idle no => ?_, fun idle fits off error => ?_, fun idle fits none => ?_⟩
  · rw [configCommit, if_pos busy]
    rfl
  · rw [configCommit, if_neg (not_not_intro idle), if_pos (Bool.eq_false_iff.2 (mt commitCheckHolds_iff.1 no))]
    rfl
  · rw [configCommit, if_neg (not_not_intro idle), commitCheckHolds_iff.2 fits, error]
    rfl
  · rw [configCommit, if_neg (not_not_intro idle), commitCheckHolds_iff.2 fits, none]
    rfl

end Sys2Proof.Machine
end

section
/-! The cold start without recording (R179, R182), and the settings of an image (7.7.6). -/

namespace Sys2Proof.Machine

/-! ## The settings that an image holds -/

theorem stationKindOf_eq (n : Nat) :
    stationKindOf n = [StationKind.absent, .recorder, .source, .terminal].getD n .absent := by
  rcases Nat.lt_or_ge n 4 with h | h
  · interval_cases n <;> rfl
  · obtain ⟨m, rfl⟩ := Nat.exists_eq_add_of_le' h
    simp [stationKindOf]

theorem slotKindOf_eq (n : Nat) : (slotKindOf n).getD .unused
    = [SlotKind.unused, .pollutant, .o2, .h2o, .flow, .furnace, .feed, .disturb].getD n .unused := by
  rcases Nat.lt_or_ge n 8 with h | h
  · interval_cases n <;> rfl
  · obtain ⟨m, rfl⟩ := Nat.exists_eq_add_of_le' h
    simp [slotKindOf]

/-- A choice between two codes is the first exactly when its condition holds. -/
theorem ite_eq_of_ne {α : Type} {x y : α} (h : y ≠ x) {c : Prop} [Decidable c] : (if c then x else y) = x ↔ c := by
  by_cases hc : c <;> simp [hc, h]

/-- The settings read from an image are its fields at their offsets (7.7.6). -/
theorem settingsOf_settings (b : List Byte) : ImageSettings b (settingsOf b) := by
  refine ⟨rfl, rfl, rfl, by simp [settingsOf], fun st lo hi => ?_, by simp [settingsOf], fun i hi => ?_⟩
  · have place : 10 + (st - 1) = 9 + st := by omega
    have entry : st - 1 < 31 := by omega
    rw [← stationKindOf_eq]
    simp [stationKind, settingsOf, Nat.ne_of_gt lo, entry, place]
  · have slot : (settingsOf b).slots.getD i {} = slotOf b i := by simp [settingsOf, hi]
    simp only [slot]
    refine ⟨slotKindOf_eq _, rfl, rfl, rfl, rfl, ?_, ?_, rfl, rfl, rfl, rfl, rfl⟩
    · exact ite_eq_of_ne (by decide)
    · exact ite_eq_of_ne (by decide)

/-- An image is valid when its marker, length and check hold and no check of its contents fails (R133, R183). -/
theorem imageValid_iff (b : List Byte) : imageValid b = true ↔
    b.take 2 = [0x3C, 0x5A] ∧ 416 ≤ field b 2 2 ∧ field b 2 2 ≤ 1024
      ∧ field b 4 2 = (crc16 (slice b 8 (field b 2 2 - 8))).toNat ∧ ∀ rank off, ¬ ImageFault b rank off := by
  rw [imageValid, Bool.and_eq_true, Option.isNone_iff_eq_none, imageError_eq_none]
  simp [imageCheckHolds, and_assoc]

/-! ## The cold start (R179) -/

theorem exec_coldStart_due {s : State} (due : coldStartDue s = true) (svc : Bool) :
    exec (.coldStart svc) s = .next (coldStart svc s) := by simp [exec, execColdStart, due]

/-- With SVC asserted the cold start is COMMISSION, whatever the image (R179). -/
theorem coldStart_commission (s : State) :
    coldStart true s = startCommission (storedImage s) (coldRam (loadedSettings (storedImage s)) s) := rfl

/-- Without SVC and without a valid image it is UNCONFIGURED (R179). -/
theorem coldStart_unconfigured {s : State} (h : imageValid (storedImage s) = false) :
    coldStart false s = startUnconfigured (coldRam (fallbackSettings (storedImage s)) s) := by
  simp [coldStart, loadedSettings, h]

/-- Settles O58: with SVC asserted, and without SVC when the image is not valid. -/
theorem coldStartWithoutRecording : Obligations.ColdStartWithoutRecording := by
  intro s due
  refine ⟨settingsOf_settings, imageValid_iff, ⟨_, exec_coldStart_due due true, ?_⟩,
    fun invalid => ⟨_, exec_coldStart_due due false, ?_⟩⟩
  · rw [coldStart_commission]
    exact ⟨rfl, rfl, rfl, rfl, rfl, rfl, rfl, rfl, rfl, rfl, rfl, rfl, rfl, rfl⟩
  · rw [coldStart_unconfigured invalid]
    exact ⟨rfl, rfl, rfl, rfl, rfl, rfl, rfl, rfl, rfl, rfl, rfl, rfl, rfl, rfl, rfl⟩

end Sys2Proof.Machine
end

section
/-! A closed minute: its entries, its operating state and what its close leaves in each block (R15, R21 to R24, R37, R40 to
R44), and the comparison with the resume point (R99). -/

namespace Sys2Proof.Machine

/-! ## The entries of a minute -/

/-- The slots in use stand in slot-number order (R1). -/
theorem slotsInUse_keys_nodup (c : Settings) : ((slotsInUse c).map (·.1)).Nodup := by
  have all : (c.slots.zipIdx.map (fun p => (p.2, p.1))).Pairwise (fun p q => p.1 < q.1) := by
    have := List.pairwise_lt_range' (s := 0) (n := c.slots.length) (step := 1)
    rw [← List.zipIdx_map_snd] at this
    exact List.pairwise_map.2 (List.pairwise_map.1 this)
  exact List.pairwise_map.2 ((all.filter _).imp fun h => Nat.ne_of_lt h)

theorem slotOfKind_spec {c : Settings} {k : SlotKind} {f : Nat × Slot} (h : slotOfKind c k = some f) :
    f ∈ slotsInUse c ∧ f.2.kind = k :=
  ⟨List.mem_of_find?_eq_some h, by simpa using List.find?_some h⟩

/-- The entry of a slot number, where no number stands twice. -/
theorem entryAt_eq_some {l : List (Nat × MinuteEntry)} (h : (l.map (·.1)).Nodup) {i : Nat} {e : MinuteEntry} :
    entryAt l i = some e ↔ (i, e) ∈ l := by
  induction l with
  | nil => simp [entryAt]
  | cons x l ih =>
    obtain ⟨j, y⟩ := x
    obtain ⟨fresh, h⟩ := List.nodup_cons.1 h
    by_cases hj : j = i
    · subst hj
      have absent : (j, e) ∉ l := fun hm => fresh (List.mem_map.2 ⟨_, hm, rfl⟩)
      simp [entryAt, absent, eq_comm]
    · have rest : entryAt ((j, y) :: l) i = entryAt l i := by simp [entryAt, hj]
      rw [rest, ih h]
      simp [Ne.symm hj]

/-- A minute has one entry for each slot in use (R21, R24). -/
theorem minuteEntries_keys (k : CloseKind) (s : State) :
    (minuteEntries k s).map (·.1) = (slotsInUse s.cfg).map (·.1) := by
  unfold minuteEntries sampledEntries
  split <;> simp

theorem entryAt_minuteEntries {k : CloseKind} {s : State} {i : Nat} {e : MinuteEntry} :
    entryAt (minuteEntries k s) i = some e ↔ (i, e) ∈ minuteEntries k s :=
  entryAt_eq_some (minuteEntries_keys k s ▸ slotsInUse_keys_nodup s.cfg)

/-- A minute without samples gives every slot the status of its close kind (R24). -/
theorem minuteEntries_unsampled {k : CloseKind} (h : k ≠ .withSamples) (s : State) :
    minuteEntries k s = (slotsInUse s.cfg).map (fun q => (q.1, { status := k.status })) := by simp [minuteEntries, h]

/-- The accumulator whose samples the minute takes for a slot (R15, R113). -/
def minuteAcc (s : State) (i : Nat) : Acc := (s.minutes.setAside.getD s.accs).getD i {}

/-- A slot other than a pollutant is entered in the reference stage (R21). -/
theorem mem_sampled_reference {s : State} {q : Nat × Slot} (hq : q ∈ slotsInUse s.cfg) (hk : q.2.kind ≠ .pollutant) :
    (q.1, referenceEntry q.2 (minuteAcc s q.1)) ∈ minuteEntries .withSamples s :=
  List.mem_map.2 ⟨q, hq, by simp [hk, minuteAcc, openSamples]⟩

/-- A pollutant is entered with the O2 and H2O entries of the minute (R21). -/
theorem mem_sampled_pollutant {s : State} {q o : Nat × Slot} (hq : q ∈ slotsInUse s.cfg) (hk : q.2.kind = .pollutant)
    (ho : slotOfKind s.cfg .o2 = some o) :
    (q.1, pollutantEntry s.cfg q.2 (minuteAcc s q.1) o.2 (referenceEntry o.2 (minuteAcc s o.1))
      ((slotOfKind s.cfg .h2o).map (fun h => referenceEntry h.2 (minuteAcc s h.1)))) ∈ minuteEntries .withSamples s :=
  List.mem_map.2 ⟨q, hq, by
    have water : (kindEntry s .h2o).map (·.2)
        = (slotOfKind s.cfg .h2o).map (fun h => referenceEntry h.2 (minuteAcc s h.1)) := by
      simp [kindEntry, minuteAcc, openSamples, Function.comp_def]
    have oxygen : kindEntry s .o2 = some (o.2, referenceEntry o.2 (minuteAcc s o.1)) := by rw [kindEntry, ho]; rfl
    simp only [hk, if_true, water, oxygen]
    rfl⟩

/-- The entry of the slot of a kind other than pollutant. -/
theorem entryOfKind_sampled {s : State} {k : SlotKind} {f : Nat × Slot} (h : slotOfKind s.cfg k = some f)
    (hk : k ≠ .pollutant) :
    entryOfKind s.cfg (minuteEntries .withSamples s) k = some (referenceEntry f.2 (minuteAcc s f.1)) := by
  obtain ⟨hf, rfl⟩ := slotOfKind_spec h
  rw [entryOfKind, h, Option.bind_some]
  exact entryAt_minuteEntries.2 (mem_sampled_reference hf hk)

/-! ## The entry of a reference slot (R25 to R29) -/

/-- Only a VALID entry has a value, binary on a binary slot and analogue on another (R19). -/
theorem referenceEntry_cases (sl : Slot) (a : Acc) :
    ((referenceEntry sl a).status ≠ .valid ∧ (referenceEntry sl a).value = none)
    ∨ ((referenceEntry sl a).status = .valid ∧ (sl.kind = .feed ∨ sl.kind = .disturb)
        ∧ ∃ b, (referenceEntry sl a).value = some (.binary b))
    ∨ ((referenceEntry sl a).status = .valid ∧ sl.kind ≠ .feed ∧ sl.kind ≠ .disturb
        ∧ ∃ v, (referenceEntry sl a).value = some (.analogue v)) := by
  unfold referenceEntry
  split
  · cases hk : sl.kind <;> simp
  · simp_all

/-- The minute value of a binary slot is what its entry holds (R29). -/
theorem assertedOf_referenceEntry (sl : Slot) (a : Acc) (x : Bool) :
    assertedOf (some (referenceEntry sl a)) = some x ↔ (referenceEntry sl a).value = some (.binary x) := by
  rcases referenceEntry_cases sl a with ⟨hs, hv⟩ | ⟨hs, -, b, hv⟩ | ⟨hs, -, -, v, hv⟩ <;>
    simp [assertedOf, hs, hv]

theorem assertedOf_not_valid {e : MinuteEntry} (h : e.status ≠ .valid) : assertedOf (some e) = none := by
  unfold assertedOf
  split <;> simp_all

/-- FURNACE is at or above the threshold when its analogue value is (R40). -/
theorem furnaceHot_referenceEntry (c : Settings) {sl : Slot} (hk : sl.kind = .furnace) (a : Acc) :
    (furnaceHot c (some (referenceEntry sl a)) = some true
      ↔ ∃ v, (referenceEntry sl a).value = some (.analogue v) ∧ (c.furnace : Int) ≤ v)
    ∧ (furnaceHot c (some (referenceEntry sl a)) = none ↔ (referenceEntry sl a).status ≠ .valid) := by
  rcases referenceEntry_cases sl a with ⟨hs, hv⟩ | ⟨-, hb, -⟩ | ⟨hs, -, -, v, hv⟩
  · simp [furnaceHot, hs, hv]
  · simp [hk] at hb
  · simp [furnaceHot, hs, hv, MinuteEntry.number]

/-! ## The operating state of a minute (R40 to R44) -/

theorem opStateOf_ne_noRecord (feed hot : Option Bool) : opStateOf feed hot ≠ .noRecord := by
  unfold opStateOf
  split <;> simp

theorem minuteRow_opState (s : State) :
    (minuteRow .withSamples s).opState
      = opStateOf (assertedOf (entryOfKind s.cfg (minuteEntries .withSamples s) .feed))
          (furnaceHot s.cfg (entryOfKind s.cfg (minuteEntries .withSamples s) .furnace)) := by
  change minuteOpState s.cfg .withSamples (minuteEntries .withSamples s) = _
  exact if_pos rfl

/-- The operating state follows FEED and FURNACE (R40). -/
theorem opState_follows {s : State} {f u : Nat × Slot} (hf : slotOfKind s.cfg .feed = some f)
    (hu : slotOfKind s.cfg .furnace = some u) :
    let state := (minuteRow .withSamples s).opState
    let feed := referenceEntry f.2 (minuteAcc s f.1)
    let furnace := referenceEntry u.2 (minuteAcc s u.1)
    let hot := ∃ v, furnace.value = some (.analogue v) ∧ (s.cfg.furnace : Int) ≤ v
    (feed.status ≠ .valid → state = .unknown)
    ∧ (feed.value = some (.binary false) → hot → state = .standby)
    ∧ (feed.value = some (.binary false) → ¬ hot → state = .off)
    ∧ (feed.value = some (.binary true) → hot → state = .firing)
    ∧ (feed.value = some (.binary true) → furnace.status = .valid → ¬ hot → state = .coldFiring)
    ∧ (feed.value = some (.binary true) → furnace.status ≠ .valid → state = .unknown) := by
  intro state feed furnace hot
  have form : state = opStateOf (assertedOf (some feed)) (furnaceHot s.cfg (some furnace)) := by
    change (minuteRow .withSamples s).opState = _
    rw [minuteRow_opState, entryOfKind_sampled hf (by decide), entryOfKind_sampled hu (by decide)]
  obtain ⟨heat, cold⟩ := furnaceHot_referenceEntry s.cfg (slotOfKind_spec hu).2 (minuteAcc s u.1)
  rw [form]
  refine ⟨fun h => ?_, fun h hh => ?_, fun h hh => ?_, fun h hh => ?_, fun h hv hh => ?_, fun h hv => ?_⟩
  · rw [assertedOf_not_valid h]; rfl
  · rw [(assertedOf_referenceEntry _ _ _).2 h, heat.2 hh]; rfl
  · rw [(assertedOf_referenceEntry _ _ _).2 h]
    cases e : furnaceHot s.cfg (some furnace) with
    | none => rfl
    | some x => cases x with
      | false => rfl
      | true => exact absurd (heat.1 e) hh
  · rw [(assertedOf_referenceEntry _ _ _).2 h, heat.2 hh]; rfl
  · rw [(assertedOf_referenceEntry _ _ _).2 h]
    cases e : furnaceHot s.cfg (some furnace) with
    | none => exact absurd hv (cold.1 e)
    | some x => cases x with
      | false => rfl
      | true => exact absurd (heat.1 e) hh
  · rw [(assertedOf_referenceEntry _ _ _).2 h, cold.2 hv]; rfl

/-- A minute with samples is disturbed in an operating state unless DISTURB is valid and not asserted (R43). -/
theorem disturbed_follows (s : State) :
    let row := minuteRow .withSamples s
    row.disturbed = true ↔ (row.opState = .firing ∨ row.opState = .coldFiring ∨ row.opState = .unknown)
      ∧ ∃ b, slotOfKind s.cfg .disturb = some b
        ∧ (referenceEntry b.2 (minuteAcc s b.1)).value ≠ some (.binary false) := by
  intro row
  have known : row.opState ≠ .noRecord := by
    change (minuteRow .withSamples s).opState ≠ _
    rw [minuteRow_opState]
    exact opStateOf_ne_noRecord _ _
  have form : row.disturbed = minuteDisturbed s.cfg (minuteEntries .withSamples s) row.opState s.line.run := rfl
  have test : ((slotOfKind s.cfg .disturb).isSome
        && assertedOf (entryOfKind s.cfg (minuteEntries .withSamples s) .disturb) != some false) = true
      ↔ ∃ b, slotOfKind s.cfg .disturb = some b
        ∧ (referenceEntry b.2 (minuteAcc s b.1)).value ≠ some (.binary false) := by
    cases hb : slotOfKind s.cfg .disturb with
    | none => simp
    | some b => simp [entryOfKind_sampled hb, assertedOf_referenceEntry]
  rw [form, ← test]
  cases hst : row.opState <;> simp_all [minuteDisturbed]

/-- A minute without samples: the status of its close kind for every slot, NO_RECORD, and disturbed while a run goes on
(R24, R41, R44). -/
theorem minuteRow_unsampled {k : CloseKind} (h : k ≠ .withSamples) (s : State) :
    (minuteRow k s).entries = (slotsInUse s.cfg).map (fun q => (q.1, { status := k.status }))
    ∧ (minuteRow k s).opState = .noRecord ∧ (minuteRow k s).disturbed = decide (0 < s.line.run) := by
  have state : (minuteRow k s).opState = .noRecord := if_neg h
  refine ⟨minuteEntries_unsampled h s, state, ?_⟩
  change minuteDisturbed _ _ (minuteRow k s).opState _ = _
  rw [state]
  rfl

/-- The flag of a minute that some pollutant's entry carries (R37). -/
theorem anyPollutant_minuteEntries (k : CloseKind) (s : State) (f : MinuteFlags → Bool) :
    anyPollutant s.cfg (minuteEntries k s) f = true
      ↔ ∃ q ∈ pollutants s.cfg, ∃ e, (q.1, e) ∈ minuteEntries k s ∧ f e.flags = true := by
  simp only [anyPollutant, List.any_eq_true]
  refine exists_congr fun q => and_congr_right fun _ => ?_
  simp only [← entryAt_minuteEntries]
  cases entryAt (minuteEntries k s) q.1 <;> simp

/-- No entry of a minute without samples carries a flag (R24). -/
theorem anyPollutant_unsampled {k : CloseKind} (h : k ≠ .withSamples) (s : State) {f : MinuteFlags → Bool}
    (hf : f {} = false) : anyPollutant s.cfg (minuteEntries k s) f = false := by
  rw [Bool.eq_false_iff, ne_eq, anyPollutant_minuteEntries, minuteEntries_unsampled h]
  rintro ⟨q, -, e, he, flag⟩
  obtain ⟨p, -, hp⟩ := List.mem_map.1 he
  obtain ⟨-, rfl⟩ := Prod.mk.inj hp
  simp [hf] at flag

/-! ## The close of one minute (R15, R21, R22) -/

/-- The minute tables after the close of a minute. -/
theorem closeMinute_minutes (k : CloseKind) (s : State) :
    (closeMinute k s).minutes = {
      rows := s.minutes.rows ++ [minuteRow k s], last := some (minuteRow k s)
      setAside := if k = .withSamples then none else s.minutes.setAside } := by
  simp only [closeMinute]
  by_cases h : k = .withSamples
  · rw [if_pos h, if_pos h, takeSamples]
    cases hs : s.minutes.setAside <;> simp [hs]
  · simp [h]

/-- The accumulators restart at the close of a minute with its own samples, and stay otherwise (R15, R113). -/
theorem closeMinute_accs (k : CloseKind) (s : State) :
    (closeMinute k s).accs
      = if k = .withSamples ∧ s.minutes.setAside = none then (restartAccs s).accs else s.accs := by
  simp only [closeMinute]
  by_cases h : k = .withSamples
  · rw [if_pos h, takeSamples]
    cases hs : s.minutes.setAside <;> simp [hs, h, restartAccs]
  · simp [h]

/-- The close of a minute hands it to the line state unit and changes the line, year and retrieval units by that only. -/
theorem closeMinute_line (k : CloseKind) (s : State) :
    let l := lineMinute (minuteRow k s).opState (minuteRow k s).disturbed s
    (closeMinute k s).line = l.line ∧ (closeMinute k s).year = l.year ∧ (closeMinute k s).retr = l.retr := by
  simp only [closeMinute]
  split <;> simp

/-- Without an empty entry before it the minute itself is closed (R22). -/
theorem closeNumbered_full {n : Nat} {s : State} (h : n ≤ s.minutes.rows.length) (k : CloseKind) :
    closeNumbered n k s = closeMinute k s := by
  rw [closeNumbered, Nat.sub_eq_zero_of_le h, fillMinutes]

/-- An empty entry before the minute is filled as POWER_LOSS first (R22). -/
theorem closeNumbered_fill {n : Nat} {s : State} (h : s.minutes.rows.length < n) (k : CloseKind) :
    closeNumbered n k s = closeNumbered n k (closeMinute .powerLoss s) := by
  have one : n - s.minutes.rows.length = (n - (closeMinute .powerLoss s).minutes.rows.length) + 1 := by
    rw [closeMinute_minutes, List.length_append, List.length_singleton]
    omega
  rw [closeNumbered, one, fillMinutes, closeNumbered]

/-- Filled minutes are counted, and leave the samples alone (R15, R22). -/
theorem fillMinutes_samples (n : Nat) : ∀ s : State,
    (fillMinutes n s).minutes.rows.length = s.minutes.rows.length + n ∧ (fillMinutes n s).accs = s.accs
    ∧ (fillMinutes n s).minutes.setAside = s.minutes.setAside := by
  induction n with
  | zero => intro s; simp [fillMinutes]
  | succ n ih =>
    intro s
    obtain ⟨count, accs, aside⟩ := ih (closeMinute .powerLoss s)
    rw [fillMinutes, count, accs, aside, closeMinute_minutes, closeMinute_accs]
    simp
    omega

/-! ## The comparison with the resume point (R99) -/

/-- The least of a list, and none for an empty one. -/
theorem minList_spec (l : List Nat) :
    (minList l = none ↔ l = []) ∧ ∀ m, minList l = some m → m ∈ l ∧ ∀ x ∈ l, m ≤ x := by
  induction l using List.reverseRecOn with
  | nil => simp [minList]
  | append_singleton l x ih =>
    obtain ⟨empty, least⟩ := ih
    have last : minList (l ++ [x]) = some ((minList l).elim x (min x)) := by
      simp only [minList, List.foldl_append, List.foldl_cons, List.foldl_nil]
      cases List.foldl _ none l <;> rfl
    refine ⟨by simp [last], fun m hm => ?_⟩
    rw [last] at hm
    cases e : minList l with
    | none =>
      obtain rfl : x = m := by simpa [e] using hm
      simp [empty.1 e]
    | some y =>
      obtain rfl : min x y = m := by simpa [e] using hm
      obtain ⟨hy, below⟩ := least y e
      refine ⟨?_, fun z hz => ?_⟩
      · rcases le_total x y with h | h
        · simp [min_eq_left h]
        · simp [min_eq_right h, hy]
      · rcases List.mem_append.1 hz with hz | hz
        · exact (min_le_right _ _).trans (below z hz)
        · exact (min_le_left _ _).trans (List.mem_singleton.1 hz).ge

/-- The least sequence number of the records that meet a test. -/
def leastSeq (recs : List Rec) (p : Rec → Bool) : Option Nat := minList ((recs.filter p).map (·.seq))

theorem leastSeq_spec (recs : List Rec) (p : Rec → Bool) :
    (leastSeq recs p = none ↔ ∀ x ∈ recs, p x = false)
    ∧ ∀ q, leastSeq recs p = some q → (∃ x ∈ recs, p x = true ∧ x.seq = q) ∧ ∀ x ∈ recs, p x = true → q ≤ x.seq := by
  obtain ⟨empty, least⟩ := minList_spec ((recs.filter p).map (·.seq))
  refine ⟨empty.trans (by simp), fun q hq => ?_⟩
  obtain ⟨hm, below⟩ := least q hq
  obtain ⟨x, hx, rfl⟩ := List.mem_map.1 hm
  obtain ⟨hx, hp⟩ := List.mem_filter.1 hx
  exact ⟨⟨x, hx, hp, rfl⟩, fun y hy hpy => below _ (List.mem_map.2 ⟨y, List.mem_filter.2 ⟨hy, hpy⟩, rfl⟩)⟩

/-- Opening a year finds the own witness floor and the year start sequence (R140). -/
theorem openYearAt_floor (recs : List Rec) (year : Nat) (s : State) : OwnFloorFound recs year (openYearAt recs year s) := by
  obtain ⟨noFloor, floor⟩ := leastSeq_spec recs (fun r => decide (year ≤ yearOf r.start + 1))
  obtain ⟨noStart, start⟩ := leastSeq_spec recs (fun r => decide (year ≤ yearOf r.start))
  simp only [decide_eq_true_eq, decide_eq_false_iff_not, Nat.not_le] at noFloor floor noStart start
  have setFloor : (openYearAt recs year s).wit.ownFloor
      = (leastSeq recs (fun r => decide (year ≤ yearOf r.start + 1))).getD (s.arch.latest + 1) := rfl
  refine ⟨fun x hx hy => ?_, ?_, noStart, start⟩
  · rw [setFloor]
    cases e : leastSeq recs (fun r => decide (year ≤ yearOf r.start + 1)) with
    | none => exact absurd hy (Nat.not_le.2 (noFloor.1 e x hx))
    | some q => exact (floor q e).2 x hx hy
  · rw [setFloor]
    cases e : leastSeq recs (fun r => decide (year ≤ yearOf r.start + 1)) with
    | none => exact Or.inr ⟨noFloor.1 e, rfl⟩
    | some q => exact Or.inl (floor q e).1

theorem compareResume_not_due {s : State} (h : s.year.compareDue = false) (half : Nat) : compareResume half s = s := by
  simp [compareResume, h]

theorem compareResume_resumed {s : State} {half : Nat} (h : s.year.compareDue = true) (hr : s.year.resume = some half) :
    compareResume half s = s.setYear { s.year with compareDue := false } := by
  simp [compareResume, h, hr]

theorem compareResume_elsewhere {s : State} {half : Nat} (h : s.year.compareDue = true) (hr : s.year.resume ≠ some half) :
    compareResume half s = startingValues half (s.setYear { s.year with compareDue := false }) := by
  simp [compareResume, h, hr]


theorem OwnFloorFound.transfer {recs : List Rec} {year : Nat} {t u : State} (h : OwnFloorFound recs year t)
    (hw : u.wit = t.wit) (hl : u.arch.latest = t.arch.latest) : OwnFloorFound recs year u := by
  rw [OwnFloorFound, hw, hl]
  exact h

/-- The starting values of R99, before the retention is tested. -/
def startedAt (half : Nat) (s : State) : State :=
  openYearAt (ownRecords s) (yearOf half)
    (((s.setYear (freshTallies s.year)).setAvg
      { s.avg with rows := s.avg.rows.map (fun r => { r with day := {}, rate := none }) }).setLine
      { s.line with run := 0, yearTotal := 0, longest := 0, fstop := false, warned := false })

theorem startingValues_eq (half : Nat) (s : State) : startingValues half s = retentionTest (startedAt half s) := rfl

/-- Starting values (R99): what restarts, what stays, the floor found anew and the retention tested. -/
theorem startingValues_spec (half : Nat) (s : State) :
    let u := startingValues half s
    u.line = { s.line with run := 0, yearTotal := 0, longest := 0, fstop := false, warned := false }
    ∧ u.year = { s.year with
        rows := s.year.rows.map (fun r => { slot := r.slot }), minutes := {}, fstops := 0
        coldFiring := 0, totals := {}, openYear := some (yearOf half) }
    ∧ u.avg = { s.avg with rows := s.avg.rows.map (fun r => { r with day := {}, rate := none }) }
    ∧ u.arch.outbound = s.arch.outbound ∧ u.minutes = s.minutes ∧ u.accs = s.accs ∧ u.tb = s.tb
    ∧ OwnFloorFound (ownRecords s) (yearOf half) u
    ∧ ∃ v, RetentionTested v u ∧ v.arch = s.arch ∧ v.retr = s.retr ∧ v.year = u.year ∧ v.cfg = s.cfg := by
  intro u
  have tested : u = retentionTest (startedAt half s) := startingValues_eq half s
  simp only [tested, retentionTest_frame, retentionTest_fields]
  have floor : OwnFloorFound (ownRecords s) (yearOf half) (startedAt half s) := openYearAt_floor ..
  exact ⟨rfl, rfl, rfl, rfl, rfl, rfl, rfl, floor.transfer (by simp) (by simp),
    startedAt half s, retentionTest_tested _, rfl, rfl, rfl, rfl⟩

end Sys2Proof.Machine
end

section
/-! The boundary event (R103 to R106): the closing of the open minute and the end of a catch-up. -/

namespace Sys2Proof.Machine

/-! ## The flash-idle event and the waiting records -/

/-- What of an outbound entry its archiving does not change. -/
def OutEntry.contents (e : OutEntry) : RecordKind × Nat × List Byte := (e.kind, e.start, e.body)

theorem modifyFirst_map {α β : Type} (p : α → Bool) (f : α → α) (g : α → β) (h : ∀ x, g (f x) = g x) (l : List α) :
    (modifyFirst p f l).map g = l.map g := by
  induction l with
  | nil => rfl
  | cons x l ih =>
    rw [modifyFirst]
    split
    · rw [List.map_cons, h, List.map_cons]
    · rw [List.map_cons, ih, List.map_cons]

theorem startOwnProgram_contents (s : State) :
    (startOwnProgram s).arch.outbound.map OutEntry.contents = s.arch.outbound.map OutEntry.contents := by
  rw [startOwnProgram]
  split
  · rfl
  · rename_i e _
    exact modifyFirst_map _ (fun x : OutEntry => { x with state := .programming, seq := some (e.seq.getD (s.arch.lastAssigned + 1)) })
      _ (fun _ => rfl) _

theorem startOperation_contents (s : State) :
    (startOperation s).arch.outbound.map OutEntry.contents = s.arch.outbound.map OutEntry.contents := by
  have byOrder : ∀ u, (startByOrder u).arch.outbound.map OutEntry.contents = u.arch.outbound.map OutEntry.contents := by
    intro u
    simp only [startByOrder]
    (repeat' split) <;> simp [startOwnProgram_contents, setOp]
  simp only [startOperation]
  (repeat' split) <;> simp [byOrder]

/-- A flash-idle event starts work on records and changes none (R153). -/
theorem flashIdle_contents (s : State) :
    (flashIdle s).arch.outbound.map OutEntry.contents = s.arch.outbound.map OutEntry.contents := by
  simp only [flashIdle]
  (repeat' split) <;> simp [startOperation_contents]

/-! ## The end of a catch-up (R106) -/

theorem minuteDue_iff {tb : Timebase} {p c : Nat} (hp : tb.plant = some p) (hc : tb.closed = some c) :
    minuteDue tb = true ↔ (c + 60) * 1024 ≤ p := by
  simp [minuteDue, hp, hc]

theorem minuteOfTicks_eq (p : Nat) : minuteOfTicks p = p / 61440 * 60 := by
  change p / 1024 / 60 * 60 = p / 61440 * 60
  rw [Nat.div_div_eq_div_mul]

/-- Outside a catch-up, and while a minute is due in it, nothing ends. -/
theorem endCatchUp_goes_on {s : State} (h : ¬ (s.tb.catchUp = true ∧ minuteDue s.tb = false)) : endCatchUp s = s :=
  if_neg h

/-- In RECORDING the end of a catch-up empties the gap list. -/
theorem endCatchUp_recording {s : State} (h : s.tb.catchUp = true ∧ minuteDue s.tb = false)
    (hs : s.supply.station = some .recording) :
    endCatchUp s = s.setTb { s.tb with gaps := [], catchUp := false } := by
  simp [endCatchUp, h, hs]

/-- In CATCH_UP the end of the catch-up is the entry into RECORDING. -/
theorem endCatchUp_catchUp {s : State} {p c : Nat} (h : s.tb.catchUp = true ∧ minuteDue s.tb = false)
    (hs : s.supply.station = some .catchUp) (hp : s.tb.plant = some p) (hc : s.tb.closed = some c) :
    CaughtUp c p (endCatchUp s) := by
  simp [endCatchUp, h, hs, enterRecording, CaughtUp, hp, hc, minuteOfTicks_eq]

/-! ## The closing of a minute (R104, R105) -/

/-- The boundary of a day or of a year is that of a half-hour. -/
theorem half_of_yearStart {b : Nat} (h : isYearStart b = true) : b % 1800 = 0 := by
  have : yearStart (yearOf b) = b := by simpa [isYearStart] using h
  rw [← this, yearStart]
  omega

/-- Within a half-hour no period closes. -/
theorem periodStages_within {b : Nat} (h : b % 1800 ≠ 0) (s : State) : periodStages b s = s := by
  have day : b % 86400 ≠ 0 := by omega
  have year : isYearStart b = false := Bool.eq_false_iff.2 (mt half_of_yearStart h)
  simp [periodStages, h, day, year]

theorem closeHalfHour_minutes (b : Nat) (s : State) : (closeHalfHour b s).minutes = { s.minutes with rows := [] } := by
  simp [closeHalfHour, lineHalfHour]

/-- Only the half-hour close touches the minute tables, which it empties (R57). -/
theorem periodStages_minutes (b : Nat) (s : State) :
    (periodStages b s).minutes = if b % 1800 = 0 then { s.minutes with rows := [] } else s.minutes := by
  simp only [periodStages]
  (repeat' split) <;> simp [closeHalfHour_minutes]

/-- The state in which the open minute is formed: compared with the resume point, and its earlier minutes filled. -/
def beforeMinute (c : Nat) (s : State) : State :=
  fillMinutes (c % 1800 / 60 - s.minutes.rows.length) (compareResume (c / 1800 * 1800) s)

/-- The open minute as it is closed. -/
def closedRow (c : Nat) (s : State) : MinuteRow := minuteRow (closeKind s.tb c) (beforeMinute c s)

theorem minuteStage_eq (c : Nat) (s : State) :
    minuteStage c (compareResume (halfHourStart c) s)
      = (closeMinute (closeKind s.tb c) (beforeMinute c s)).setTb { s.tb with
          closed := some (c + 60), sampled := if s.tb.sampled = some c then nextSampled c s else s.tb.sampled } := by
  have next : nextSampled c (compareResume (halfHourStart c) s) = nextSampled c s := by simp [nextSampled]
  simp only [minuteStage, closeNumbered, next, compareResume_frame, closeMinute_frame, fillMinutes_frame]
  rfl

theorem beforeMinute_frame (c : Nat) (s : State) :
    (beforeMinute c s).cfg = s.cfg ∧ (beforeMinute c s).accs = s.accs
    ∧ (beforeMinute c s).minutes.setAside = s.minutes.setAside
    ∧ (beforeMinute c s).minutes.rows.length = max s.minutes.rows.length (c % 1800 / 60) := by
  obtain ⟨count, accs, aside⟩ := fillMinutes_samples (c % 1800 / 60 - s.minutes.rows.length)
    (compareResume (c / 1800 * 1800) s)
  simp only [compareResume_frame] at count accs aside
  exact ⟨by simp [beforeMinute], accs, aside, by rw [beforeMinute, count]; omega⟩

/-- With nothing to compare and no empty entry the minute is formed in the state as it is. -/
theorem beforeMinute_ready {c : Nat} {s : State} (h : s.year.compareDue = false)
    (full : c % 1800 / 60 ≤ s.minutes.rows.length) : beforeMinute c s = s := by
  rw [beforeMinute, compareResume_not_due h, Nat.sub_eq_zero_of_le full, fillMinutes]

theorem closeNumbered_eq (c : Nat) (k : CloseKind) (s : State) :
    closeNumbered (c % 1800 / 60) k (compareResume (c / 1800 * 1800) s) = closeMinute k (beforeMinute c s) := by
  simp [closeNumbered, beforeMinute]

/-- The timebase after a closing: T_c at the end of the minute, and the sampled minute with it (R105). -/
theorem closing_tb (c : Nat) (s : State) :
    (closing c s).tb = { s.tb with
      closed := some (c + 60), sampled := if s.tb.sampled = some c then nextSampled c s else s.tb.sampled } := by
  simp [closing, minuteStage_eq]


/-- The minute tables after a closing. -/
theorem closing_minutes (c : Nat) (s : State) :
    (closing c s).minutes = {
      rows := if (c + 60) % 1800 = 0 then [] else (beforeMinute c s).minutes.rows ++ [closedRow c s]
      last := some (closedRow c s)
      setAside := if closeKind s.tb c = .withSamples then none else s.minutes.setAside } := by
  obtain ⟨-, -, aside, -⟩ := beforeMinute_frame c s
  rw [closing, minuteStage_eq, periodStages_minutes, State.setTb_minutes, closeMinute_minutes, aside]
  split <;> rfl

/-- The accumulators after a closing (R15, R113). -/
theorem closing_accs (c : Nat) (s : State) :
    (closing c s).accs
      = if closeKind s.tb c = .withSamples ∧ s.minutes.setAside = none then (restartAccs s).accs else s.accs := by
  obtain ⟨cfg, accs, aside, -⟩ := beforeMinute_frame c s
  have restart : (restartAccs (beforeMinute c s)).accs = (restartAccs s).accs := by
    simp only [restartAccs, State.setAccs_accs, cfg, accs]
  simp only [closing, minuteStage_eq, periodStages_frame, State.setTb_accs, closeMinute_accs, accs, aside, restart]

/-- Restarted accumulators: 0 for the slots in use, and the others as they were (R15). -/
theorem restartAccs_spec (s : State) : (restartAccs s).accs.length = s.accs.length
    ∧ ∀ i, i < s.accs.length →
      (restartAccs s).accs[i]? = if (s.cfg.slots.getD i {}).kind = .unused then s.accs[i]? else some {} := by
  refine ⟨by simp [restartAccs], fun i hi => ?_⟩
  simp only [restartAccs, State.setAccs_accs, List.getElem?_map, List.getElem?_zipIdx, List.getElem?_eq_getElem hi,
    Option.map_some, Nat.zero_add]
  split <;> rfl

/-- Within a half-hour a closing leaves the averaging rows and the year's rows. -/
theorem closing_within {c : Nat} {s : State} (h : (c + 60) % 1800 ≠ 0) (due : s.year.compareDue = false) :
    (closing c s).avg = s.avg ∧ (closing c s).year.rows = s.year.rows := by
  rw [closing, periodStages_within h, compareResume_not_due due]
  simp

/-- The close kind of a minute (R105): sampled, or before every entry of the gap list, WITH_SAMPLES; else that of the last
entry that begins at or before it. -/
theorem closeKind_spec (tb : Timebase) (c : Nat) :
    (tb.sampled = some c ∨ (∀ g ∈ tb.gaps, c < g.fromTime) → closeKind tb c = .withSamples)
    ∧ ∀ l g r, tb.sampled ≠ some c → tb.gaps = l ++ g :: r → g.fromTime ≤ c → (∀ x ∈ r, c < x.fromTime) →
      closeKind tb c = g.kind := by
  refine ⟨fun h => ?_, fun l g r sampled gaps here later => ?_⟩
  · by_cases sampled : tb.sampled = some c
    · exact if_pos sampled
    · have none : tb.gaps.filter (fun e => decide (e.fromTime ≤ c)) = [] := by
        simpa [List.filter_eq_nil_iff] using h.resolve_left sampled
      simp [closeKind, none]
  · have rest : r.filter (fun e => decide (e.fromTime ≤ c)) = [] := by simpa [List.filter_eq_nil_iff] using later
    simp [closeKind, sampled, gaps, here, rest]

/-- The sampled minute after it has closed (R105, R117). -/
theorem nextSampled_recording {s : State} {p : Nat} (hs : s.supply.station = some .recording) (hp : s.tb.plant = some p)
    (c : Nat) : nextSampled c s = some (max (c + 60) (p / 61440 * 60)) := by
  simp [nextSampled, hs, hp, minuteOfTicks_eq]

theorem nextSampled_catchUp {s : State} (hs : s.supply.station = some .catchUp) (c : Nat) :
    (s.minutes.setAside = none ∨ (∀ g ∈ s.tb.gaps, g.kind ≠ .hold) → nextSampled c s = none)
    ∧ ∀ l g r, s.minutes.setAside ≠ none → s.tb.gaps = l ++ g :: r → g.kind = .hold → (∀ x ∈ l, x.kind ≠ .hold) →
      nextSampled c s = some (g.fromTime - 60) := by
  have form : nextSampled c s = if s.minutes.setAside.isSome then heldMinute s.tb else none := by
    simp [nextSampled, hs]
  rw [form]
  refine ⟨?_, fun l g r aside gaps hold before => ?_⟩
  · rintro (aside | noHold)
    · simp [aside]
    · have : s.tb.gaps.find? (fun e => e.kind == .hold) = none := by simpa [List.find?_eq_none] using noHold
      simp [heldMinute, this]
  · have found := find_split (fun e : GapEntry => e.kind == .hold) l r g (by simpa using hold) (by simpa using before)
    simp [Option.isSome_iff_ne_none, aside, heldMinute, gaps, found]

/-! ## The boundary event -/

/-- A closing leaves plant time, and a minute is still due by its end at T_c + 120 s. -/
theorem closing_due {s : State} {p : Nat} (hp : s.tb.plant = some p) (c : Nat) :
    minuteDue (closing c s).tb = true ↔ (c + 120) * 1024 ≤ p := by
  rw [closing_tb]
  exact minuteDue_iff hp rfl

/-- The stages of a closing in their order, each at its boundary (R104). -/
theorem closing_stages (c : Nat) (s : State) :
    ∃ tb : Timebase,
      let u := (closeNumbered (c % 1800 / 60) (closeKind s.tb c) (compareResume (c / 1800 * 1800) s)).setTb tb
      let h := if (c + 60) % 1800 = 0 then closeHalfHour (c + 60) u else u
      let d := if (c + 60) % 86400 = 0 then closeDay (c + 60) h else h
      closing c s = if yearStart (yearOf (c + 60)) = c + 60 then closeYear (c + 60) d else d := by
  refine ⟨{ s.tb with
    closed := some (c + 60), sampled := if s.tb.sampled = some c then nextSampled c s else s.tb.sampled }, ?_⟩
  rw [closing, minuteStage_eq, closeNumbered_eq]
  simp only [periodStages, isYearStart, beq_iff_eq]

/-- What the boundary event leaves of a closing in the blocks other than the timebase and the supply unit. -/
theorem boundary_frame (y : State) :
    let t := endCatchUp (flashIdle y)
    t.line = y.line ∧ t.avg = y.avg ∧ t.year = y.year ∧ t.minutes = y.minutes ∧ t.accs = y.accs
    ∧ t.arch = (flashIdle y).arch ∧ t.retr.flags = y.retr.flags ∧ t.wit.ownFloor = y.wit.ownFloor
    ∧ t.wit.yearStart = y.wit.yearStart
    ∧ t.arch.outbound.map (fun e => (e.kind, e.start, e.body)) = y.arch.outbound.map (fun e => (e.kind, e.start, e.body))
    ∧ t.arch.flash = y.arch.flash ∧ t.arch.latest = y.arch.latest ∧ t.wit.secured = y.wit.secured := by
  have contents := flashIdle_contents y
  simp only [endCatchUp_frame, endCatchUp_fields, flashIdle_frame, flashIdle_fields, true_and, and_true]
  exact contents


theorem running_iff {s : State} : running s = true ↔ CatchingUpOrRecording s := by
  simp [running, CatchingUpOrRecording]

/-- A boundary has its room outside a catch-up, in RING_FULL and FAULT, and with the entries it needs free (R106). -/
theorem roomFor_iff {s : State} {b : Nat} : roomFor s b = true
    ↔ s.tb.catchUp = false ∨ s.arch.state ≠ .ready ∨ s.arch.outbound.length + roomNeeded b ≤ 16 := by
  simp [roomFor, or_assoc, Config.outboundMax]

/-- The boundary event of a due minute runs its closing, the flash-idle event, and the end of a catch-up. -/
theorem exec_minuteBoundary_due {s : State} {p c : Nat} (station : CatchingUpOrRecording s)
    (running : s.tb.state = .running) (hp : s.tb.plant = some p) (hc : s.tb.closed = some c) (due : (c + 60) * 1024 ≤ p)
    (room : s.tb.catchUp = false ∨ s.arch.state ≠ .ready ∨ s.arch.outbound.length + roomNeeded (c + 60) ≤ 16) :
    exec .minuteBoundary s = .next (endCatchUp (flashIdle (closing c s))) := by
  simp [exec, execMinuteBoundary, hc, running_iff.2 station, running, (minuteDue_iff hp hc).2 due, roomFor_iff.2 room]

/-- Before its end, in a freeze, in another station state or without room, the boundary event does nothing. -/
theorem exec_minuteBoundary_not_due {s : State} {p c : Nat} (hp : s.tb.plant = some p) (hc : s.tb.closed = some c)
    (no : p < (c + 60) * 1024 ∨ s.tb.state ≠ .running ∨ ¬ CatchingUpOrRecording s
      ∨ (s.tb.catchUp = true ∧ s.arch.state = .ready ∧ 16 < s.arch.outbound.length + roomNeeded (c + 60))) :
    exec .minuteBoundary s = .next s := by
  have stays : ¬ (Machine.running s = true ∧ s.tb.state = .running ∧ minuteDue s.tb = true ∧ roomFor s (c + 60) = true) := by
    rintro ⟨hs, running, due, room⟩
    rw [minuteDue_iff hp hc] at due
    rw [roomFor_iff] at room
    rcases no with early | frozen | elsewhere | ⟨catchUp, ready, full⟩
    · omega
    · exact frozen running
    · exact elsewhere (running_iff.1 hs)
    · simp only [catchUp, ready, Bool.true_eq_false, ne_eq, not_true, false_or] at room
      omega
  simp only [exec, execMinuteBoundary, hc]
  exact if_neg stays

/-- The supply unit and the timebase after the boundary event of a due minute (R105, R106). -/
theorem boundary_timebase {s : State} {p c : Nat} (hp : s.tb.plant = some p) :
    let ends := s.tb.catchUp = true ∧ p < (c + 120) * 1024
    let t := endCatchUp (flashIdle (closing c s))
    t.tb.closed = some (c + 60) ∧ t.tb.plant = some p
    ∧ (ends → s.supply.station = some .catchUp → CaughtUp (c + 60) p t)
    ∧ (ends → s.supply.station = some .recording → t.supply = s.supply ∧ t.tb = { s.tb with
        closed := some (c + 60), sampled := t.tb.sampled, gaps := [], catchUp := false })
    ∧ (¬ ends → t.supply = s.supply ∧ t.tb = { s.tb with closed := some (c + 60), sampled := t.tb.sampled })
    ∧ (¬ ends ∨ s.supply.station = some .recording →
        t.tb.sampled = if s.tb.sampled = some c then nextSampled c s else s.tb.sampled) := by
  intro ends t
  have flash : (flashIdle (closing c s)).tb = (closing c s).tb := by simp
  have supply : (flashIdle (closing c s)).supply = s.supply := by simp
  have ended : ends ↔ (flashIdle (closing c s)).tb.catchUp = true ∧ minuteDue (flashIdle (closing c s)).tb = false := by
    rw [← Bool.not_eq_true, flash, closing_due hp, closing_tb, Nat.not_le]
  have goesOn (he : ¬ ends) : t = flashIdle (closing c s) := endCatchUp_goes_on (mt ended.2 he)
  have finished (he : ends) (hs : s.supply.station = some .recording) : t = (flashIdle (closing c s)).setTb
      { (flashIdle (closing c s)).tb with gaps := [], catchUp := false } :=
    endCatchUp_recording (ended.1 he) (supply ▸ hs)
  refine ⟨by simp [t, closing_tb], by simp [t, closing_tb, hp], fun he hs => ?_, fun he hs => ?_, fun he => ?_, fun h => ?_⟩
  · exact endCatchUp_catchUp (ended.1 he) (supply ▸ hs) (by rw [flash, closing_tb]; exact hp) (by rw [flash, closing_tb])
  · rw [finished he hs, State.setTb_supply, State.setTb_tb, flash, closing_tb]
    exact ⟨supply, rfl⟩
  · rw [goesOn he, flash, closing_tb]
    exact ⟨supply, rfl⟩
  · by_cases he : ends
    · rw [finished he (h.resolve_left (not_not_intro he)), State.setTb_tb, flash, closing_tb]
    · rw [goesOn he, flash, closing_tb]

/-- A closed minute: its entries, operating state, disturbance and flags by its close kind (R21, R24, R37, R40 to R44). -/
theorem minuteRow_follows (k : CloseKind) (s : State) :
    let row := minuteRow k s
    row.closeKind = k
    ∧ (k ≠ .withSamples → row.entries = (slotsInUse s.cfg).map (fun q => (q.1, { status := k.status }))
        ∧ row.opState = .noRecord ∧ row.disturbed = decide (0 < s.line.run)
        ∧ row.h2oSubst = false ∧ row.o2Clamped = false)
    ∧ (k = .withSamples →
        row.entries.map (·.1) = (slotsInUse s.cfg).map (·.1)
        ∧ (∀ q ∈ slotsInUse s.cfg, q.2.kind ≠ .pollutant → (q.1, referenceEntry q.2 (minuteAcc s q.1)) ∈ row.entries)
        ∧ (∀ q ∈ slotsInUse s.cfg, ∀ o, q.2.kind = .pollutant → slotOfKind s.cfg .o2 = some o →
            (q.1, pollutantEntry s.cfg q.2 (minuteAcc s q.1) o.2 (referenceEntry o.2 (minuteAcc s o.1))
              ((slotOfKind s.cfg .h2o).map (fun h => referenceEntry h.2 (minuteAcc s h.1)))) ∈ row.entries))
    ∧ (row.h2oSubst = true ↔ ∃ q ∈ pollutants s.cfg, ∃ e, (q.1, e) ∈ row.entries ∧ e.flags.h2oSubst = true)
    ∧ (row.o2Clamped = true ↔ ∃ q ∈ pollutants s.cfg, ∃ e, (q.1, e) ∈ row.entries ∧ e.flags.o2Clamp = true) := by
  refine ⟨rfl, fun h => ?_, ?_, anyPollutant_minuteEntries k s _, anyPollutant_minuteEntries k s _⟩
  · obtain ⟨entries, state, disturbed⟩ := minuteRow_unsampled h s
    exact ⟨entries, state, disturbed, anyPollutant_unsampled h s rfl, anyPollutant_unsampled h s rfl⟩
  · rintro rfl
    exact ⟨minuteEntries_keys .withSamples s, fun q => mem_sampled_reference, fun q hq o => mem_sampled_pollutant hq⟩

/-- The minute tables and the accumulators after the boundary event of a due minute (R15, R22, R57, R105, R113). -/
theorem boundary_minute (c : Nat) (s : State) :
    let t := endCatchUp (flashIdle (closing c s))
    let row := closedRow c s
    t.minutes.last = some row
    ∧ (s.year.compareDue = false → c % 1800 / 60 ≤ s.minutes.rows.length → row = minuteRow row.closeKind s)
    ∧ ((c + 60) % 1800 = 0 → t.minutes.rows = [])
    ∧ ((c + 60) % 1800 ≠ 0 → s.minutes.rows.length ≤ c % 1800 / 60 →
        t.minutes.rows.length = c % 1800 / 60 + 1 ∧ t.minutes.rows.getLast? = some row)
    ∧ ((c + 60) % 1800 ≠ 0 → s.year.compareDue = false → t.avg = s.avg ∧ t.year.rows = s.year.rows)
    ∧ (row.closeKind ≠ .withSamples ∨ s.minutes.setAside ≠ none → t.accs = s.accs)
    ∧ (row.closeKind = .withSamples → s.minutes.setAside = none → t.accs.length = s.accs.length
        ∧ ∀ i, i < s.accs.length →
          t.accs[i]? = if (s.cfg.slots.getD i {}).kind = .unused then s.accs[i]? else some {})
    ∧ t.minutes.setAside = (if row.closeKind = .withSamples then none else s.minutes.setAside) := by
  intro t row
  obtain ⟨-, avg, year, minutes, accs, -⟩ := boundary_frame (closing c s)
  rw [closing_minutes] at minutes
  rw [closing_accs] at accs
  have kind : row.closeKind = closeKind s.tb c := rfl
  have restart := restartAccs_spec s
  simp only [t, kind]
  rw [avg, year, minutes, accs]
  refine ⟨rfl, fun due full => ?_, fun half => if_pos half, fun within few => ?_, fun within due => closing_within within due,
    fun h => if_neg fun both => h.elim (· both.1) (· both.2), fun h aside => ?_, rfl⟩
  · rw [show row = minuteRow (closeKind s.tb c) (beforeMinute c s) from rfl, beforeMinute_ready due full]
  · obtain ⟨-, -, -, count⟩ := beforeMinute_frame c s
    simp only [if_neg within, List.length_append, count, List.length_singleton, List.getLast?_concat, max_eq_right few,
      true_and]
    rfl
  · rw [if_pos ⟨h, aside⟩]
    exact restart

/-- Settles O21: the boundary event of a due minute, its absence, and the minute row, the minute's close and the
comparison with the resume point that it is made of. -/
theorem minuteBoundaryClosesTheOpenMinuteWhenDue : Obligations.MinuteBoundaryClosesTheOpenMinuteWhenDue := by
  refine ⟨?_, fun s p c => exec_minuteBoundary_not_due, ?_, ?_, ?_⟩
  · intro s p c station running hp hc due room ends
    obtain ⟨closed, plant, caughtUp, recording, goesOn, sampled⟩ := boundary_timebase (c := c) hp
    obtain ⟨last, asIs, emptied, appended, within, kept, restarted, aside⟩ := boundary_minute c s
    obtain ⟨withSamples, byGap⟩ := closeKind_spec s.tb c
    obtain ⟨tb, stages⟩ := closing_stages c s
    obtain ⟨line, avg, year, minutes, accs, arch, flags, floor, start, contents, flash, latest, secured⟩ :=
      boundary_frame (closing c s)
    refine ⟨_, closedRow c s, exec_minuteBoundary_due station running hp hc due room, closed, plant, caughtUp, recording,
      goesOn, fun no h => ?_, fun yes hs => ?_, fun yes hs no => ?_, last, withSamples, byGap, asIs, emptied, appended,
      within, kept, restarted, aside, ⟨tb, ?_⟩, ?_⟩
    · rw [sampled h, if_neg no]
    · rw [sampled (Or.inr hs), if_pos yes, nextSampled_recording hs hp]
    · rw [sampled (Or.inl no), if_pos yes]
      exact nextSampled_catchUp hs c
    · intro u h d y
      have all : closing c s = y := stages
      rw [← all]
      exact ⟨line, avg, year, minutes, accs, arch, flags, floor, start, contents⟩
    · exact ⟨by rw [flash]; simp, by rw [latest]; simp, by rw [secured]; simp⟩
  · intro k s row
    obtain ⟨kind, unsampled, sampled, water, oxygen⟩ := minuteRow_follows k s
    refine ⟨kind, unsampled, fun h => ?_, water, oxygen⟩
    obtain ⟨keys, reference, pollutant⟩ := sampled h
    subst h
    exact ⟨keys, reference, pollutant, fun f u hf hu => opState_follows hf hu, disturbed_follows s⟩
  · intro n k s row m l
    obtain ⟨line, year, retr⟩ := closeMinute_line k s
    refine ⟨line, year, retr, ?_, ?_, fun h => closeNumbered_full h k, fun h => closeNumbered_fill h k⟩
    · rw [show m.minutes = _ from closeMinute_minutes k s]
    · rw [show m.minutes = _ from closeMinute_minutes k s]
  · intro half s u
    refine ⟨fun h => compareResume_not_due h half, fun h hr => compareResume_resumed h hr, fun h hr => ?_⟩
    rw [show u = _ from compareResume_elsewhere h hr]
    exact startingValues_spec half (s.setYear { s.year with compareDue := false })

end Sys2Proof.Machine
end

section
/-! The entries of a minute closed with its samples (R23 to R36): base status, mean, clamps, and the standardization of a
pollutant. -/

namespace Sys2Proof.Machine

/-! ## Rounding and bounds -/

theorem roundDiv_roundsTo (n : Int) (d : Nat) : RoundsTo n d (roundDiv n d) := by
  unfold RoundsTo roundDiv
  generalize (2 * n.natAbs + d) / (2 * d) = q
  dsimp only
  split <;> omega

theorem minuteMean_roundsTo (a : Acc) : RoundsTo a.sum a.valid (minuteMean a) := roundDiv_roundsTo a.sum a.valid

theorem clampInt_eq_max_min {lo hi : Int} (h : lo ≤ hi) (v : Int) : clampInt lo hi v = max lo (min hi v) := by
  unfold clampInt
  split
  · omega
  · split <;> omega

/-- The flag of a clamp: it is set where the value lies outside the bounds (R27, R34). -/
theorem decide_clampInt_ne_self {lo hi : Int} (h : lo ≤ hi) (v : Int) :
    decide (clampInt lo hi v ≠ v) = decide (v < lo ∨ hi < v) := by
  rw [decide_eq_decide, clampInt_eq_max_min h]
  omega

theorem toNat_natCast_mul (d : Nat) (x : Int) : ((d : Int) * x).toNat = d * x.toNat := by
  rcases le_total 0 x with h | h
  · rw [Int.toNat_mul d.cast_nonneg h, Int.toNat_natCast]
  · rw [Int.toNat_of_nonpos h, mul_zero, Int.toNat_of_nonpos (mul_nonpos_of_nonneg_of_nonpos d.cast_nonneg h)]

/-! ## The base status (R23) -/

/-- The threshold ceil(E / 2) is reached from half the expected count on. -/
theorem validThreshold_le_iff (e n : Nat) : validThreshold e ≤ n ↔ e ≤ 2 * n := by
  unfold validThreshold
  omega

theorem baseStatus_enough {e : Nat} {a : Acc} (h : e ≤ 2 * a.valid) : baseStatus e a = .valid :=
  if_pos ((validThreshold_le_iff e a.valid).2 h)

/-- Below half the expected count the status is MISSING, or the most frequent of CALIB, MAINT and FAULT. -/
theorem baseStatus_short {e : Nat} {a : Acc} (h : 2 * a.valid < e) :
    (baseStatus e a = .missing ∧ a.calib = 0 ∧ a.maint = 0 ∧ a.fault = 0)
    ∨ (baseStatus e a = .calib ∧ 0 < a.calib ∧ a.maint ≤ a.calib ∧ a.fault ≤ a.calib)
    ∨ (baseStatus e a = .maint ∧ a.calib < a.maint ∧ a.fault ≤ a.maint)
    ∨ (baseStatus e a = .fault ∧ a.calib < a.fault ∧ a.maint < a.fault) := by
  rw [baseStatus, if_neg (by rw [validThreshold_le_iff]; omega)]
  by_cases unseen : a.calib = 0 ∧ a.maint = 0 ∧ a.fault = 0
  · exact .inl ⟨if_pos unseen, unseen⟩
  rw [if_neg unseen]
  by_cases calib : a.maint ≤ a.calib ∧ a.fault ≤ a.calib
  · exact .inr (.inl ⟨if_pos calib, by omega, calib⟩)
  rw [if_neg calib]
  by_cases maint : a.fault ≤ a.maint
  · exact .inr (.inr (.inl ⟨if_pos maint, by omega, maint⟩))
  · exact .inr (.inr (.inr ⟨if_neg maint, by omega, by omega⟩))

/-- The four outcomes of a minute short of samples exclude each other. -/
theorem baseStatus_short_iff {e : Nat} {a : Acc} (h : 2 * a.valid < e) :
    (baseStatus e a = .missing ↔ a.calib = 0 ∧ a.maint = 0 ∧ a.fault = 0)
    ∧ (baseStatus e a = .calib ↔ 0 < a.calib ∧ a.maint ≤ a.calib ∧ a.fault ≤ a.calib)
    ∧ (baseStatus e a = .maint ↔ a.calib < a.maint ∧ a.fault ≤ a.maint)
    ∧ (baseStatus e a = .fault ↔ a.calib < a.fault ∧ a.maint < a.fault) := by
  rcases baseStatus_short h with ⟨st, counts⟩ | ⟨st, counts⟩ | ⟨st, counts⟩ | ⟨st, counts⟩ <;>
    simp only [st, reduceCtorEq, true_iff, false_iff] <;> omega

/-! ## The entry of a reference slot (R25 to R29) -/

theorem referenceEntry_not_valid {sl : Slot} {a : Acc} (h : baseStatus (expectedCount sl) a ≠ .valid) :
    referenceEntry sl a = { status := baseStatus (expectedCount sl) a } := by
  unfold referenceEntry
  split
  · contradiction
  · rfl

/-- The entry of a VALID reference slot: its value, held to the bounds of its kind. -/
def validEntry (a : Acc) (v : MinuteValue) (clamp : Bool) : MinuteEntry :=
  { status := .valid, flags := { overrange := decide (1 ≤ a.overrange), h2oClamp := clamp }, value := some v }

section ValidReference
variable {sl : Slot} {a : Acc} (h : baseStatus (expectedCount sl) a = .valid)
include h

theorem referenceEntry_binary (hk : sl.kind = .feed ∨ sl.kind = .disturb) :
    referenceEntry sl a = validEntry a (.binary (decide (a.valid ≤ 2 * a.nonZero))) false := by
  rcases hk with hk | hk <;> simp only [referenceEntry, h, hk] <;> rfl

theorem referenceEntry_o2 (hk : sl.kind = .o2) :
    referenceEntry sl a = validEntry a (.analogue (max 0 (min 2100 (minuteMean a)))) false := by
  rw [← clampInt_eq_max_min (by decide)]
  simp only [referenceEntry, h, hk]
  rfl

theorem referenceEntry_h2o (hk : sl.kind = .h2o) :
    referenceEntry sl a = validEntry a (.analogue (max 0 (min 4000 (minuteMean a))))
      (decide (minuteMean a < 0 ∨ 4000 < minuteMean a)) := by
  rw [← clampInt_eq_max_min (by decide), ← decide_clampInt_ne_self (by decide)]
  simp only [referenceEntry, h, hk]
  rfl

theorem referenceEntry_analogue (feed : sl.kind ≠ .feed) (disturb : sl.kind ≠ .disturb) (o2 : sl.kind ≠ .o2)
    (h2o : sl.kind ≠ .h2o) : referenceEntry sl a = validEntry a (.analogue (minuteMean a)) false := by
  simp only [referenceEntry, h]
  cases hk : sl.kind <;> simp_all [validEntry, overrangeFlag]

end ValidReference

/-! ## The water vapour value (R31) -/

section WaterVapour
variable {c : Settings} {sl o2 : Slot}

theorem waterVapour_dry (hs : sl.basis = .dry) (ho : o2.basis = .dry) (water : Option MinuteEntry) :
    waterVapour c sl o2 water = (0, false, false) := by simp [waterVapour, hs, ho]

theorem waterVapour_valid (hb : sl.basis = .wet ∨ o2.basis = .wet) {w : MinuteEntry} (hw : w.status = .valid) {v : Nat}
    (hv : w.value = some (.analogue v)) : waterVapour c sl o2 (some w) = (v, false, w.flags.h2oClamp) := by
  simp [waterVapour, hb, hw, hv, MinuteEntry.number]

theorem waterVapour_substituted (hb : sl.basis = .wet ∨ o2.basis = .wet) {w : MinuteEntry} (hw : w.status ≠ .valid) :
    waterVapour c sl o2 (some w) = (c.defaultH2O, true, false) := by simp [waterVapour, hb, hw]

end WaterVapour

/-! ## The standardization (R32, R33) and the dry value (R36) -/

theorem capExceeded_iff (c : Settings) (o2 : Slot) (o : Int) (d : Nat) :
    capExceeded c o2 o d = true
      ↔ if o2.basis = .wet then (c.o2Cap : Int) * d < 10000 * o else (c.o2Cap : Int) < o := by
  unfold capExceeded
  split <;> simp

/-- The denominator as one signed expression, 0 where it is negative: above 2,100 the cap leaves nothing. -/
theorem stdDenominator_eq (c : Settings) (o2 : Slot) (o : Int) (d : Nat) :
    stdDenominator c o2 o d = (if capExceeded c o2 o d then (d : Int) * ((2100 : Int) - c.o2Cap)
      else if o2.basis = .wet then 2100 * (d : Int) - 10000 * o else (d : Int) * (2100 - o)).toNat := by
  have capped : ((d : Int) * ((2100 : Int) - c.o2Cap)).toNat = d * (2100 - c.o2Cap) := by
    rw [toNat_natCast_mul]
    congr 1
    omega
  unfold stdDenominator
  split_ifs
  · exact capped.symm
  · rfl
  · rfl

theorem dryValue_dry {sl : Slot} (h : sl.basis = .dry) (m : Int) (d : Nat) : dryValue sl m d = m.toNat := by
  simp [dryValue, h]

theorem dryValue_wet {sl : Slot} (h : sl.basis = .wet) (m : Int) (d : Nat) :
    dryValue sl m d = (roundDiv (m * 10000) d).toNat := if_pos h

/-! ## The entry of a pollutant slot (R23, R25, R28, R30 to R36) -/

/-- The entry of a VALID pollutant slot before the oxygen is read: REFERENCE, with the raw and the dry value and the flags
of the overrange count and the water vapour (R25, R28, R30, R31, R36). -/
def unreferencedEntry (c : Settings) (sl : Slot) (a : Acc) (o2 : Slot) (water : Option MinuteEntry) : MinuteEntry :=
  let (h, subst, clamped) := waterVapour c sl o2 water
  { status := .reference
    flags := { overrange := overrangeFlag a, h2oSubst := subst, h2oClamp := clamped }
    value := some (.analogue (minuteMean a))
    dry := some (dryValue sl (minuteMean a) (10000 - h)) }

/-- A VALID oxygen minute adds the standardized value q, with its two flags (R32 to R34). -/
def MinuteEntry.standardized (e : MinuteEntry) (q : Int) (capped : Bool) : MinuteEntry :=
  { e with
    status := .valid
    flags := { e.flags with o2Clamp := capped, saturated := decide (q < centiMin ∨ centiMax < q) }
    std := some (max centiMin (min centiMax q)) }

theorem pollutantEntry_not_valid {c : Settings} {sl o2 : Slot} {a : Acc} {oxygen : MinuteEntry}
    {water : Option MinuteEntry} (h : baseStatus (expectedCount sl) a ≠ .valid) :
    pollutantEntry c sl a o2 oxygen water = { status := baseStatus (expectedCount sl) a } := by
  unfold pollutantEntry
  split
  · contradiction
  · rfl

section ValidPollutant
variable {c : Settings} {sl o2 : Slot} {a : Acc} {oxygen : MinuteEntry} {water : Option MinuteEntry}
  (h : baseStatus (expectedCount sl) a = .valid)
include h

theorem pollutantEntry_reference (ho : oxygen.status ≠ .valid) :
    pollutantEntry c sl a o2 oxygen water = unreferencedEntry c sl a o2 water := by
  simp only [pollutantEntry, h, if_neg ho]
  rfl

theorem pollutantEntry_standardized (ho : oxygen.status = .valid) :
    pollutantEntry c sl a o2 oxygen water
      = let d := 10000 - (waterVapour c sl o2 water).1
        (unreferencedEntry c sl a o2 water).standardized
          (roundDiv (stdNumerator c sl (minuteMean a) d) (stdDenominator c o2 oxygen.number d))
          (capExceeded c o2 oxygen.number d) := by
  simp only [pollutantEntry, h, if_pos ho]
  rw [decide_clampInt_ne_self (by decide), clampInt_eq_max_min (by decide)]
  rfl

/-- What a VALID pollutant entry holds whether or not the oxygen minute is VALID. -/
theorem pollutantEntry_valid :
    let e := pollutantEntry c sl a o2 oxygen water
    let w := waterVapour c sl o2 water
    e.value = some (.analogue (minuteMean a)) ∧ e.flags.overrange = decide (1 ≤ a.overrange)
      ∧ e.flags.h2oSubst = w.2.1 ∧ e.flags.h2oClamp = w.2.2
      ∧ e.dry = some (dryValue sl (minuteMean a) (10000 - w.1)) := by
  by_cases ho : oxygen.status = .valid
  · rw [pollutantEntry_standardized h ho]
    exact ⟨rfl, rfl, rfl, rfl, rfl⟩
  · rw [pollutantEntry_reference h ho]
    exact ⟨rfl, rfl, rfl, rfl, rfl⟩

end ValidPollutant

/-- Settles O10: the base status by the counts, the reference slots by kind, and the pollutants by their water vapour and
oxygen minutes. -/
theorem minuteEntriesFollowTheSamples : Obligations.MinuteEntriesFollowTheSamples := by
  refine ⟨fun e a => ⟨baseStatus_enough, baseStatus_short_iff⟩, fun sl a => ?_, fun c sl o2 a oxygen water => ?_⟩
  · refine ⟨referenceEntry_not_valid, referenceEntry_binary, fun h feed disturb => ?_⟩
    exact ⟨minuteMean a, minuteMean_roundsTo a, referenceEntry_o2 h, referenceEntry_h2o h,
      referenceEntry_analogue h feed disturb⟩
  · refine ⟨pollutantEntry_not_valid, fun h => ?_⟩
    obtain ⟨value, overrange, subst, clamp, dry⟩ := pollutantEntry_valid (c := c) (o2 := o2) (oxygen := oxygen)
      (water := water) h
    refine ⟨minuteMean a, (waterVapour c sl o2 water).1, minuteMean_roundsTo a, value, overrange, fun hs ho => ?_,
      fun w hb hw => ⟨fun v valid hv => ?_, fun lost => ?_⟩, fun hs => ?_, fun hs => ?_, fun lost => ?_,
      fun o valid ho => ?_⟩
    · rw [subst, clamp, waterVapour_dry hs ho]
      exact ⟨rfl, rfl, rfl⟩
    · subst hw
      rw [subst, clamp, waterVapour_valid hb valid hv]
      exact ⟨rfl, rfl, rfl⟩
    · subst hw
      rw [subst, clamp, waterVapour_substituted hb lost]
      exact ⟨rfl, rfl, rfl⟩
    · rw [dry, dryValue_dry hs]
    · exact ⟨_, roundDiv_roundsTo _ _, by rw [dry, dryValue_wet hs]⟩
    · rw [pollutantEntry_reference h lost]
      exact ⟨rfl, rfl, rfl, rfl⟩
    · have number : oxygen.number = o := by rw [MinuteEntry.number, ho]
      intro d n exceeds k
      have cap : capExceeded c o2 o d = true ↔ exceeds := capExceeded_iff c o2 o d
      have denominator : stdDenominator c o2 o d = k.toNat := by
        rw [stdDenominator_eq]
        simp only [cap, k]
      refine ⟨_, roundDiv_roundsTo _ _, ?_⟩
      rw [pollutantEntry_standardized h valid, number, ← denominator]
      exact ⟨rfl, rfl, Bool.eq_iff_iff.2 (cap.trans decide_eq_true_iff.symm), rfl⟩

end Sys2Proof.Machine
end

section
/-! The line state unit at a minute (R46, R47, R49, R50): the account, the FSTOP decision and the two warnings. -/

namespace Sys2Proof.Machine

/-! ## The account of a minute (R46) -/

/-- The account leaves the FSTOP state and what has been given alone. -/
theorem accountUpdate_keeps (disturbed : Bool) (a : LineAccount) :
    (accountUpdate disturbed a).fstop = a.fstop ∧ (accountUpdate disturbed a).warned = a.warned
    ∧ (accountUpdate disturbed a).coldFed = a.coldFed
    ∧ (accountUpdate disturbed a).fstopInHalfHour = a.fstopInHalfHour := by
  cases disturbed
  · exact ⟨rfl, rfl, rfl, rfl⟩
  · exact ⟨rfl, rfl, rfl, rfl⟩

theorem capReached_iff (c : Settings) (a : LineAccount) :
    capReached c a = true ↔ c.runCap ≤ a.run ∨ c.yearCap ≤ a.yearTotal := by simp [capReached]

/-! ## The three decisions (R47, R49, R50) -/

@[simp] theorem flagSet_raiseIf (b : Bool) (c d : Cause) (s : State) :
    flagSet (raiseIf b c s) d = (flagSet s d || (b && decide (c = d))) := by
  cases b
  · simp [raiseIf]
  · simp [raiseIf, flagSet_raiseCause]

@[simp] theorem flagSet_setLine (s : State) (l : LineAccount) (c : Cause) : flagSet (s.setLine l) c = flagSet s c := rfl

@[simp] theorem flagSet_setYear (s : State) (y : YearUnit) (c : Cause) : flagSet (s.setYear y) c = flagSet s c := rfl

/-- A disturbed minute at a cap, with FSTOP released, is an FSTOP assertion (R47). -/
def fstopAsserts (disturbed : Bool) (c : Settings) (a : LineAccount) : Bool := disturbed && (capReached c a && !a.fstop)

/-- An assertion marks the half-hour, is counted and raises FEED_STOP; a minute that is not disturbed releases FSTOP. -/
theorem fstopDecision_eq (disturbed : Bool) (s : State) :
    let asserts := fstopAsserts disturbed s.cfg s.line
    fstopDecision disturbed s = raiseIf asserts .feedStop ((s.setLine { s.line with
        fstop := disturbed && (s.line.fstop || capReached s.cfg s.line)
        fstopInHalfHour := s.line.fstopInHalfHour || asserts }).setYear
      { s.year with fstops := s.year.fstops + asserts.toNat }) := by
  intro asserts
  cases disturbed with
  | false => rw [show asserts = false from rfl, Bool.or_false]; rfl
  | true =>
    have test : asserts = (capReached s.cfg s.line && !s.line.fstop) := rfl
    cases h : asserts with
    | true =>
      obtain ⟨cap, released⟩ : capReached s.cfg s.line = true ∧ s.line.fstop = false := by simpa [test] using h
      simp [fstopDecision, cap, released, raiseIf]
    | false =>
      have stays : (true && (s.line.fstop || capReached s.cfg s.line)) = s.line.fstop := by
        rw [test] at h
        cases cap : capReached s.cfg s.line <;> simp_all
      rw [stays, Bool.or_false, fstopDecision, if_pos rfl, ← test, h]
      rfl

/-- DISTURB_WARN is raised at the threshold, once until the warning given is taken back. -/
theorem warnDecision_eq (disturbed : Bool) (s : State) :
    let warns := disturbed && decide (s.line.yearTotal = warnThreshold s.cfg)
    warnDecision disturbed s = raiseIf (warns && !s.line.warned) .disturbWarn
      (s.setLine { s.line with warned := s.line.warned || warns }) := by
  intro warns
  rw [warnDecision]
  cases h : warns && !s.line.warned with
  | true =>
    obtain ⟨due, -⟩ : warns = true ∧ _ := Bool.and_eq_true_iff.1 h
    rw [due, Bool.or_true]
    rfl
  | false =>
    have stays : (s.line.warned || warns) = s.line.warned := by
      cases w : s.line.warned <;> simp_all
    rw [stays]
    rfl

/-- COLD_FEED is raised by a COLD_FIRING minute, once in a half-hour. -/
theorem coldFeedDecision_eq (st : OpState) (s : State) :
    coldFeedDecision st s = raiseIf (decide (st = .coldFiring) && !s.line.coldFed) .coldFeed
      (s.setLine { s.line with coldFed := s.line.coldFed || decide (st = .coldFiring) }) := by
  rw [coldFeedDecision]
  by_cases h : st = .coldFiring ∧ s.line.coldFed = false
  · rw [if_pos h]
    simp [h, raiseIf]
  · have stays : (s.line.coldFed || decide (st = .coldFiring)) = s.line.coldFed := by
      cases w : s.line.coldFed <;> simp_all
    have no : (decide (st = .coldFiring) && !s.line.coldFed) = false := by simpa using h
    rw [if_neg h, stays, no]
    rfl

/-! ## The minute as a whole (R42) -/

section
variable (st : OpState) (disturbed : Bool) (s : State)

/-- Whether the minute brings the year total to the threshold of DISTURB_WARN (R49). -/
def warnReached : Bool := disturbed && decide ((accountUpdate disturbed s.line).yearTotal = warnThreshold s.cfg)

/-- The account after a minute: R46, and what the three decisions leave in it. -/
theorem lineMinute_line :
    let a := accountUpdate disturbed s.line
    (lineMinute st disturbed s).line = { a with
      fstop := disturbed && (s.line.fstop || capReached s.cfg a)
      fstopInHalfHour := s.line.fstopInHalfHour || fstopAsserts disturbed s.cfg a
      warned := s.line.warned || warnReached disturbed s
      coldFed := s.line.coldFed || decide (st = .coldFiring) } := by
  obtain ⟨fstop, warned, coldFed, marked⟩ := accountUpdate_keeps disturbed s.line
  simp [lineMinute, fstopDecision_eq, warnDecision_eq, coldFeedDecision_eq, warnReached, fstop, warned, coldFed, marked]

theorem lineMinute_year : (lineMinute st disturbed s).year = { s.year with
    fstops := s.year.fstops + (fstopAsserts disturbed s.cfg (accountUpdate disturbed s.line)).toNat } := by
  simp [lineMinute, fstopDecision_eq]

/-- The flags after a minute: three causes, each raised by its decision. -/
theorem flagSet_lineMinute (c : Cause) : flagSet (lineMinute st disturbed s) c =
    (flagSet s c || (fstopAsserts disturbed s.cfg (accountUpdate disturbed s.line) && decide (.feedStop = c))
      || (warnReached disturbed s && !s.line.warned && decide (.disturbWarn = c))
      || (decide (st = .coldFiring) && !s.line.coldFed && decide (.coldFeed = c))) := by
  obtain ⟨-, warned, coldFed, -⟩ := accountUpdate_keeps disturbed s.line
  simp [lineMinute, fstopDecision_eq, warnDecision_eq, coldFeedDecision_eq, warnReached, warned, coldFed]

/-- A minute changes nothing but the account, the year unit and the retrieval unit. -/
theorem lineMinute_frame_eq : lineMinute st disturbed s
    = ((s.setLine (lineMinute st disturbed s).line).setYear (lineMinute st disturbed s).year).setRetr
        (lineMinute st disturbed s).retr := by
  have frame := lineMinute_frame st disturbed s
  generalize lineMinute st disturbed s = t at frame ⊢
  obtain ⟨supply, cfg, port, accs, minutes, avg, tb, wit, arch, elapsed, draws, pending⟩ := frame
  cases t
  simp only at supply cfg port accs minutes avg tb wit arch elapsed draws pending
  subst supply cfg port accs minutes avg tb wit arch elapsed draws pending
  rfl

theorem fstopAsserts_iff : fstopAsserts disturbed s.cfg (accountUpdate disturbed s.line) = true
    ↔ disturbed = true ∧ s.line.fstop = false
      ∧ (s.cfg.runCap ≤ min 16777215 (s.line.run + 1) ∨ s.cfg.yearCap ≤ s.line.yearTotal + 1) := by
  obtain ⟨fstop, -⟩ := accountUpdate_keeps disturbed s.line
  cases disturbed with
  | false => simp [fstopAsserts]
  | true =>
    simp only [fstopAsserts, Bool.true_and, Bool.and_eq_true, capReached_iff, fstop, Bool.not_eq_true', true_and]
    exact and_comm

theorem warnReached_iff : warnReached disturbed s = true
    ↔ disturbed = true ∧ s.line.yearTotal + 1 = 3 * s.cfg.yearCap / 4 := by
  cases disturbed with
  | false => simp [warnReached]
  | true =>
    rw [warnReached, Bool.true_and, decide_eq_true_iff]
    exact (and_iff_right rfl).symm

end

/-- Settles O11: the account of a minute that is disturbed and of one that is not. -/
theorem disturbanceAccountFollowsTheMinute : Obligations.DisturbanceAccountFollowsTheMinute := by
  intro st s
  rw [lineMinute_line, lineMinute_line]
  refine ⟨⟨rfl, rfl, rfl, ?_⟩, rfl, rfl, rfl, rfl⟩
  simp only [Bool.true_and, Bool.or_eq_true, capReached_iff]
  rfl

/-- A minute without an assertion leaves the year unit, the half-hour's mark and FEED_STOP alone. -/
theorem lineMinute_no_assertion (st : OpState) {disturbed : Bool} {s : State}
    (h : fstopAsserts disturbed s.cfg (accountUpdate disturbed s.line) = false) :
    (lineMinute st disturbed s).year = s.year
    ∧ (lineMinute st disturbed s).line.fstopInHalfHour = s.line.fstopInHalfHour
    ∧ flagSet (lineMinute st disturbed s) .feedStop = flagSet s .feedStop := by
  simp [lineMinute_year, lineMinute_line, flagSet_lineMinute, h]

/-- Settles O12: an assertion, its absence in three cases, and the flags by their decisions. -/
theorem fstopAssertionIsCountedOnce : Obligations.FstopAssertionIsCountedOnce := by
  intro st s reached untouched
  refine ⟨fun cap released => ?_, fun _ asserted => ?_, fun below => ?_, ?_, ?_⟩
  · have asserts := (fstopAsserts_iff true s).2 ⟨rfl, released, cap⟩
    simp [lineMinute_year, lineMinute_line, flagSet_lineMinute, asserts]
  · refine lineMinute_no_assertion st (Bool.eq_false_iff.2 fun h => ?_)
    obtain ⟨-, released, -⟩ := (fstopAsserts_iff true s).1 h
    simp [released] at asserted
  · refine lineMinute_no_assertion st (Bool.eq_false_iff.2 fun h => ?_)
    obtain ⟨-, -, cap⟩ := (fstopAsserts_iff true s).1 h
    exact below cap
  · exact lineMinute_no_assertion st rfl
  · intro disturbed t warned
    have warns : warnReached disturbed s = true ↔ warned := warnReached_iff disturbed s
    refine ⟨?_, ?_, ?_, ?_, fun c feedStop disturbWarn coldFeed => ?_, ?_, ?_, lineMinute_frame_eq st disturbed s⟩
    · simp [t, lineMinute_line, warns]
    · simp [t, flagSet_lineMinute, warns]
    · simp [t, lineMinute_line]
    · simp [t, flagSet_lineMinute]
    · simp [t, flagSet_lineMinute, feedStop.symm, disturbWarn.symm, coldFeed.symm]
    · simp [t]
    · simp [t]

end Sys2Proof.Machine
end

section
/-! Fields laid out one after the other (R130), the CONDITION snapshot (R171), and the two answers that join the pending
answer list at once (R166, R172). -/

namespace Sys2Proof.Machine

/-! ## Numbers in bytes (R130) -/

@[simp] theorem beBytes_length (k n : Nat) : (beBytes k n).length = k := by
  induction k with
  | zero => rfl
  | succ k ih => simp [beBytes, ih]

theorem foldl_beBytes (k n : Nat) : ∀ a : Nat,
    (beBytes k n).foldl (fun a b => a * 256 + b.toNat) a = a * 256 ^ k + n % 256 ^ k := by
  induction k with
  | zero => intro a; simp [beBytes, Nat.mod_one]
  | succ k ih =>
    intro a
    have split : n % 256 ^ (k + 1) = n / 256 ^ k % 256 * 256 ^ k + n % 256 ^ k := by
      rw [Nat.pow_succ, Nat.mod_mul, Nat.mul_comm, Nat.add_comm]
    rw [beBytes, List.foldl_cons, ih, split, BitVec.toNat_ofNat]
    ring

/-- The bytes of a number spell it, modulo what they can hold. -/
theorem ofBytes_beBytes (k n : Nat) : ofBytes (beBytes k n) = n % 256 ^ k := by
  rw [ofBytes, foldl_beBytes, Nat.zero_mul, Nat.zero_add]

/-! ## Fields one after the other -/

/-- The fields of these lengths and values that follow one another from an offset on. -/
def fieldsFrom : Nat → List (Nat × Nat) → List (Nat × Nat × Nat)
  | _, [] => []
  | off, (len, n) :: rest => (off, len, n) :: fieldsFrom (off + len) rest

/-- Bytes that are a number of fields one after the other, and what follows them. -/
def packed (l : List (Nat × Nat)) (rest : List Byte) : List Byte := l.foldr (fun x b => beBytes x.1 x.2 ++ b) rest

theorem field_at (pre rest : List Byte) (len n : Nat) :
    field (pre ++ (beBytes len n ++ rest)) pre.length len = n % 256 ^ len := by
  rw [field, slice, List.drop_left, List.take_left' (beBytes_length len n), ofBytes_beBytes]

/-- Packed fields are held at their offsets. -/
theorem packed_holds (l : List (Nat × Nat)) (rest : List Byte) : ∀ pre : List Byte,
    HoldsFields (pre ++ packed l rest) (fieldsFrom pre.length l) := by
  induction l with
  | nil => intro pre x hx; exact absurd hx List.not_mem_nil
  | cons f l ih =>
    obtain ⟨len, n⟩ := f
    intro pre x hx
    rcases List.mem_cons.1 hx with rfl | hx
    · exact field_at pre (packed l rest) len n
    · have moved : pre.length + len = (pre ++ beBytes len n).length := by simp
      rw [moved] at hx
      have regroup : pre ++ packed ((len, n) :: l) rest = pre ++ beBytes len n ++ packed l rest := by simp [packed]
      rw [regroup]
      exact ih _ x hx

theorem drop_packed (l : List (Nat × Nat)) (rest : List Byte) :
    (packed l rest).drop ((l.map (·.1)).sum) = rest := by
  induction l with
  | nil => rfl
  | cons f l ih =>
    rw [List.map_cons, List.sum_cons, ← List.drop_drop]
    exact (congrArg _ (List.drop_left' (beBytes_length f.1 f.2))).trans ih

theorem packed_append (l m : List (Nat × Nat)) (rest : List Byte) :
    packed (l ++ m) rest = packed l (packed m rest) := by simp [packed, List.foldr_append]

theorem packed_length (l : List (Nat × Nat)) : (packed l []).length = (l.map (·.1)).sum := by
  induction l with
  | nil => rfl
  | cons f l ih =>
    rw [List.map_cons, List.sum_cons, ← ih]
    exact (List.length_append ..).trans (congrArg (· + _) (beBytes_length ..))

theorem fieldsFrom_append (l m : List (Nat × Nat)) : ∀ off : Nat,
    fieldsFrom off (l ++ m) = fieldsFrom off l ++ fieldsFrom (off + (l.map (·.1)).sum) m := by
  induction l with
  | nil => intro off; rfl
  | cons f l ih =>
    intro off
    rw [List.cons_append, fieldsFrom, ih, List.map_cons, List.sum_cons, ← Nat.add_assoc]
    rfl

theorem HoldsFields.subset {b : List Byte} {l m : List (Nat × Nat × Nat)} (h : HoldsFields b l) (sub : m ⊆ l) :
    HoldsFields b m := fun x hx => h x (sub hx)

/-- The bytes of an entry among entries of one size, with what follows them. -/
theorem drop_flatMap {α : Type} {f : α → List Byte} {size : Nat} (hf : ∀ a, (f a).length = size) (rest : List Byte) :
    ∀ {l : List α} {i : Nat} {a : α}, l[i]? = some a →
      ∃ after, (l.flatMap f ++ rest).drop (size * i) = f a ++ after := by
  intro l
  induction l with
  | nil => intro i a h; simp at h
  | cons b l ih =>
    intro i a h
    cases i with
    | zero =>
      obtain rfl : b = a := by simpa using h
      exact ⟨l.flatMap f ++ rest, by simp⟩
    | succ i =>
      obtain ⟨after, h⟩ := ih (i := i) (a := a) (by simpa using h)
      refine ⟨after, ?_⟩
      rw [← h, Nat.mul_succ, Nat.add_comm, ← List.drop_drop, List.flatMap_cons, List.append_assoc,
        List.drop_left' (hf b)]

theorem length_flatMap_of_size {α : Type} {f : α → List Byte} {size : Nat} (hf : ∀ a, (f a).length = size)
    (l : List α) : (l.flatMap f).length = size * l.length := by
  simp [List.length_flatMap, hf, Nat.mul_comm]

/-! ## Codes (7.7.3, 7.7.4) -/

theorem Station.code_eq : Station.code
    = [Station.unconfigured, .commission, .scan, .timeUnset, .catchUp, .recording, .hold].idxOf := by
  funext x; cases x <;> rfl

theorem TimeState.code_eq (x : TimeState) : x.code = [TimeState.unset, .running, .frozen].idxOf x := by
  cases x <;> rfl

theorem ArchiveState.code_eq (x : ArchiveState) : x.code = [ArchiveState.ready, .ringFull, .fault].idxOf x := by
  cases x <;> rfl

theorem OpState.code_eq (x : OpState) :
    x.code = [OpState.off, .standby, .firing, .coldFiring, .unknown, .noRecord].idxOf x + 1 := by
  cases x <;> rfl

theorem PeriodStatus.code_eq (x : PeriodStatus) : x.code = periodCode x := by
  cases x <;> rfl

theorem MinuteStatus.code_eq (x : MinuteStatus) : x.code = statusOrder.idxOf x + 1 := by
  cases x <;> rfl

/-! ## A current minute entry (7.7.3) -/

/-- The number that a minute value is shown as. -/
def MinuteValue.shown : MinuteValue → Int
  | .analogue x => x
  | .binary b => b.toNat

/-- The field of a signed value, when there is one. -/
def signedField (v : Option Int) : List (Nat × Nat) := (v.map (fun v => (3, (v % 16777216).toNat))).toList

theorem fieldsFrom_signedField (off : Nat) (v : Option Int) :
    fieldsFrom off (signedField v) = (v.map (fun v => (off, 3, (v % 16777216).toNat))).toList := by
  cases v <;> rfl

theorem signedField_length (v : Option Int) : ((signedField v).map (·.1)).sum = 3 * v.isSome.toNat := by
  cases v <;> rfl

theorem signedField_packed (v : Option Int) (rest : List Byte) :
    packed (signedField v) rest = (v.map be3Signed).getD [] ++ rest := by
  cases v <;> rfl

theorem MinuteValue.bytes_eq : MinuteValue.bytes = be3Signed ∘ MinuteValue.shown := by
  funext v
  rcases v with x | _ | _ <;> rfl

/-- The five fields of a current minute entry before its values. -/
def minuteEntryFields (slot : Nat) (a : Acc) (e : Option MinuteEntry) : List (Nat × Nat) :=
  let f := (e.map (·.flags)).getD {}
  [(1, slot + 16 * ((e.map (fun x => statusOrder.idxOf x.status + 1)).getD 0)),
   (1, f.overrange.toNat + 2 * f.h2oSubst.toNat + 4 * f.o2Clamp.toNat + 8 * f.h2oClamp.toNat + 16 * f.saturated.toNat
     + 32 * ((e.bind (·.value)).map MinuteValue.shown).isSome.toNat + 64 * (e.bind (·.std)).isSome.toNat),
   (1, a.valid + a.maint + a.calib + a.fault), (1, a.valid), (2, a.excess)]

theorem minuteEntryBytes_eq (slot : Nat) (a : Acc) (e : Option MinuteEntry) :
    minuteEntryBytes slot a e = packed (minuteEntryFields slot a e
      ++ (signedField ((e.bind (·.value)).map MinuteValue.shown) ++ signedField (e.bind (·.std)))) [] := by
  have flags (a b c d e f g : Bool) : flagByte [a, b, c, d, e, f, g]
      = a.toNat + 2 * b.toNat + 4 * c.toNat + 8 * d.toNat + 16 * e.toNat + 32 * f.toNat + 64 * g.toNat := by
    simp only [flagByte, List.foldr]
    omega
  rw [packed_append, packed_append, signedField_packed, signedField_packed, Option.map_map, ← MinuteValue.bytes_eq]
  simp only [minuteEntryBytes, minuteEntryFields, packed, List.foldr, flags, MinuteStatus.code_eq, List.append_assoc,
    List.append_nil, Acc.taken, Option.isSome_map]

theorem minuteEntryBytes_layout (slot : Nat) (a : Acc) (e : Option MinuteEntry) :
    MinuteEntryLayout (minuteEntryBytes slot a e) slot a e := by
  unfold MinuteEntryLayout
  intro f value std
  have form : minuteEntryBytes slot a e
      = packed (minuteEntryFields slot a e ++ (signedField value ++ signedField std)) [] := minuteEntryBytes_eq slot a e
  have six : ((minuteEntryFields slot a e).map (·.1)).sum = 6 := rfl
  have holds := packed_holds (minuteEntryFields slot a e ++ (signedField value ++ signedField std)) [] []
  rw [List.nil_append, ← form, List.length_nil, fieldsFrom_append, fieldsFrom_append, six, signedField_length,
    fieldsFrom_signedField, fieldsFrom_signedField] at holds
  refine ⟨?_, holds.subset (List.subset_append_left ..), fun v hv => holds.subset ?_, fun v hv => holds.subset ?_⟩
  · rw [form, packed_length, List.map_append, List.map_append, List.sum_append, List.sum_append, six,
      signedField_length, signedField_length, Nat.add_assoc]
  · simp [hv]
  · simp [hv]

/-! ## The snapshot (R171) -/

/-- The last half-hour results that a snapshot shows (R72). -/
def shownResults (s : State) : List LastEntry := (s.avg.last.map (·.entries)).getD []

/-- The fields of a snapshot before the last half-hour results. -/
def snapshotFields (s : State) : List (Nat × Nat) :=
  let p := if s.tb.state = .unset then 0 else s.tb.plant.getD 0
  [(4, p / 1024), (2, p % 1024),
   (1, (s.supply.station.map
        [Station.unconfigured, .commission, .scan, .timeUnset, .catchUp, .recording, .hold].idxOf).getD 0
      + 8 * [TimeState.unset, .running, .frozen].idxOf s.tb.state
      + 32 * [ArchiveState.ready, .ringFull, .fault].idxOf s.arch.state + 128 * s.line.fstop.toNat),
   (3, s.line.run), (3, s.line.yearTotal), (2, s.retr.flags.toNat), (1, s.arch.outbound.length),
   (1, (s.wit.origins.map (fun o => o.staged.length)).sum),
   (1, (s.minutes.last.map (fun r =>
        [OpState.off, .standby, .firing, .coldFiring, .unknown, .noRecord].idxOf r.opState + 1)).getD 0
      + 8 * (shownSlots s).length),
   (4, (s.avg.last.map (·.start)).getD 0), (1, (shownResults s).length)]

/-- The current minute entry of a slot, as a snapshot shows it (R39). -/
def shownEntry (s : State) (q : Nat × Slot) : List Byte :=
  minuteEntryBytes q.1 (s.accs.getD q.1 {}) (s.minutes.last.bind (fun r => entryAt r.entries q.1))

theorem snapshot_eq (s : State) : snapshot s
    = packed (snapshotFields s) ((shownResults s).flatMap lastEntryBytes ++ (shownSlots s).flatMap (shownEntry s)) := by
  have count : (s.avg.last.map (·.entries.length)).getD 0 = (shownResults s).length := by
    rw [shownResults]
    cases s.avg.last <;> rfl
  simp only [snapshot, snapshotFields, packed, List.foldr, List.append_assoc, count, Station.code_eq, TimeState.code_eq,
    ArchiveState.code_eq, OpState.code_eq]
  rfl

theorem lastEntryBytes_length (e : LastEntry) : (lastEntryBytes e).length = 4 := by simp [lastEntryBytes]

theorem lastEntryBytes_holds (e : LastEntry) (after : List Byte) :
    HoldsFields (lastEntryBytes e ++ after)
      [(0, 1, e.slot + 16 * periodCode e.status), (1, 3, e.validated.getD 0)] := by
  rw [lastEntryBytes, PeriodStatus.code_eq, List.append_assoc]
  exact packed_holds [(1, e.slot + 16 * periodCode e.status), (3, e.validated.getD 0)] after []

/-- The snapshot shows the part as it stands. -/
theorem snapshot_shows (s : State) : SnapshotShows s (snapshot s) := by
  have results : (snapshot s).drop 23
      = (shownResults s).flatMap lastEntryBytes ++ (shownSlots s).flatMap (shownEntry s) := by
    rw [snapshot_eq]
    exact drop_packed (snapshotFields s) _
  refine ⟨?_, fun i e he => ?_, (shownSlots s).map (shownEntry s), ?_, List.length_map .., fun i q x hq hx => ?_⟩
  · rw [snapshot_eq]
    exact packed_holds (snapshotFields s) _ []
  · obtain ⟨after, h⟩ :=
      drop_flatMap (l := shownResults s) lastEntryBytes_length ((shownSlots s).flatMap (shownEntry s)) he
    rw [← List.drop_drop, results, h]
    exact lastEntryBytes_holds e after
  · rw [← List.drop_drop, results]
    exact List.drop_left' (length_flatMap_of_size lastEntryBytes_length _)
  · obtain rfl : shownEntry s q = x := by
      rw [List.getElem?_map, show (shownSlots s)[i]? = some q from hq] at hx
      exact Option.some.inj hx
    exact minuteEntryBytes_layout ..

/-! ## CONDITION and CLEAR_ATTENTION (R166, R171, R172) -/

theorem takesReads_iff (s : State) :
    takesReads s = true ↔ s.supply.station = some .timeUnset ∨ s.supply.station = some .recording := by
  simp [takesReads]

/-- Settles O47: the snapshot, the two lines, and the two queries with their answers. -/
theorem conditionAndClearAttentionAreAnswered : Obligations.ConditionAndClearAttentionAreAnswered := by
  refine ⟨snapshot_shows, lines_follow, fun head causes s taken => ⟨?_, fun station => ?_⟩⟩
  · rw [exec, execCondition, query_taken taken, if_pos rfl]
    rfl
  · refine ⟨clearFlags s.retr.flags causes, fun i hi => clearFlags_bit _ _ hi, ?_⟩
    rw [exec, execClearAttention, query_taken taken, if_pos ((takesReads_iff s).2 station)]
    rfl

end Sys2Proof.Machine
end

section
/-! The year close (R89 to R92): its records, what restarts, and the retention test for the year that opens. -/

namespace Sys2Proof.Machine

/-! ## Appends with room (R156) -/

/-- An entry of the outbound record queue as it joins the tail. -/
def tailEntry (x : RecordKind × Nat × List Byte) : OutEntry := { kind := x.1, start := x.2.1, body := x.2.2 }

/-- With room a record joins the tail, and nothing else changes. -/
theorem appendRecord_room {s : State} (h : s.arch.outbound.length < 16) (x : RecordKind × Nat × List Byte) :
    appendRecord x.1 x.2.1 x.2.2 s = s.setArch { s.arch with outbound := s.arch.outbound ++ [tailEntry x] } :=
  (appendRecord_appended x.1 x.2.1 x.2.2 s).1 h

/-- With room for all of them records join the tail in order, and nothing else changes. -/
theorem appendRecords_room (l : List (RecordKind × Nat × List Byte)) : ∀ s : State,
    s.arch.outbound.length + l.length ≤ 16 → l.foldl (fun u x => appendRecord x.1 x.2.1 x.2.2 u) s
      = s.setArch { s.arch with outbound := s.arch.outbound ++ l.map tailEntry } := by
  induction l with
  | nil => intro s _; rw [List.map_nil, List.append_nil]; rfl
  | cons x l ih =>
    intro s room
    rw [List.length_cons] at room
    rw [List.foldl_cons, appendRecord_room (by omega), ih _ (by simp; omega)]
    simp only [State.setArch_arch, List.append_assoc, List.map_cons, List.cons_append, List.nil_append]
    rfl

/-! ## The records of a year (R89 to R91) -/

/-- YEAR_GENERAL, and a YEAR_SLOT for each row of the tallies. -/
def yearRecords (year : Nat) (s : State) : List (RecordKind × Nat × List Byte) :=
  (.yearGeneral, yearStart year, yearGeneralBody (yearGeneralOf year s))
    :: s.year.rows.map (fun r => (.yearSlot, yearStart year, yearSlotBody (yearSlotOf s.cfg year r)))

theorem appendYearRecords_eq (year : Nat) (s : State) :
    appendYearRecords year s = (yearRecords year s).foldl (fun u x => appendRecord x.1 x.2.1 x.2.2 u) s := by
  rw [yearRecords, List.foldl_cons, List.foldl_map]
  rfl

theorem bPermille_eq_some {sl : Slot} {r : YearRow} {p : Nat} : bPermille sl r = some p
    ↔ (0 < sl.limitB ∧ 1 ≤ r.validHalfHours) ∧ 1000 * r.bCompliant / r.validHalfHours = p := by
  by_cases h : 0 < sl.limitB ∧ 1 ≤ r.validHalfHours <;> simp [bPermille, h]

/-- The permille is present with limit B set and a valid half-hour, and is a floor. -/
theorem bPermille_spec (sl : Slot) (r : YearRow) :
    ((bPermille sl r).isSome = true ↔ 0 < sl.limitB ∧ 1 ≤ r.validHalfHours)
    ∧ ∀ p, bPermille sl r = some p →
      p * r.validHalfHours ≤ 1000 * r.bCompliant ∧ 1000 * r.bCompliant < (p + 1) * r.validHalfHours := by
  refine ⟨by simp [Option.isSome_iff_exists, bPermille_eq_some], fun p hp => ?_⟩
  obtain ⟨⟨-, valid⟩, rfl⟩ := bPermille_eq_some.1 hp
  exact ⟨Nat.div_mul_le_self .., Nat.lt_mul_of_div_lt (Nat.lt_succ_self _) valid⟩

/-- A YEAR_SLOT record (R91). -/
theorem yearSlotOf_spec (c : Settings) (year : Nat) (r : YearRow) :
    let sl := c.slots.getD r.slot {}
    let x := yearSlotOf c year r
    x.row = r ∧ x.permille = bPermille sl r ∧ (x.bBreach = true ↔ ∃ p, x.permille = some p ∧ p < sl.bRequired)
    ∧ (x.availabilityBreach = true ↔ c.yearAllowance < r.invalidDays)
    ∧ (slotOfKind c .flow = none → x.mass = none)
    ∧ (slotOfKind c .flow ≠ none → x.mass = some ((2 * r.mass + 1000000) / 2000000)) := by
  intro sl x
  have breach : x.bBreach = match bPermille sl r with | some p => decide (p < sl.bRequired) | none => false := rfl
  have mass : x.mass = if (slotOfKind c .flow).isSome then some (roundDivNat r.mass 1000000) else none := rfl
  refine ⟨rfl, rfl, ?_, decide_eq_true_iff, fun h => ?_, fun h => ?_⟩
  · rw [breach, show x.permille = bPermille sl r from rfl]
    cases bPermille sl r <;> simp
  · rw [mass, h]
    rfl
  · rw [mass, if_pos (Option.isSome_iff_ne_none.2 h)]
    rfl

/-! ## What restarts and what goes on (R52, R69, R92, R140, R162) -/

/-- The state after a year close, before the retention is tested. -/
def yearRestarted (s : State) : State :=
  witnessYearClose ((lineYear (s.setYear { freshTallies s.year with openYear := s.year.openYear.map (· + 1) })).setAvg
    (clearRates s.avg))

theorem restartYear_eq (s : State) : restartYear s = retentionTest (yearRestarted s) := rfl

theorem yearRestarted_eq (s : State) : yearRestarted s = (((s.setYear { s.year with
      rows := s.year.rows.map (fun r => { slot := r.slot }), minutes := {}, fstops := 0, coldFiring := 0, totals := {}
      openYear := s.year.openYear.map (· + 1) }).setLine
    { s.line with yearTotal := 0, longest := 0, warned := false }).setAvg
    { s.avg with rows := s.avg.rows.map (fun r => { r with rate := none }) }).setWit
    { s.wit with ownFloor := s.wit.yearStart.getD (s.arch.latest + 1), yearStart := none } := rfl

/-- The retention test changes at most the archive state of the archive controller. -/
theorem retentionTest_arch (s : State) :
    s.arch = { (retentionTest s).arch with state := s.arch.state } := by
  simp only [retentionTest]
  split <;> rfl

/-- The four units that a year close restarts. -/
theorem closeYear_units (boundary : Nat) (s : State) :
    let t := closeYear boundary s
    t.year = { s.year with
      rows := s.year.rows.map (fun r => { slot := r.slot }), minutes := {}, fstops := 0, coldFiring := 0, totals := {}
      openYear := s.year.openYear.map (· + 1), day := (appendYearRecords (yearOf boundary - 1) s).year.day }
    ∧ t.line = { s.line with yearTotal := 0, longest := 0, warned := false }
    ∧ t.avg = { s.avg with rows := s.avg.rows.map (fun r => { r with rate := none }) }
    ∧ t.wit = { s.wit with ownFloor := s.wit.yearStart.getD (s.arch.latest + 1), yearStart := none } := by
  simp [closeYear, restartYear_eq, yearRestarted_eq]

/-- With room the records of the year stand at the tail, and the day that begins counts nothing for them. -/
theorem appendYearRecords_room {year : Nat} {s : State} (h : s.arch.outbound.length + 1 + s.year.rows.length ≤ 16) :
    appendYearRecords year s
      = s.setArch { s.arch with outbound := s.arch.outbound ++ (yearRecords year s).map tailEntry } := by
  rw [appendYearRecords_eq]
  refine appendRecords_room _ s ?_
  rw [yearRecords, List.length_cons, List.length_map]
  omega

/-- Settles O15: the records by `appendRecords_appended`, the restart, and the retention test of the restarted state. -/
theorem yearCloseRestartsTheTallies : Obligations.YearCloseRestartsTheTallies := by
  refine ⟨?_, fun year s => ⟨rfl, rfl, rfl, rfl, rfl, rfl, rfl, rfl⟩, ?_⟩
  · intro boundary s year t
    obtain ⟨tallies, line, avg, wit⟩ := closeYear_units boundary s
    have records := appendYearRecords_eq year s
    have state : (appendYearRecords year s).arch.state = s.arch.state := by simp
    have arch := retentionTest_arch (yearRestarted (appendYearRecords year s))
    rw [show t.year = _ from tallies, show t.line = _ from line, show t.avg = _ from avg, show t.wit = _ from wit]
    refine ⟨rfl, rfl, rfl, rfl, rfl, rfl, rfl, rfl, rfl, rfl, rfl, rfl, rfl, rfl, rfl, rfl, rfl, by simp [t],
      ⟨appendYearRecords year s, yearRestarted (appendYearRecords year s), ?_, rfl, retentionTest_tested _, rfl, rfl,
        rfl, ?_, ?_, ?_⟩, fun room => ?_⟩
    · rw [records]
      exact appendRecords_appended (yearRecords year s) s
    · rw [← state]
      exact arch
    · simp [yearRestarted_eq, year]
    · simp [yearRestarted_eq]
    · have outbound : t.arch.outbound = (appendYearRecords year s).arch.outbound := by
        simp [t, closeYear, restartYear_eq, yearRestarted_eq, year]
      rw [outbound, appendYearRecords_room room]
      simp [yearRecords, tailEntry, year]
  · intro c year r
    obtain ⟨present, floor⟩ := bPermille_spec (c.slots.getD r.slot {}) r
    obtain ⟨row, permille, breach, availability, noFlow, flow⟩ := yearSlotOf_spec c year r
    exact ⟨row, permille ▸ present, permille ▸ floor, breach, availability, noFlow, flow⟩

end Sys2Proof.Machine
end

section
/-! The half-hour close (R51, R57, R67, R69, R72, R75, R84): its record in the outbound record queue, and what it
updates. -/

namespace Sys2Proof.Machine

/-! ## The append of a record (R156) -/

/-- An appended record stands at the tail, after what the queue kept. -/
theorem appendRecord_outbound (kind : RecordKind) (start : Nat) (body : List Byte) (s : State) :
    ∃ kept, (appendRecord kind start body s).arch.outbound = kept ++ [{ kind := kind, start := start, body := body }] :=
  ⟨_, rfl⟩

/-- An append raises no other cause than ARCHIVE. -/
theorem flagSet_appendRecord {c : Cause} (h : c ≠ .archive) (kind : RecordKind) (start : Nat) (body : List Byte)
    (s : State) : flagSet (appendRecord kind start body s) c = flagSet s c := by
  have room : flagSet (makeRoom s) c = flagSet s c := by
    rw [makeRoom]
    split
    · simp only [flagSet, renewRelease_frame, countUp_frame]
      split <;> simp
    · split
      · rw [flagSet_raiseCause, decide_eq_false h.symm, Bool.or_false]
        rfl
      · rfl
  change flagSet (if _ then makeRoom s else s) c = _
  split
  · exact room
  · rfl

/-- An append changes the port at most by what is withdrawn and by a place in the order of waiting. -/
theorem appendRecord_port (kind : RecordKind) (start : Nat) (body : List Byte) (s : State) :
    let t := appendRecord kind start body s
    t.port = { s.port with recordQ := t.port.recordQ, ticket := t.port.ticket } := by
  simp only [← appendRecord_fields kind start body s]

/-- An append changes the year unit at most in the counters of the day. -/
theorem appendRecord_year (kind : RecordKind) (start : Nat) (body : List Byte) (s : State) :
    let t := appendRecord kind start body s
    t.year = { s.year with day := t.year.day } := by
  simp only [← appendRecord_fields kind start body s]

/-! ## What an append does to the queue (R156) -/

section
variable {kind : RecordKind} {start : Nat} {body : List Byte} {s t : State} {kept : List OutEntry}
  (appended : RecordAppended kind start body s t)
  (tail : t.arch.outbound = kept ++ [{ kind := kind, start := start, body := body }])
include appended tail

/-- With room every entry stays. -/
theorem RecordAppended.with_room (room : s.arch.outbound.length < 16) :
    kept = s.arch.outbound ∧ t.year = s.year ∧ t.port = s.port ∧ t.arch.lastAssigned = s.arch.lastAssigned := by
  rw [appended.1 room] at tail ⊢
  exact ⟨(List.append_cancel_right tail).symm, rfl, rfl, rfl⟩

variable (full : 16 ≤ s.arch.outbound.length) {older younger : List OutEntry} {e : OutEntry}
  (split : s.arch.outbound = older ++ e :: younger)
include full split

/-- In a full queue the oldest removable published entry leaves, as one unpublished record. -/
theorem RecordAppended.published_leaves (removable : removablePublish s e = true)
    (oldest : ∀ x ∈ older, removablePublish s x = false) :
    kept = older ++ younger
    ∧ t.year.day = { s.year.day with unpublished := min 4294967295 (s.year.day.unpublished + 1) }
    ∧ t.arch.lastAssigned = s.arch.lastAssigned := by
  obtain ⟨-, arch, year, -⟩ := (appended.2 full older e younger split).1 removable oldest
  rw [arch] at tail
  rw [arch, year]
  exact ⟨(List.append_cancel_right tail).symm, rfl, rfl⟩

/-- Without such an entry the oldest that waits for the archive leaves, as one unarchived record that raises ARCHIVE. -/
theorem RecordAppended.unarchived_leaves (waits : e.state = .waitingArchive)
    (none : ∀ x ∈ s.arch.outbound, removablePublish s x = false) (oldest : ∀ x ∈ older, x.state ≠ .waitingArchive) :
    kept = older ++ younger ∧ flagSet t .archive = true ∧ t.port = s.port
    ∧ t.arch.lastAssigned = (if e.seq = Option.none then s.arch.lastAssigned else s.arch.lastAssigned - 1)
    ∧ t.year.day = { s.year.day with unarchived := min 4294967295 (s.year.day.unarchived + 1) } := by
  rw [(appended.2 full older e younger split).2 waits none oldest] at tail ⊢
  exact ⟨(List.append_cancel_right tail).symm, by simp [flagSet, Cause.bit], rfl, rfl, rfl⟩

end

theorem removablePublish_congr {s t : State} (h : t.port = s.port) : removablePublish t = removablePublish s := by
  funext e
  simp only [removablePublish, seqOnLine, h]

/-! ## What a half-hour adds (R67, R69, R75, R84) -/

theorem toNat_eq_ite (b : Bool) : b.toNat = if b = true then 1 else 0 := by cases b <;> rfl

/-- An averaging row after a half-hour. -/
theorem avgRowHalfHour_eq (e : HalfHourEntry) (r : AvgRow) : avgRowHalfHour e r = { r with
    rate := match e.rate with | some q => some q | none => r.rate
    loss := match e.status with
      | .valid => 0
      | .invalid => min 65535 (r.loss + 1)
      | .notOperating => r.loss
    day := match e.status with
      | .notOperating => r.day
      | .invalid => { r.day with operating := r.day.operating + 1, invalid := r.day.invalid + 1 }
      | .valid => { r.day with
          operating := r.day.operating + 1, valid := r.day.valid + 1
          sum := r.day.sum + e.validated.getD 0
          aExceed := r.day.aExceed + (if e.aExceeded then 1 else 0) } } := by
  cases status : e.status <;> simp only [avgRowHalfHour, dayRowHalfHour, lossAfter, status, toNat_eq_ite] <;> rfl

theorem bCompliant_iff (sl : Slot) (e : HalfHourEntry) :
    bCompliant sl e = true ↔ 0 < sl.limitB ∧ e.status = .valid ∧ e.validated.getD 0 ≤ sl.limitB := by
  simp [bCompliant, and_assoc]

/-- The year tallies of a slot after a half-hour. -/
theorem yearRowHalfHour_eq (sl : Slot) (e : HalfHourEntry) (r : YearRow) : yearRowHalfHour sl e r = { r with
    validHalfHours := r.validHalfHours + (if e.status = .valid then 1 else 0)
    invalidHalfHours := r.invalidHalfHours + (if e.status = .invalid then 1 else 0)
    bCompliant := r.bCompliant + (if 0 < sl.limitB ∧ e.status = .valid ∧ e.validated.getD 0 ≤ sl.limitB then 1 else 0)
    aExceed := r.aExceed + (if e.aExceeded then 1 else 0)
    massSubst := r.massSubst + (if e.massSubst then 1 else 0)
    mass := r.mass + e.mass.getD 0 } := by
  simp only [yearRowHalfHour, toNat_eq_ite, bCompliant_iff, decide_eq_true_eq]

/-- CHANNEL_LOSS is raised for a slot at its third INVALID half-hour in a row (R67). -/
theorem lossRaised_iff (e : HalfHourEntry) (r : AvgRow) : lossRaised e r = true ↔ e.status = .invalid ∧ 2 ≤ r.loss := by
  simp only [lossRaised, Bool.and_eq_true, beq_iff_eq, decide_eq_true_eq]
  refine and_congr_right fun invalid => ?_
  simp only [invalid, lossAfter, satAdd, Config.countMax]
  omega

/-! ## The close -/

/-- The averaging unit after a half-hour. -/
def averagedHalfHour (h : HalfHour) (a : Averaging) : Averaging :=
  { rows := a.rows.map (fun r => (halfHourEntryAt h r.slot).elim r (avgRowHalfHour · r)), last := some (lastResults h) }

/-- LIMIT and CHANNEL_LOSS as a half-hour raises them (R65, R67). -/
def raiseHalfHour (h : HalfHour) (s : State) : State :=
  raiseIf (h.entries.any (fun e => lossRaised e (avgRowAt s.avg e.slot))) .channelLoss
    (raiseIf (h.entries.any (·.aExceeded)) .limit s)

/-- The state in which the record of a half-hour is appended. -/
def halfHourUpdated (h : HalfHour) (s : State) : State :=
  (((raiseHalfHour h (lineHalfHour s)).setAvg (averagedHalfHour h s.avg)).setYear
    (yearAddHalfHour s.cfg h s.year)).setMinutes { s.minutes with rows := [] }

theorem closeHalfHour_eq (boundary : Nat) (s : State) :
    let h := halfHourRecord (boundary - 1800) s
    closeHalfHour boundary s = appendRecord .halfHour (boundary - 1800) (halfHourBody h) (halfHourUpdated h s) := by
  intro h
  have rows : (fun r : AvgRow => (halfHourEntryAt h r.slot).elim r (avgRowHalfHour · r))
      = fun r => match halfHourEntryAt h r.slot with | some e => avgRowHalfHour e r | none => r := by
    funext r
    cases halfHourEntryAt h r.slot <;> rfl
  simp only [closeHalfHour, halfHourUpdated, raiseHalfHour, averagedHalfHour, State.setAvg_cfg, State.setAvg_year,
    State.setAvg_minutes, State.setYear_minutes, raiseIf_frame, lineHalfHour_frame, rows]
  rfl

/-- What a half-hour leaves alone until its record is appended, and the units it updates. -/
theorem halfHourUpdated_frame (h : HalfHour) (s : State) :
    let u := halfHourUpdated h s
    u.supply = s.supply ∧ u.port = s.port ∧ u.accs = s.accs ∧ u.tb = s.tb ∧ u.wit = s.wit ∧ u.arch = s.arch
    ∧ u.minutes = { s.minutes with rows := [] } ∧ u.avg = averagedHalfHour h s.avg
    ∧ u.year = yearAddHalfHour s.cfg h s.year
    ∧ u.line = { s.line with coldFed := false, fstopInHalfHour := s.line.fstop } := by
  simp [halfHourUpdated, raiseHalfHour, lineHalfHour]

/-- The flags after a half-hour. -/
theorem flagSet_halfHourUpdated (h : HalfHour) (s : State) (c : Cause) : flagSet (halfHourUpdated h s) c =
    (flagSet s c || (h.entries.any (·.aExceeded) && decide (.limit = c))
      || (h.entries.any (fun e => lossRaised e (avgRowAt s.avg e.slot)) && decide (.channelLoss = c))) := by
  change flagSet (raiseHalfHour h (lineHalfHour s)) c = _
  rw [raiseHalfHour, flagSet_raiseIf, flagSet_raiseIf, lineHalfHour, flagSet_setLine]
  rfl

/-- The record of a half-hour joins the tail as R156 says, in terms of the state that the half-hour finds. -/
theorem closeHalfHour_appended (boundary : Nat) (s : State) :
    let h := halfHourRecord (boundary - 1800) s
    RecordAppended .halfHour (boundary - 1800) (halfHourBody h) (halfHourUpdated h s) (closeHalfHour boundary s) := by
  intro h
  rw [closeHalfHour_eq]
  exact appendRecord_appended ..

/-- The units that a half-hour close updates, and those that it leaves alone. -/
theorem closeHalfHour_units (boundary : Nat) (s : State) :
    let h := halfHourRecord (boundary - 1800) s
    let t := closeHalfHour boundary s
    t.avg = averagedHalfHour h s.avg ∧ t.year = { yearAddHalfHour s.cfg h s.year with day := t.year.day }
    ∧ t.line = { s.line with coldFed := false, fstopInHalfHour := s.line.fstop }
    ∧ t.port = { s.port with recordQ := t.port.recordQ, ticket := t.port.ticket } := by
  intro h t
  have close : t = appendRecord .halfHour (boundary - 1800) (halfHourBody h) (halfHourUpdated h s) :=
    closeHalfHour_eq boundary s
  obtain ⟨-, port, -, -, -, -, -, avg, year, line⟩ := halfHourUpdated_frame h s
  refine ⟨?_, ?_, ?_, ?_⟩
  · rw [close, ← avg]
    simp
  · rw [close, ← year]
    exact appendRecord_year ..
  · rw [close, ← line]
    simp
  · rw [close, ← port]
    exact appendRecord_port ..

/-- The flags after a half-hour close: LIMIT and CHANNEL_LOSS by their causes, and no other but ARCHIVE. -/
theorem flagSet_closeHalfHour {c : Cause} (hc : c ≠ .archive) (boundary : Nat) (s : State) :
    flagSet (closeHalfHour boundary s) c = flagSet (halfHourUpdated (halfHourRecord (boundary - 1800) s) s) c := by
  rw [closeHalfHour_eq]
  exact flagSet_appendRecord hc ..

/-- LIMIT and CHANNEL_LOSS after a half-hour close: set before, or raised by an entry (R65, R67). -/
theorem closeHalfHour_causes (boundary : Nat) (s : State) :
    let h := halfHourRecord (boundary - 1800) s
    let t := closeHalfHour boundary s
    (flagSet t .limit = true ↔ flagSet s .limit = true ∨ ∃ e ∈ h.entries, e.aExceeded = true)
    ∧ (flagSet t .channelLoss = true
        ↔ flagSet s .channelLoss = true ∨ ∃ e ∈ h.entries, e.status = .invalid ∧ 2 ≤ (avgRowAt s.avg e.slot).loss)
    ∧ ∀ c : Cause, c ≠ .limit → c ≠ .channelLoss → c ≠ .archive → flagSet t c = flagSet s c := by
  refine ⟨?_, ?_, fun c limit loss archive => ?_⟩
  · simp [flagSet_closeHalfHour, flagSet_halfHourUpdated]
  · simp [flagSet_closeHalfHour, flagSet_halfHourUpdated, lossRaised_iff]
  · simp [flagSet_closeHalfHour archive, flagSet_halfHourUpdated, limit.symm, loss.symm]

/-- The averaging rows and the year's rows after a half-hour close: a slot without an entry keeps its row. -/
theorem closeHalfHour_rows (boundary : Nat) (s : State) :
    let h := halfHourRecord (boundary - 1800) s
    let t := closeHalfHour boundary s
    t.avg.rows = s.avg.rows.map (fun r => (halfHourEntryAt h r.slot).elim r (avgRowHalfHour · r))
    ∧ t.year.rows = s.year.rows.map
        (fun r => (halfHourEntryAt h r.slot).elim r (yearRowHalfHour (s.cfg.slots.getD r.slot {}) · r)) := by
  obtain ⟨avg, year, -, -⟩ := closeHalfHour_units boundary s
  refine ⟨by rw [avg]; rfl, ?_⟩
  rw [year]
  refine List.map_congr_left fun r _ => ?_
  cases halfHourEntryAt (halfHourRecord (boundary - 1800) s) r.slot <;> rfl

/-- Settles O14: the queue as R156 has it by the lemmas on `RecordAppended`, the updated units, and the flags. -/
theorem halfHourCloseAppendsItsRecord : Obligations.HalfHourCloseAppendsItsRecord := by
  intro boundary s h t
  obtain ⟨-, port, -, -, -, arch, -, -, tallies, -⟩ := halfHourUpdated_frame h s
  have appended : RecordAppended .halfHour (boundary - 1800) (halfHourBody h) (halfHourUpdated h s) t :=
    closeHalfHour_appended boundary s
  obtain ⟨kept, tail⟩ : ∃ kept, t.arch.outbound
      = kept ++ [{ kind := .halfHour, start := boundary - 1800, body := halfHourBody h }] := by
    rw [show t = _ from closeHalfHour_eq boundary s]
    exact appendRecord_outbound ..
  have day : (halfHourUpdated h s).year.day = s.year.day := by rw [tallies]; rfl
  have removable : removablePublish (halfHourUpdated h s) = removablePublish s := removablePublish_congr port
  obtain ⟨avg', year', line', port'⟩ := closeHalfHour_units boundary s
  obtain ⟨avgRows, yearRows⟩ := closeHalfHour_rows boundary s
  obtain ⟨limit, loss, others⟩ := closeHalfHour_causes boundary s
  refine ⟨⟨kept, tail, ?_, ?_⟩, rfl, by simp [t, closeHalfHour_minutes], by simp [t, closeHalfHour_minutes], ?_, ?_, ?_,
    ?_, ?_, ?_, ?_, ?_, fun e he => ⟨fun exceeded => limit.2 (.inr ⟨e, he, exceeded⟩),
      fun invalid run => loss.2 (.inr ⟨e, he, invalid, run⟩)⟩, limit.1, loss.1, others, port', by simp [t], by simp [t],
    line', by simp [t], by simp [t], by simp [t], by simp [t]⟩
  · intro room
    rw [← arch] at room
    obtain ⟨stay, year, samePort, last⟩ := appended.with_room tail room
    rw [stay, year, samePort, last, arch]
    exact ⟨rfl, day, port, rfl⟩
  · intro full older e younger split
    rw [← arch] at full split
    rw [← removable, ← arch, ← port, ← day]
    refine ⟨fun first oldest => ?_,
      fun waits none oldest => appended.unarchived_leaves tail full split waits none oldest⟩
    obtain ⟨stay, counted, last⟩ := appended.published_leaves tail full split first oldest
    obtain ⟨-, -, -, -, withdrawn, -⟩ := (appended.2 full older e younger split).1 first oldest
    exact ⟨stay, counted, last, withdrawn⟩
  · rw [show t.avg = _ from avg']; rfl
  · rw [show t.avg.rows = _ from avgRows]
    refine List.map_congr_left fun r _ => ?_
    rw [halfHourEntryAt]
    cases h.entries.find? (fun e => e.slot == r.slot) with
    | none => rfl
    | some e => exact avgRowHalfHour_eq e r
  · rw [show t.year = _ from year']; rfl
  · rw [show t.year = _ from year']; rfl
  · rw [show t.year.rows = _ from yearRows]
    refine List.map_congr_left fun r _ => ?_
    rw [halfHourEntryAt]
    cases h.entries.find? (fun e => e.slot == r.slot) with
    | none => rfl
    | some e => exact yearRowHalfHour_eq _ e r
  · rw [show t.year = _ from year']; rfl
  · rw [show t.year = _ from year']; rfl
  · rw [show t.year = _ from year']; rfl

end Sys2Proof.Machine
end

section
/-! The HALF_HOUR record (R58 to R70): the minute counts, the reference averages, and a slot's status, values, cause and
mass. -/

namespace Sys2Proof.Machine

/-! ## The operating minutes and the averages over them (R58, R60) -/

theorem OpState.operating_iff (x : OpState) : x.operating = true ↔ x ≠ .off ∧ x ≠ .standby := by
  cases x <;> simp [OpState.operating]

theorem operatingRows_eq (rows : List MinuteRow) :
    operatingRows rows = rows.filter (fun r => decide (r.opState ≠ .off ∧ r.opState ≠ .standby)) :=
  List.filter_congr fun r _ => by rw [Bool.eq_iff_iff, OpState.operating_iff, decide_eq_true_iff]

theorem countState_cons (r : MinuteRow) (rows : List MinuteRow) (st : OpState) :
    countState (r :: rows) st = countState rows st + if r.opState = st then 1 else 0 := by
  simp [countState, List.countP_cons]

/-- Each minute has one of the six operating states (R58). -/
theorem minuteCountsOf_sum (rows : List MinuteRow) : (minuteCountsOf rows).toList.sum = rows.length := by
  induction rows with
  | nil => rfl
  | cons r rows ih =>
    rw [List.length_cons, ← ih]
    cases state : r.opState <;> simp [minuteCountsOf, MinuteCounts.toList, countState_cons, state] <;> omega

theorem operatingRows_cons_length (r : MinuteRow) (rows : List MinuteRow) :
    (operatingRows (r :: rows)).length = (operatingRows rows).length + r.opState.operating.toNat := by
  cases h : r.opState.operating <;> simp [operatingRows, h]

theorem minuteCountsOf_operating (rows : List MinuteRow) :
    (minuteCountsOf rows).operating = (operatingRows rows).length := by
  induction rows with
  | nil => rfl
  | cons r rows ih =>
    rw [operatingRows_cons_length, ← ih]
    cases state : r.opState <;>
      simp [minuteCountsOf, MinuteCounts.operating, countState_cons, OpState.operating, state] <;> omega

/-- A rounded mean, absent without a value. -/
theorem roundedMean_spec {vals : List Nat} {x : Option Nat}
    (h : x = if vals.isEmpty then none else some (roundDivNat vals.sum vals.length)) :
    (x = none ↔ vals = []) ∧ ∀ v, x = some v → v = (2 * vals.sum + vals.length) / (2 * vals.length) := by
  subst h
  cases vals with
  | nil => simp
  | cons a vals => simp [roundDivNat, eq_comm]

/-! ## The status of a slot (R61, R62) -/

theorem halfHourStatus_notOperating_iff (m v : Nat) : halfHourStatus m v = .notOperating ↔ m < 15 := by
  unfold halfHourStatus
  split_ifs <;> simp_all

theorem halfHourStatus_valid_iff (m v : Nat) : halfHourStatus m v = .valid ↔ 15 ≤ m ∧ 2 * m ≤ 3 * v := by
  unfold halfHourStatus
  split_ifs <;> simp <;> omega

/-! ## The validated value (R64) -/

/-- The allowance is the confidence's thousandths of the daily limit, rounded to the nearest, halves up. -/
theorem allowance_bounds (sl : Slot) : 2000 * allowance sl ≤ 2 * sl.dailyLimit * sl.confidence + 1000
    ∧ 2 * sl.dailyLimit * sl.confidence + 1000 < 2000 * (allowance sl + 1) := by
  rw [allowance, roundDivNat, mul_assoc]
  omega

theorem validatedValue_eq (sl : Slot) (raw : Int) :
    validatedValue sl raw = if (allowance sl : Int) < raw then (raw - allowance sl).toNat else 0 := by
  unfold validatedValue
  split_ifs <;> omega

/-- A limit is exceeded by the value of a VALID period, where the limit is set (R65, R78). -/
theorem limitExceeded_iff (st : PeriodStatus) (limit v : Nat) :
    (st == .valid && decide (0 < limit) && decide (limit < v)) = true
      ↔ ∃ x, (if st = .valid then some v else none) = some x ∧ 0 < limit ∧ limit < x := by
  by_cases valid : st = .valid <;> simp [valid]

/-! ## The cause (R66) -/

theorem mostFrequent_isSome (es : List MinuteEntry) (st : MinuteStatus) (l : List MinuteStatus) :
    (mostFrequent es (st :: l)).isSome = true := by
  unfold mostFrequent
  split
  · rfl
  · split_ifs <;> rfl

/-- The most frequent status exceeds those before it in the order and is not exceeded by those after it. -/
theorem mostFrequent_spec (es : List MinuteEntry) {st : MinuteStatus} {order : List MinuteStatus}
    (h : mostFrequent es order = some st) :
    let count (x : MinuteStatus) : Nat := es.countP (fun e => e.status == x)
    ∃ l r, order = l ++ st :: r ∧ (∀ x ∈ l, count x < count st) ∧ ∀ x ∈ r, count x ≤ count st := by
  intro count
  induction order generalizing st with
  | nil => simp [mostFrequent] at h
  | cons head order ih =>
    unfold mostFrequent at h
    split at h
    next absent =>
      obtain rfl := Option.some.inj h
      cases order with
      | nil => exact ⟨[], [], rfl, by simp, by simp⟩
      | cons a order => simpa [absent] using mostFrequent_isSome es a order
    next best found =>
      obtain ⟨l, r, rfl, before, after⟩ := ih found
      by_cases reached : count best ≤ count head
      · obtain rfl := Option.some.inj ((if_pos reached).symm.trans h)
        refine ⟨[], _, rfl, by simp, fun x hx => ?_⟩
        rcases List.mem_append.1 hx with hx | hx
        · exact (before x hx).le.trans reached
        · rcases List.mem_cons.1 hx with rfl | hx
          · exact reached
          · exact (after x hx).trans reached
      · obtain rfl := Option.some.inj ((if_neg reached).symm.trans h)
        exact ⟨head :: l, r, rfl, List.forall_mem_cons.2 ⟨Nat.lt_of_not_le reached, before⟩, after⟩

/-! ## The mass and the mean mass rate (R68, R69) -/

section Mass
variable {m : Nat} {rates : List Nat} {previous : Option Nat}

/-- Without a FLOW slot or without an operating minute there is no mass. -/
theorem massOf_absent {flow : Bool} (h : flow = false ∨ m = 0) :
    massOf flow m rates previous = (none, none, false, false) := by
  rcases h with rfl | rfl <;> simp [massOf]

theorem massOf_pairs (operating : 1 ≤ m) (pairs : rates ≠ []) : massOf true m rates previous
      = (some (roundDivNat (rates.sum * m) (rates.length * 6000)), some (roundDivNat rates.sum rates.length),
        false, false) := by
  simp [massOf, pairs, Nat.one_le_iff_ne_zero.1 operating]

theorem massOf_idle (operating : 1 ≤ m) (idle : m < 15) (lack : rates = []) :
    massOf true m rates previous = (some 0, none, false, false) := by
  simp [massOf, lack, idle, Nat.one_le_iff_ne_zero.1 operating]

theorem massOf_carried (operating : 15 ≤ m) (lack : rates = []) {q : Nat} (carried : previous = some q) :
    massOf true m rates previous = (some (roundDivNat (q * m) 6000), none, true, false) := by
  simp [massOf, lack, carried, Nat.not_lt.2 operating, show m ≠ 0 by omega]

theorem massOf_unknown (operating : 15 ≤ m) (lack : rates = []) (unknown : previous = none) :
    massOf true m rates previous = (some 0, none, false, true) := by
  simp [massOf, lack, unknown, Nat.not_lt.2 operating, show m ≠ 0 by omega]

end Mass

/-! ## The entry of a slot (R61 to R70) -/

section Entry
variable (c : Settings) (rows : List MinuteRow) (previous : Option Nat) (slot : Nat) (sl : Slot)

/-- The VALID entries of a slot in the operating minutes. -/
def validEntries : List MinuteEntry := (operatingEntries rows slot).filter (fun x => x.status == .valid)

/-- The raw average of a slot (R63). -/
def rawAverage : Int :=
  roundDiv ((validEntries rows slot).map (fun x => x.std.getD 0)).sum (validEntries rows slot).length

theorem halfHourEntry_status :
    let e := halfHourEntry c rows previous slot sl
    e.validMinutes = (validEntries rows slot).length
    ∧ e.status = halfHourStatus (minuteCountsOf rows).operating e.validMinutes
    ∧ e.saturated = (validEntries rows slot).any (fun x => x.flags.saturated) := ⟨rfl, rfl, rfl⟩

theorem halfHourEntry_values :
    let e := halfHourEntry c rows previous slot sl
    let v := validatedValue sl (rawAverage rows slot)
    e.raw = (if e.status = .valid then some (rawAverage rows slot) else none)
    ∧ e.validated = (if e.status = .valid then some v else none)
    ∧ e.aExceeded = (e.status == .valid && decide (0 < sl.limitA) && decide (sl.limitA < v))
    ∧ e.bExceeded = (e.status == .valid && decide (0 < sl.limitB) && decide (sl.limitB < v)) :=
  ⟨rfl, rfl, rfl, rfl⟩

/-- An INVALID slot, and no other, has a cause: the most frequent invalid status (R66). -/
theorem halfHourEntry_cause :
    let e := halfHourEntry c rows previous slot sl
    (e.cause.isSome = true ↔ e.status = .invalid)
    ∧ ∀ st, e.cause = some st → mostFrequent (operatingEntries rows slot) causeOrder = some st := by
  intro e
  have cause : e.cause
      = if e.status = .invalid then mostFrequent (operatingEntries rows slot) causeOrder else none := rfl
  rw [cause]
  split_ifs with invalid
  · exact ⟨iff_of_true (mostFrequent_isSome ..) invalid, fun _ found => found⟩
  · exact ⟨iff_of_false (by simp) invalid, fun _ absent => nomatch absent⟩

theorem halfHourEntry_mass {mass rate : Option Nat} {subst lacking : Bool}
    (h : massOf (slotOfKind c .flow).isSome (minuteCountsOf rows).operating (pairRates c rows slot) previous
      = (mass, rate, subst, lacking)) :
    let e := halfHourEntry c rows previous slot sl
    e.mass = mass ∧ e.rate = rate ∧ e.massSubst = subst ∧ e.massNone = lacking := by
  simp only [halfHourEntry, h, and_self]

/-- The valid minutes of a slot are operating ones. -/
theorem validMinutes_le_operating :
    (halfHourEntry c rows previous slot sl).validMinutes ≤ (minuteCountsOf rows).operating := by
  rw [minuteCountsOf_operating]
  exact (List.length_filter_le ..).trans (List.length_filterMap_le ..)

end Entry

/-- Settles O13: the general part by the rules on the counts and the averages; a slot entry by those on its status, its
values, its cause and its mass. -/
theorem halfHourCountsStatusAndValue : Obligations.HalfHourCountsStatusAndValue := by
  refine ⟨fun start s => ?_, fun c rows previous slot sl => ?_⟩
  · intro h rows average minutes
    have mean (k : SlotKind) : average (referenceAverage s.cfg rows k) k := by
      simp only [average, ← operatingRows_eq]
      exact roundedMean_spec rfl
    refine ⟨rfl, minuteCountsOf_sum rows, rfl, rfl, rfl, rfl, rfl, mean .o2, mean .h2o, rfl, fun e he => ?_⟩
    obtain ⟨q, -, rfl⟩ := List.mem_map.1 he
    exact validMinutes_le_operating ..
  · intro e m operating es valid count rates
    have rows' : operating = operatingRows rows := (operatingRows_eq rows).symm
    have es' : es = operatingEntries rows slot := congrArg (List.filterMap _) rows'
    have valid' : valid = validEntries rows slot := congrArg (List.filter _) es'
    have rates' : rates = pairRates c rows slot := congrArg (List.filterMap _) rows'
    obtain ⟨validMinutes, status, saturated⟩ := halfHourEntry_status c rows previous slot sl
    obtain ⟨hasCause, cause⟩ := halfHourEntry_cause c rows previous slot sl
    obtain ⟨raw, validated, a, b⟩ := halfHourEntry_values c rows previous slot sl
    refine ⟨?_, ?_, ?_, ?_, ?_, ?_, fun x hx => ?_, ?_, ?_, ?_, hasCause, fun st hst => ?_,
      fun absent => halfHourEntry_mass c rows previous slot sl (massOf_absent (by simpa using absent)),
      fun flow operates => ?_⟩
    · rw [rows']; exact minuteCountsOf_operating rows
    · rw [valid']; exact validMinutes
    · rw [status]; exact halfHourStatus_notOperating_iff ..
    · rw [status]; exact halfHourStatus_valid_iff ..
    · rw [raw]; simp [e]
    · rw [validated]; simp [e]
    · obtain ⟨isValid, rfl⟩ : e.status = .valid ∧ rawAverage rows slot = x := by simpa [e] using raw.symm.trans hx
      obtain ⟨lower, upper⟩ := allowance_bounds sl
      refine ⟨valid' ▸ roundDiv_roundsTo _ _, allowance sl, lower, upper, ?_⟩
      rw [validated, if_pos isValid, validatedValue_eq]
    · rw [a, validated]; exact limitExceeded_iff ..
    · rw [b, validated]; exact limitExceeded_iff ..
    · rw [saturated, valid']; exact List.any_eq_true
    · rw [show count = fun st => (operatingEntries rows slot).countP (fun x => x.status == st) by rw [← es']]
      exact mostFrequent_spec _ (cause st hst)
    · have used : (slotOfKind c .flow).isSome = true := Option.isSome_iff_ne_none.2 flow
      have masses {mass rate : Option Nat} {subst lacking : Bool}
          (h : massOf true m rates previous = (mass, rate, subst, lacking)) :
          e.mass = mass ∧ e.rate = rate ∧ e.massSubst = subst ∧ e.massNone = lacking :=
        halfHourEntry_mass c rows previous slot sl (by rw [used, ← rates']; exact h)
      refine ⟨fun pairs => ?_, fun lack idle => masses (massOf_idle operates idle lack),
        fun lack running => ⟨?_, fun q carried => ?_, fun unknown => ?_⟩⟩
      · obtain ⟨mass, rate, subst, lacking⟩ := masses (massOf_pairs operates pairs)
        exact ⟨subst, lacking, rate, mass⟩
      · cases carried : previous with
        | none =>
          obtain ⟨-, rate, -, -⟩ := masses (massOf_unknown running lack carried)
          exact rate
        | some q =>
          obtain ⟨-, rate, -, -⟩ := masses (massOf_carried running lack carried)
          exact rate
      · obtain ⟨mass, -, subst, lacking⟩ := masses (massOf_carried running lack carried)
        exact ⟨mass, subst, lacking⟩
      · obtain ⟨mass, -, subst, lacking⟩ := masses (massOf_unknown running lack unknown)
        exact ⟨mass, subst, lacking⟩

end Sys2Proof.Machine
end

section
/-! The day close (R75 to R79, R85, R87): a slot's day entry, the state in which the DAY record is appended, and what
the close leaves in each unit. -/

namespace Sys2Proof.Machine

/-! ## The entry of a slot (R77, R78) -/

theorem slotsInUse_slot {c : Settings} {q : Nat × Slot} (h : q ∈ slotsInUse c) : c.slots.getD q.1 {} = q.2 := by
  obtain ⟨p, place, rfl⟩ := List.mem_map.1 (List.mem_filter.1 h).1
  simp [List.getD, List.mem_zipIdx_iff_getElem?.1 place]

theorem dayStatus_notOperating_iff (c : Settings) (d : DayRow) : dayStatus c d = .notOperating ↔ d.operating = 0 := by
  unfold dayStatus
  split_ifs <;> simp_all

theorem dayStatus_valid_iff (c : Settings) (d : DayRow) :
    dayStatus c d = .valid ↔ 0 < d.operating ∧ 1 ≤ d.valid ∧ d.invalid ≤ c.dayAllowance := by
  unfold dayStatus
  split_ifs <;> simp <;> omega

/-- A VALID day, and no other, has an average. -/
theorem dayEntry_spec (c : Settings) (slot : Nat) (sl : Slot) (d : DayRow) :
    let e := dayEntry c slot sl d
    (e.average.isSome = true ↔ e.status = .valid)
    ∧ (∀ v, e.average = some v → v = (2 * d.sum + d.valid) / (2 * d.valid))
    ∧ (e.exceeded = true ↔ ∃ v, e.average = some v ∧ 0 < sl.dailyLimit ∧ sl.dailyLimit < v) := by
  intro e
  have average : e.average = if e.status = .valid then some (roundDivNat d.sum d.valid) else none := rfl
  refine ⟨by simp [average], fun v hv => ?_, limitExceeded_iff ..⟩
  obtain ⟨-, rfl⟩ : e.status = .valid ∧ roundDivNat d.sum d.valid = v := by simpa [average] using hv
  rfl

/-! ## The tallies (R85, R87) -/

theorem Counters.plus_toList (t c : Counters) :
    (t.plus c).toList = List.zipWith (fun a b => min 4294967295 (a + b)) t.toList c.toList := rfl

/-- The year tallies of a slot after a day. -/
theorem yearRowDay_eq (e : DayEntry) (r : YearRow) : yearRowDay e r = { r with
    validDays := r.validDays + (if e.status = .valid then 1 else 0)
    invalidDays := r.invalidDays + (if e.status = .invalid then 1 else 0)
    idleDays := r.idleDays + (if e.status = .notOperating then 1 else 0)
    dayExceed := r.dayExceed + (if e.exceeded then 1 else 0) } := by
  simp only [yearRowDay, toNat_eq_ite, decide_eq_true_eq]

/-! ## The close -/

/-- The state in which the record of a day is appended. -/
def dayUpdated (d : DayRecord) (s : State) : State :=
  (raiseIf (d.entries.any (·.exceeded)) .limit s).setYear (handOverCounters (yearAddDay d s.year))

theorem closeDay_eq (boundary : Nat) (s : State) :
    let d := dayRecord (boundary - 86400) s
    closeDay boundary s
      = (appendRecord .day (boundary - 86400) (dayBody d) (dayUpdated d s)).setAvg (clearDays s.avg) := by
  intro d
  simp only [closeDay, dayUpdated, appendRecord_frame, State.setYear_avg, raiseIf_frame]
  rfl

/-- The day finds the queue and the port as they were, and the counters restart before the append (R87). -/
theorem dayUpdated_units (d : DayRecord) (s : State) :
    (dayUpdated d s).arch = s.arch ∧ (dayUpdated d s).port = s.port ∧ (dayUpdated d s).year.day = {} := by
  simp [dayUpdated, handOverCounters]

@[simp] theorem flagSet_setAvg (s : State) (a : Averaging) (c : Cause) : flagSet (s.setAvg a) c = flagSet s c := rfl

/-- The flags after a day: LIMIT by an entry above its daily limit (R78), and no other. -/
theorem flagSet_dayUpdated (d : DayRecord) (s : State) (c : Cause) : flagSet (dayUpdated d s) c = true
    ↔ flagSet s c = true ∨ (c = .limit ∧ ∃ e ∈ d.entries, e.exceeded = true) := by
  simp [dayUpdated, and_comm, eq_comm (a := c)]

/-- The record of a day joins the tail as R156 says, in terms of the state that the day leaves. -/
theorem closeDay_appended (boundary : Nat) (s : State) :
    let d := dayRecord (boundary - 86400) s
    let t := closeDay boundary s
    ∃ u v, RecordAppended .day (boundary - 86400) (dayBody d) u v ∧ u.arch = s.arch ∧ u.port = s.port
      ∧ u.year.day = {} ∧ (∀ c : Cause, flagSet u c = true ↔
          flagSet s c = true ∨ (c = .limit ∧ ∃ e ∈ d.entries, e.exceeded = true))
      ∧ t.arch = v.arch ∧ t.port = v.port ∧ t.year = v.year ∧ t.retr = v.retr := by
  intro d t
  obtain ⟨arch, port, day⟩ := dayUpdated_units d s
  refine ⟨dayUpdated d s, appendRecord .day (boundary - 86400) (dayBody d) (dayUpdated d s), appendRecord_appended ..,
    arch, port, day, flagSet_dayUpdated d s, ?_⟩
  rw [show t = _ from closeDay_eq boundary s]
  exact ⟨rfl, rfl, rfl, rfl⟩

theorem closeDay_outbound (boundary : Nat) (s : State) : ∃ kept, (closeDay boundary s).arch.outbound
    = kept ++ [{ kind := .day, start := boundary - 86400, body := dayBody (dayRecord (boundary - 86400) s) }] := by
  rw [closeDay_eq]
  exact appendRecord_outbound ..

/-- The averaging unit and the year unit after a day: of the year unit only the counters of the day that begins follow
the append. -/
theorem closeDay_units (boundary : Nat) (s : State) :
    let t := closeDay boundary s
    t.avg = clearDays s.avg
    ∧ t.year = { handOverCounters (yearAddDay (dayRecord (boundary - 86400) s) s.year) with day := t.year.day } := by
  intro t
  have close : t = _ := closeDay_eq boundary s
  refine ⟨congrArg State.avg close, ?_⟩
  rw [close]
  exact appendRecord_year .day (boundary - 86400) (dayBody (dayRecord (boundary - 86400) s)) (dayUpdated _ s)

/-- An entry above its daily limit raises LIMIT (R78). -/
theorem closeDay_limit {boundary : Nat} {s : State} {e : DayEntry} (he : e ∈ (dayRecord (boundary - 86400) s).entries)
    (exceeded : e.exceeded = true) : flagSet (closeDay boundary s) .limit = true := by
  rw [closeDay_eq, flagSet_setAvg, flagSet_appendRecord (by decide), flagSet_dayUpdated]
  exact .inr ⟨rfl, e, he, exceeded⟩

/-- An entry of the DAY record is that of its slot's day row. -/
theorem dayRecord_entry {start : Nat} {s : State} {e : DayEntry} (h : e ∈ (dayRecord start s).entries) :
    e = dayEntry s.cfg e.slot (s.cfg.slots.getD e.slot {}) (avgRowAt s.avg e.slot).day := by
  obtain ⟨q, pollutant, rfl⟩ := List.mem_map.1 h
  exact congrArg (fun sl => dayEntry s.cfg q.1 sl _) (slotsInUse_slot (List.mem_filter.1 pollutant).1).symm

/-- Settles O60: the entries by the rules on a day entry, the queue as R156 has it in terms of the state that the day
leaves, and the rest by the units of the close and its frame. -/
theorem dayCloseAppendsItsRecordAndRestartsTheDay : Obligations.DayCloseAppendsItsRecordAndRestartsTheDay := by
  intro boundary s d t
  obtain ⟨avg, year⟩ := closeDay_units boundary s
  obtain ⟨kept, tail⟩ := closeDay_outbound boundary s
  obtain ⟨supply, -, accs, minutes, line, tb, wit, -⟩ := closeDay_frame boundary s
  obtain ⟨flash, -, -, -, -, latest, -⟩ := closeDay_fields boundary s
  refine ⟨⟨rfl, rfl, fun r rest rows => ?_, ?_, fun e he => ?_⟩, ⟨kept, tail, fun room => ?_⟩,
    closeDay_appended boundary s, ?_, ?_, avg, ?_, ?_, ?_, tb, accs, minutes, line, wit, supply, flash, latest⟩
  · simp [d, dayRecord, rows]
  · simp [d, dayRecord, dayEntry, Function.comp_def]
  · intro r limit
    have entry : e = dayEntry s.cfg e.slot (s.cfg.slots.getD e.slot {}) r := dayRecord_entry he
    obtain ⟨average, mean, exceeded⟩ := dayEntry_spec s.cfg e.slot (s.cfg.slots.getD e.slot {}) r
    rw [← entry] at average mean exceeded
    have status : e.status = dayStatus s.cfg r := congrArg DayEntry.status entry
    refine ⟨congrArg DayEntry.valid entry, congrArg DayEntry.invalid entry, congrArg DayEntry.aExceed entry, ?_, ?_,
      average, mean, exceeded, closeDay_limit he⟩
    · rw [status]; exact dayStatus_notOperating_iff ..
    · rw [status]; exact dayStatus_valid_iff ..
  · obtain ⟨u, v, appended, arch, -, day, -, arch', -, year', -⟩ := closeDay_appended boundary s
    rw [← arch] at room
    obtain ⟨stay, same, -, -⟩ := appended.with_room (arch' ▸ tail) room
    exact ⟨stay.trans (congrArg _ arch), by rw [year', same, day]⟩
  · rw [show t.year = _ from year]
    exact Counters.plus_toList ..
  · rw [show t.year = _ from year]
    refine List.map_congr_left fun r _ => ?_
    rw [dayEntryAt]
    cases d.entries.find? (fun e => e.slot == r.slot) with
    | none => rfl
    | some e => exact yearRowDay_eq e r
  · rw [show t.year = _ from year]; rfl
  · rw [show t.year = _ from year]; rfl
  · rw [show t.year = _ from year]; rfl

end Sys2Proof.Machine
end

section
/-! The flash under a commit and under a cut (R152, R165, R183): what a program, an abandoned or failed erase and the
voiding of the image leave of each byte. -/

namespace Sys2Proof.Machine

/-! ## Runs of bytes -/

@[simp] theorem Memory.readFrom_length (n : Nat) : ∀ (a : Nat) (m : Memory), (Memory.readFrom n a m).length = n := by
  induction n with
  | zero => exact fun _ _ => rfl
  | succ n ih =>
    intro a m
    cases m with
    | nil => simp [Memory.readFrom, ih]
    | cons c r => simp only [Memory.readFrom]; split <;> simp [ih]

@[simp] theorem Memory.bytes_length (m : Memory) (a n : Nat) : (m.bytes a n).length = n := Memory.readFrom_length ..

theorem Memory.readFrom_eq (n : Nat) : ∀ {a : Nat} {m : Memory}, Memory.wfFrom a m = true →
    Memory.readFrom n a m = (List.range n).map (fun i => m.read (a + i)) := by
  induction n with
  | zero => exact fun _ => rfl
  | succ n ih =>
    intro a m w
    have after : (List.range (n + 1)).map (fun i => Memory.read m (a + i))
        = Memory.read m a :: (List.range n).map (fun i => Memory.read m (a + 1 + i)) := by
      rw [List.range_succ_eq_map, List.map_cons, List.map_map]
      refine congrArg _ (List.map_congr_left fun i _ => ?_)
      rw [Function.comp_apply, show a + i.succ = a + 1 + i by omega]
    rw [after]
    cases m with
    | nil => exact congrArg _ (ih (a := a + 1) (m := []) rfl)
    | cons c r =>
      obtain ⟨k, v⟩ := c
      simp only [Memory.wfFrom, Bool.and_eq_true, decide_eq_true_eq] at w
      obtain ⟨⟨bound, listed⟩, rest⟩ := w
      by_cases here : k = a
      · subst here
        rw [Memory.readFrom, if_pos rfl, ih rest, Memory.read, if_pos rfl]
        refine congrArg _ (List.map_congr_left fun i _ => ?_)
        rw [Memory.read, if_neg (by omega)]
      · have tail : Memory.wfFrom (a + 1) ((k, v) :: r) = true := by
          simp only [Memory.wfFrom, Bool.and_eq_true, decide_eq_true_eq]
          exact ⟨⟨by omega, listed⟩, rest⟩
        rw [Memory.readFrom, if_neg here, ih tail, Memory.read_below tail (by omega)]

/-- The bytes from an address on are those read there one by one. -/
theorem Memory.bytes_eq {m : Memory} (w : m.wf = true) (a n : Nat) :
    m.bytes a n = (List.range n).map (fun i => m.read (a + i)) := by
  have dropped : ∀ (m : Memory) (lo : Nat), Memory.wfFrom lo m = true →
      Memory.wfFrom a (m.dropWhile (fun c => c.1 < a)) = true
      ∧ ∀ x, a ≤ x → Memory.read (m.dropWhile (fun c => c.1 < a)) x = m.read x := by
    intro m
    induction m with
    | nil => exact fun _ _ => ⟨rfl, fun _ _ => rfl⟩
    | cons c r ih =>
      intro lo w
      obtain ⟨k, v⟩ := c
      simp only [Memory.wfFrom, Bool.and_eq_true, decide_eq_true_eq] at w
      obtain ⟨⟨bound, listed⟩, rest⟩ := w
      by_cases before : k < a
      · obtain ⟨canonical, same⟩ := ih _ rest
        simp only [List.dropWhile_cons, before, decide_true, if_true]
        refine ⟨canonical, fun x hx => ?_⟩
        rw [same x hx, Memory.read, if_neg (by omega)]
      · simp only [List.dropWhile_cons, before, decide_false, Bool.false_eq_true, if_false]
        refine ⟨?_, fun _ _ => trivial⟩
        simp only [Memory.wfFrom, Bool.and_eq_true, decide_eq_true_eq]
        exact ⟨⟨by omega, listed⟩, rest⟩
  obtain ⟨canonical, same⟩ := dropped m 0 w
  rw [Memory.bytes, Memory.readFrom_eq n canonical]
  exact List.map_congr_left fun i _ => same _ (by omega)

/-! ## Programs (R152) -/

theorem Memory.read_program_outside {m : Memory} (w : m.wf = true) (a : Nat) (data : List Byte) {x : Nat}
    (h : x < a ∨ a + data.length ≤ x) : (m.program a data).read x = m.read x := by
  refine Memory.read_writeAll_outside _ a x w ?_
  simpa using h

theorem Memory.read_program_inside {m : Memory} (w : m.wf = true) (a : Nat) (data : List Byte) {i : Nat}
    (h : i < data.length) : (m.program a data).read (a + i) = m.read (a + i) &&& data.getD i 0 := by
  rw [Memory.program, Memory.read_writeAll_inside _ a i w (by simpa using h), Memory.bytes_eq w]
  simp [List.getD_eq_getElem?_getD, h]

/-- A page program changes no byte outside the bytes it programs, 256 of them when it fails. -/
theorem programPage_read {s : State} (w : s.arch.flash.wf = true) (a : Nat) {bytes : List Byte}
    (page : bytes.length ≤ 256) (good : Bool) {x : Nat} (h : x < a ∨ a + 256 ≤ x) :
    (programPage a bytes good s).arch.flash.read x = s.arch.flash.read x := by
  unfold programPage
  split
  · exact Memory.read_program_outside w _ _ (by omega)
  · exact Memory.read_program_outside w _ _ (by simpa [voidBytes] using h)

/-! ## Sectors whose erase has no good end (R163, R165) -/

@[simp] theorem chunks_length (size n : Nat) : ∀ b : List Byte, (chunks size n b).length = n := by
  induction n with
  | zero => exact fun _ => rfl
  | succ n ih => intro b; simp [chunks, ih]

theorem length_of_mem_chunks {size : Nat} {x : List Byte} (n : Nat) : ∀ {b : List Byte}, x ∈ chunks size n b →
    x.length ≤ size := by
  induction n with
  | zero => intro b h; simp [chunks] at h
  | succ n ih =>
    intro b h
    rcases List.mem_cons.1 h with rfl | h
    · exact List.length_take_le ..
    · exact ih h

theorem brokenSector_length (old : List Byte) (draw : Nat) : (brokenSector old draw).length ≤ 4096 := by
  rw [brokenSector, List.length_flatten]
  refine (List.sum_le_card_nsmul _ 256 fun n hn => ?_).trans (by simp)
  obtain ⟨page, hp, rfl⟩ := List.mem_map.1 hn
  obtain ⟨was, hwas, mixed, hmixed, rfl⟩ : ∃ was ∈ chunks Config.pageBytes 16 old, ∃ mixed ∈ chunks Config.pageBytes 16
      (old.zipIdx.map (fun p => p.1 ||| Config.brokenEraseByte draw p.2)), brokenPage was mixed = page := by
    obtain ⟨i, hi, rfl⟩ := List.mem_iff_getElem.1 hp
    rw [List.getElem_zipWith]
    exact ⟨_, List.getElem_mem _, _, List.getElem_mem _, rfl⟩
  unfold brokenPage
  split
  · exact length_of_mem_chunks 16 hwas
  · exact length_of_mem_chunks 16 hmixed

theorem failedSector_length (old : List Byte) (draw : Nat) : (failedSector old draw).length ≤ 4096 := by
  simp only [failedSector]
  split
  · simpa using brokenSector_length old draw
  · exact brokenSector_length old draw

theorem putSector_read {s : State} (w : s.arch.flash.wf = true) (a : Nat) {bytes : List Byte}
    (sector : bytes.length ≤ 4096) {x : Nat} (h : x < a ∨ a + 4096 ≤ x) :
    (putSector a bytes s).arch.flash.read x = s.arch.flash.read x := by
  refine (Memory.read_writeAll_outside _ a x (Memory.wf_erase _ _ w) (by omega)).trans ?_
  rw [Memory.read_erase, if_neg]
  simp only [Config.sectorBytes]
  omega

theorem abandonErase_read {s : State} (w : s.arch.flash.wf = true) (a : Nat) {x : Nat} (h : x < a ∨ a + 4096 ≤ x) :
    (abandonErase a s).arch.flash.read x = s.arch.flash.read x :=
  putSector_read w a (brokenSector_length ..) h

theorem failErase_read {s : State} (w : s.arch.flash.wf = true) (a : Nat) {x : Nat} (h : x < a ∨ a + 4096 ≤ x) :
    (failErase a s).arch.flash.read x = s.arch.flash.read x :=
  putSector_read w a (failedSector_length ..) h

/-! ## The image (R183) -/

/-- Voiding the image changes its two marker bytes at most. -/
theorem voidImage_read {s : State} (w : s.arch.flash.wf = true) {x : Nat} (h : 2 ≤ x) :
    (voidImage s).arch.flash.read x = s.arch.flash.read x := by
  unfold voidImage
  split
  · exact Memory.read_program_outside w _ _ (.inr h)
  · rfl

/-- A voided image fails its check: where the check held, the marker is 0 now (log entry 12). -/
theorem voidImage_check {s : State} (w : s.arch.flash.wf = true) :
    imageCheckHolds ((voidImage s).arch.flash.bytes 0 1024) = false := by
  unfold voidImage
  split
  · have first := Memory.read_program_inside w 0 [0#8, 0#8] (i := 0) (by decide)
    have second := Memory.read_program_inside w 0 [0#8, 0#8] (i := 1) (by decide)
    have marker : ((setFlash (s.arch.flash.program 0 [0#8, 0#8]) s).arch.flash.bytes 0 1024).take 2 = [0#8, 0#8] := by
      rw [setFlash_flash, Memory.bytes_eq (Memory.wf_program _ _ w), ← List.map_take, List.take_range]
      simp_all [List.range_succ]
    simp only [imageCheckHolds, marker]
    rfl
  · rename_i fails
    exact Bool.eq_false_iff.2 fails

theorem imagePage_length_le (s : State) (p : Nat) : (imagePage s p).length ≤ 256 := by
  simp [imagePage, slice]

/-- A page of a whole staging image holds its 256 bytes. -/
theorem imagePage_holds {s : State} {p : Nat} (whole : s.supply.staging.length = 1024) (hp : p ≤ 3) :
    (imagePage s p).length = 256
      ∧ ∀ i, i < 256 → (imagePage s p).getD i 0 = s.supply.staging.getD (256 * p + i) 0 := by
  refine ⟨by simp [imagePage, slice, whole, Config.pageBytes]; omega, fun i hi => ?_⟩
  simp [imagePage, slice, List.getD_eq_getElem?_getD, hi]

/-- The program of a page of the image changes no byte of another page. -/
theorem programImagePage_read {s : State} (w : s.arch.flash.wf = true) (p : Nat) (good : Bool) {x : Nat}
    (h : x < 256 * p ∨ 256 * p + 256 ≤ x) :
    (programImagePage p good s).arch.flash.read x = s.arch.flash.read x := by
  have page := programPage_read w (256 * p) (imagePage_length_le s p) good h
  cases good <;> exact page

theorem programImagePage_wf {s : State} (w : s.arch.flash.wf = true) (p : Nat) (good : Bool) :
    (programImagePage p good s).arch.flash.wf = true := by
  have page := programPage_wf (256 * p) (imagePage s p) good s w
  cases good <;> exact page

end Sys2Proof.Machine
end

section
/-! The writing of a commit (R152, R183): each operation's end, and how the commit ends with it. -/

namespace Sys2Proof.Machine

/-- A commit in flight ends idle, with its answer pending (R183). -/
theorem finishCommit_inFlight {s : State} {terminal : Nat} {tag : BitVec 8} (h : s.supply.commit = .inFlight terminal tag)
    (r : ConfigResult) :
    finishCommit r s = (((s.setSupply { s.supply with commit := .idle }).setArch { s.arch with op := .idle }).setRetr
      { s.retr with answers := s.retr.answers ++ [⟨terminal, tag, .configResult r 0, s.port.ticket⟩] }).setPort
      { s.port with ticket := s.port.ticket + 1 } := by
  rw [finishCommit, h]
  rfl

/-- The bytes of a good page of the image become the old ones and those of the staging image, and no other byte changes
(R152, R183). -/
theorem programImagePage_good {s : State} {p : Nat} (w : s.arch.flash.wf = true)
    (whole : s.supply.staging.length = 1024) (hp : p ≤ 3) :
    let t := programImagePage p true s
    (∀ a, (a < 256 * p ∨ 256 * p + 256 ≤ a) → t.arch.flash.read a = s.arch.flash.read a)
    ∧ ∀ i, i < 256 → t.arch.flash.read (256 * p + i)
        = s.arch.flash.read (256 * p + i) &&& s.supply.staging.getD (256 * p + i) 0 := by
  obtain ⟨length, holds⟩ := imagePage_holds whole hp
  refine ⟨fun a outside => programImagePage_read w p true outside, fun i hi => ?_⟩
  rw [← holds i hi]
  exact Memory.read_program_inside w (256 * p) (imagePage s p) (by omega)

/-- A failed page of the image is one defective page, which the failure run does not count (R86, R183). -/
theorem programImagePage_failed (p : Nat) (s : State) :
    let t := programImagePage p false s
    t.year = defectivePageCounted s
    ∧ t = ((s.setArch { s.arch with flash := t.arch.flash }).setYear t.year).setDraws t.draws :=
  ⟨rfl, rfl⟩

theorem voidImage_frame_eq (s : State) :
    voidImage s = s.setArch { s.arch with flash := (voidImage s).arch.flash } := by
  unfold voidImage
  split <;> rfl

/-- A commit that fails ends with FLASH_FAILED and an image whose check fails, and leaves the rest of the archive, and of
the flash what lies past sector 0 (R183; log entry 12). -/
theorem commit_fails {s u : State} {terminal : Nat} {tag : BitVec 8} (w : u.arch.flash.wf = true)
    (inFlight : s.supply.commit = .inFlight terminal tag)
    (frame : u = ((s.setArch { s.arch with flash := u.arch.flash }).setYear u.year).setDraws u.draws)
    (beyond : ∀ a, 4096 ≤ a → u.arch.flash.read a = s.arch.flash.read a) :
    let t := finishCommit .flashFailed (voidImage u)
    t.arch.op = .idle ∧ t.supply.commit = .idle
      ∧ t.retr.answers = s.retr.answers ++ [⟨terminal, tag, .configResult .flashFailed 0, s.port.ticket⟩]
      ∧ imageCheckHolds (storedImage t) = false ∧ t.arch.failureRun = s.arch.failureRun
      ∧ (∀ a, 4096 ≤ a → t.arch.flash.read a = s.arch.flash.read a) ∧ t.year = u.year
      ∧ t = (((((s.setSupply t.supply).setArch t.arch).setRetr t.retr).setPort t.port).setYear t.year).setDraws t.draws := by
  intro t
  have supply : u.supply = s.supply := by rw [frame]; rfl
  have retr : u.retr = s.retr := by rw [frame]; rfl
  have port : u.port = s.port := by rw [frame]; rfl
  have ends : t = _ := finishCommit_inFlight (by rw [(voidImage_frame u).1, supply, inFlight]) .flashFailed
  have flash : t.arch.flash = (voidImage u).arch.flash := by rw [ends]; rfl
  refine ⟨by rw [ends]; rfl, by rw [ends]; rfl, ?_, ?_, ?_, fun a ha => ?_, ?_, ?_⟩
  · rw [ends]
    simp [retr, port]
  · rw [storedImage, flash]
    exact voidImage_check w
  · rw [ends, frame]
    simp
  · rw [flash, voidImage_read w (by omega), beyond a ha]
  · rw [ends]
    simp
  · rw [ends, voidImage_frame_eq u, frame]
    rfl

/-- Settles O53: each good end by what it leaves of the flash, and a failure by `commit_fails`. -/
theorem commitWritesItsPagesInOrder : Obligations.CommitWritesItsPagesInOrder := by
  intro s terminal tag w inFlight whole holds
  refine ⟨fun erase => ?_, fun p page more => ?_, fun page => ?_, fun work => ?_⟩
  · refine ⟨setOp (.commitPage 0) (eraseSector 0 s), by simp [exec, execCommitFlashComplete, erase], rfl, rfl, fun a => ?_⟩
    refine (Memory.read_erase 0 4096 a).trans ?_
    simp [erasedByte]
  · have written := programImagePage_good w whole (p := p) (by omega)
    exact ⟨setOp (.commitPage (p + 1)) (programImagePage p true s), by simp [exec, execCommitFlashComplete, page, more],
      rfl, rfl, written⟩
  · have written := programImagePage_good w whole (p := 3) le_rfl
    have ends := finishCommit_inFlight (s := programImagePage 3 true s) inFlight .ok
    exact ⟨finishCommit .ok (programImagePage 3 true s), by simp [exec, execCommitFlashComplete, page], by rw [ends]; rfl,
      by rw [ends]; rfl, by rw [ends]; exact written, by rw [ends]; rfl, by rw [ends]; rfl⟩
  · rcases work with erase | ⟨p, hp, page⟩
    · obtain ⟨op, commit, answers, check, run, beyond, year, frame⟩ := commit_fails (failErase_wf 0 s w) inFlight rfl
        fun a ha => failErase_read w 0 (.inr (by omega))
      exact ⟨_, by simp [exec, execCommitFlashComplete, erase], op, commit, answers, check, run, beyond,
        fun _ => year, fun other => absurd erase other, frame⟩
    · obtain ⟨counted, kept⟩ := programImagePage_failed p s
      obtain ⟨op, commit, answers, check, run, beyond, year, frame⟩ := commit_fails (programImagePage_wf w p false) inFlight
        kept fun a ha => programImagePage_read w p false (.inr (by omega))
      exact ⟨_, by simp [exec, execCommitFlashComplete, page], op, commit, answers, check, run, beyond,
        fun erase => by simp [page] at erase, fun _ => year.trans counted, frame⟩

end Sys2Proof.Machine
end

section
/-! The loss of supply and RESET (R117, R121, R176, R179): how the flash operation in flight ends, and what the part keeps. -/

namespace Sys2Proof.Machine

/-! ## The operation in flight (R165, R176, R183) -/

/-- After the end of a program no operation is in flight. -/
theorem programEnd_op {a : Area} (good : Bool) {s : State} (h : s.arch.op = .programming a) :
    (programEnd good s).arch.op = .idle := by
  rw [programEnd, h]
  cases a with
  | own => simp only [ownProgramEnd]; (repeat' split) <;> simp
  | part p => simp only [partProgramEnd]; (repeat' split) <;> simp

/-- No flash operation goes on after a cut. -/
theorem cutFlash_op (good : Bool) (s : State) : (cutFlash good s).arch.op = .idle := by
  rw [cutFlash]
  split
  · assumption
  · exact programEnd_op good ‹_›
  · rfl
  · rfl
  · rfl

/-- The note of a broken sector changes nothing in a ring but that note. -/
theorem ringOf_noteBroken (a x : Area) (k : Nat) (s : State) :
    let r := ringOf (noteBroken a k s) x
    r.writePos = (ringOf s x).writePos ∧ r.dir = (ringOf s x).dir ∧ r.eraseFails = (ringOf s x).eraseFails
      ∧ r.failTarget = (ringOf s x).failTarget := by
  cases a with
  | own => cases x <;> exact ⟨rfl, rfl, rfl, rfl⟩
  | part i =>
    cases x with
    | own => exact ⟨rfl, rfl, rfl, rfl⟩
    | part j =>
      simp only [noteBroken, setRing, ringOf, State.setArch_arch, List.getD_eq_getElem?_getD, List.getElem?_set]
      by_cases same : i = j
      · subst same
        by_cases listed : i < s.arch.parts.length <;> simp [listed]
      · simp [same]

/-- The note of a broken sector changes nothing of the archive but a ring. -/
theorem noteBroken_arch (a : Area) (k : Nat) (s : State) :
    (noteBroken a k s).arch
      = { s.arch with own := (noteBroken a k s).arch.own, parts := (noteBroken a k s).arch.parts } := by
  cases a <;> rfl

/-- An abandoned erase changes nothing of the archive but the flash and the operation in flight. -/
theorem abandonErase_arch (a : Nat) (s : State) :
    (setOp .idle (abandonErase a s)).arch
      = { s.arch with op := .idle, flash := (setOp .idle (abandonErase a s)).arch.flash } := rfl

theorem ringOf_abandonErase (a : Nat) (x : Area) (s : State) :
    ringOf (setOp .idle (abandonErase a s)) x = ringOf s x := by
  cases x <;> rfl

/-- An erase in flight is abandoned and noted (R165; log entry 42). -/
theorem cutFlash_erasing {s : State} {a : Area} {k : Nat} (h : s.arch.op = .erasing a k) (good : Bool) :
    cutFlash good s
      = setOp .idle (abandonErase (sectorAddress a k) (noteBroken a k (noteAbandoned a k s))) := by
  rw [cutFlash, h]

theorem cutFlash_commitErase {s : State} (h : s.arch.op = .commitErase) (good : Bool) :
    cutFlash good s = setOp .idle (voidImage (abandonErase 0 s)) := by
  rw [cutFlash, h]

theorem cutFlash_commitPage {s : State} {p : Nat} (h : s.arch.op = .commitPage p) (good : Bool) :
    cutFlash good s = setOp .idle (voidImage (programImagePage p good s)) := by
  rw [cutFlash, h]

/-- A commit cut off changes nothing of the archive but the flash, whose image fails its check, and nothing past sector 0
(R183; log entry 12). -/
theorem cut_commit {s u : State} (frame : u.arch = { s.arch with flash := u.arch.flash })
    (canonical : s.arch.flash.wf = true → u.arch.flash.wf = true)
    (beyond : s.arch.flash.wf = true → ∀ x, 4096 ≤ x → u.arch.flash.read x = s.arch.flash.read x) :
    let t := setOp .idle (voidImage u)
    t.arch = { s.arch with op := .idle, flash := t.arch.flash }
    ∧ (FlashCanonical s → imageCheckHolds (t.arch.flash.bytes 0 1024) = false
      ∧ ∀ x, 4096 ≤ x → t.arch.flash.read x = s.arch.flash.read x) := by
  refine ⟨?_, fun w => ⟨voidImage_check (canonical w), fun x hx => ?_⟩⟩
  · rw [voidImage_frame_eq u, frame]
    rfl
  · exact (voidImage_read (canonical w) (by omega)).trans (beyond w x hx)

/-- What a cut does to each operation in flight. -/
theorem cutFlash_cutOff (good : Bool) (s : State) : CutOff good s (cutFlash good s) := by
  refine ⟨fun h => ?_, fun a h => ?_, fun a k h => ?_, fun h => ?_, fun p h hp => ?_, ?_, fun p h hp w x hx out => ?_⟩
  · simp [cutFlash, h]
  · simp [cutFlash, h]
  · rw [cutFlash_erasing h]
    refine ⟨by simp, ?_, fun x => ?_, fun w x out => ?_⟩
    · rw [abandonErase_arch, noteBroken_arch]
      rfl
    · simp only [ringOf_abandonErase]
      have note := ringOf_noteBroken a x k (noteAbandoned a k s)
      rwa [show ringOf (noteAbandoned a k s) x = ringOf s x by cases x <;> rfl] at note
    · have canonical : (noteBroken a k (noteAbandoned a k s)).arch.flash = s.arch.flash := by simp
      refine (abandonErase_read (canonical ▸ w) _ out).trans ?_
      rw [canonical]
  · simp [cutFlash_commitErase h]
  · rw [cutFlash_commitPage h]
    have year : (programImagePage p good s).year = if good then s.year else defectivePageCounted s := by cases good <;> rfl
    simpa using year
  · rintro (h | ⟨p, h, hp⟩)
    · rw [cutFlash_commitErase h]
      exact cut_commit rfl (abandonErase_wf 0 s) fun w x hx => abandonErase_read w 0 (.inr (by omega))
    · rw [cutFlash_commitPage h]
      refine cut_commit ?_ (fun w => programImagePage_wf w p good)
        fun w x hx => programImagePage_read w p good (.inr (by omega))
      cases good <;> rfl
  · rw [cutFlash_commitPage h]
    exact (voidImage_read (programImagePage_wf w p good) hx).trans (programImagePage_read w p good out)

/-- What a cut does is told from five blocks of the state after it. -/
theorem CutOff.congr {good : Bool} {s t u : State} (h : CutOff good s t) (arch : u.arch = t.arch) (wit : u.wit = t.wit)
    (retr : u.retr = t.retr) (year : u.year = t.year) (draws : u.draws = t.draws) : CutOff good s u := by
  have ring : ringOf u = ringOf t := funext fun a => by cases a <;> simp [ringOf, arch]
  simpa only [CutOff, ring, arch, wit, retr, year, draws] using h

/-! ## The supply-fail event and RESET (R117, R121, R176, R179) -/

/-- A state that keeps the blocks which a loss leaves alone. -/
theorem State.eq_of_lost {s t : State} (cfg : t.cfg = s.cfg) (accs : t.accs = s.accs) (minutes : t.minutes = s.minutes)
    (line : t.line = s.line) (avg : t.avg = s.avg) (elapsed : t.elapsed = s.elapsed) (pending : t.pending = s.pending) :
    t = (((((((s.setSupply t.supply).setPort t.port).setTb t.tb).setArch t.arch).setWit t.wit).setRetr t.retr).setYear
      t.year).setDraws t.draws := by
  cases t
  simp only at cfg accs minutes line avg elapsed pending
  subst cfg accs minutes line avg elapsed pending
  rfl

/-- The part once its operation in flight is cut, its outputs released and its port OFF (R121, R176, R179). -/
def lost (good : Bool) (s : State) : State := portOff (cutSupply (cutFlash good s))

theorem lost_spec (good : Bool) (s : State) :
    let u := lost good s
    u.supply = { s.supply with output := false, commit := .idle } ∧ u.port.state = .off ∧ u.port.onLine = none
    ∧ u.port.recordQ = s.port.recordQ ∧ u.port.answerQ = s.port.answerQ ∧ u.arch.op = .idle ∧ CutOff good s u
    ∧ u.cfg = s.cfg ∧ u.accs = s.accs ∧ u.minutes = s.minutes ∧ u.line = s.line ∧ u.avg = s.avg ∧ u.tb = s.tb
    ∧ u.elapsed = s.elapsed ∧ u.pending = s.pending := by
  have cut : CutOff good s (lost good s) := (cutFlash_cutOff good s).congr (by simp [lost]) (by simp [lost]) (by simp [lost])
    (by simp [lost]) (by simp [lost])
  exact ⟨by simp [lost, cutSupply], rfl, rfl, by simp [lost, cutSupply], by simp [lost, cutSupply],
    by simp [lost, cutFlash_op], cut, by simp [lost], by simp [lost], by simp [lost], by simp [lost], by simp [lost],
    by simp [lost], by simp [lost], by simp [lost]⟩

theorem exec_supplyFail {s : State} {st : Station} (h : s.supply.station = some st) (notHeld : st ≠ .hold) (good : Bool) :
    exec (.supplyFail good) s = .next (enterHold st ((lost good s).setTb (holdTimebase (lost good s).tb))) := by
  cases st <;> simp_all [exec, execSupplyFail, lost]

/-- Settles O54: the loss by `lost_spec`, the from-time by the two cases of R117. -/
theorem supplyFailEntersHold : Obligations.SupplyFailEntersHold := by
  intro good s st station notHeld
  obtain ⟨supply, off, broken, records, answers, idle, cut, cfg, accs, minutes, line, avg, tb, elapsed, pending⟩ :=
    lost_spec good s
  refine ⟨_, exec_supplyFail station notHeld good, rfl, rfl, rfl, off, broken, ?_, ?_, idle, ?_, ?_, fun p hp running => ?_,
    fun c hc frozen => ?_, records, answers, cut.congr rfl rfl rfl rfl rfl,
    State.eq_of_lost cfg accs minutes line avg elapsed pending⟩
  · simp [fstopLine, enterHold, supply]
  · simp [attnLine, enterHold, supply]
  · simp [enterHold, holdTimebase, tb]
  · simp [enterHold, holdTimebase, tb]
  · simp only [enterHold, holdTimebase, holdFromNow, tb, State.setSupply_tb, State.setTb_tb, if_neg running, hp,
      Option.getD_some, minuteOfTicks_eq]
    omega
  · simp [enterHold, holdTimebase, holdFromNow, tb, frozen, hc]

/-- Settles O57: RESET asserted is a loss like that of the supply; released, it is noted with its time. -/
theorem resetLineStopsThePart : Obligations.ResetLineStopsThePart := by
  intro good s
  refine ⟨fun released => ?_, fun asserted => by simp [exec, execResetRelease, asserted]⟩
  obtain ⟨supply, off, broken, -, -, idle, cut, cfg, accs, minutes, line, avg, tb, elapsed, pending⟩ := lost_spec good s
  let t := (lost good s).setSupply { (lost good s).supply with
    station := none, heldFrom := none, resetLine := true
    resetInHold := s.supply.resetInHold || s.supply.station == some .hold }
  have frame : t = _ := State.eq_of_lost cfg accs minutes line avg elapsed pending
  rw [show t.tb = s.tb from tb] at frame
  refine ⟨t, by simp [exec, execResetAssert, released, lost, t], rfl, rfl, off, broken, ?_, ?_, idle,
    cut.congr rfl rfl rfl rfl rfl, frame⟩
  · simp [fstopLine, t, supply]
  · simp [attnLine, t, supply]

end Sys2Proof.Machine
end

section
/-! What SCAN finds of the flash (R135, R154, R157, R165): the pages of an area, its directory, its newest record page and
its write position, the last assigned number, and the held mark and unbroken run of an origin. -/

namespace Sys2Proof.Machine

/-! ## The pages of an area -/

theorem mem_dedupAdjacent {x : Nat} (l : List Nat) : x ∈ dedupAdjacent l ↔ x ∈ l := by
  induction l with
  | nil => rfl
  | cons y l ih =>
    rw [dedupAdjacent, List.mem_cons, ← ih]
    cases dedupAdjacent l with
    | nil => simp
    | cons z r =>
      dsimp only
      split
      · rename_i same
        simp [same]
      · simp

/-- A listed sector is one of the area in which the flash lists a byte. -/
theorem mem_listedSectors {m : Memory} {a : Area} {k : Nat} :
    k ∈ listedSectors m a ↔ k < a.sectors ∧ ∃ c ∈ m, c.1 / 4096 = a.base + k := by
  rw [listedSectors, mem_dedupAdjacent, List.mem_filterMap]
  constructor
  · rintro ⟨c, hc, listed⟩
    dsimp only at listed
    split at listed
    · rename_i inside
      have place : c.1 / 4096 - a.base = k := Option.some.inj listed
      simp only [Config.sectorBytes] at inside
      exact ⟨by omega, c, hc, by omega⟩
    · cases listed
  · rintro ⟨inside, c, hc, place⟩
    refine ⟨c, hc, ?_⟩
    dsimp only
    rw [show c.1 / Config.sectorBytes = a.base + k from place, if_pos (by omega)]
    simp

theorem Memory.readFrom_unlisted (n : Nat) : ∀ (a : Nat) (m : Memory), (∀ c ∈ m, c.1 < a ∨ a + n ≤ c.1) →
    Memory.readFrom n a m = List.replicate n erasedByte := by
  induction n with
  | zero => exact fun _ _ _ => rfl
  | succ n ih =>
    intro a m h
    cases m with
    | nil => rw [Memory.readFrom, ih _ _ (by simp)]; rfl
    | cons c r =>
      obtain ⟨k, v⟩ := c
      rw [Memory.readFrom, if_neg (by have := h (k, v) (by simp); simp only at this; omega),
        ih _ _ fun c hc => by have := h c hc; omega]
      rfl

/-- Where the flash lists no byte it reads erased. -/
theorem Memory.bytes_unlisted {m : Memory} {a n : Nat} (h : ∀ c ∈ m, c.1 < a ∨ a + n ≤ c.1) :
    m.bytes a n = List.replicate n erasedByte :=
  Memory.readFrom_unlisted n a _ fun c hc => h c ((List.dropWhile_sublist _).subset hc)

theorem pageKindIn_erased (owner : Option Nat) (n : Nat) : pageKindIn owner (List.replicate n erasedByte) = .erased := by
  have page : classifyPage (List.replicate n erasedByte) = .erased := by simp [classifyPage]
  simp only [pageKindIn, page]

theorem readPage_unlisted {s : State} {a : Area} {k i : Nat} (hk : k < a.sectors) (hi : i < 16)
    (h : k ∉ listedSectors s.arch.flash a) : readPage s a (16 * k + i) = .erased := by
  have erased : s.arch.flash.bytes (pageAddress a (16 * k + i)) Config.pageBytes = List.replicate 256 erasedByte := by
    refine Memory.bytes_unlisted fun c hc => ?_
    have other : c.1 / 4096 ≠ a.base + k := fun place => h (mem_listedSectors.2 ⟨hk, c, hc, place⟩)
    simp only [pageAddress, Config.sectorBytes, Config.pageBytes]
    omega
  rw [readPage, erased, pageKindIn_erased]

/-- What a page reads as is told from the flash and from the places and stations of the witnessed origins. -/
theorem readPage_congr {s t : State} (flash : t.arch.flash = s.arch.flash)
    (origins : t.wit.origins.map (fun o => (o.place, o.station)) = s.wit.origins.map (fun o => (o.place, o.station))) :
    readPage t = readPage s := by
  have owner : ∀ (u : State) (i : Nat), areaOwner u (.part i)
      = ((u.wit.origins.map (fun o => (o.place, o.station))).find? (fun w => w.1 == i)).map (·.2) := by
    intro u i
    rw [areaOwner, originAt, List.find?_map, Option.map_map]
    rfl
  funext a p
  cases a with
  | own => simp only [readPage, areaOwner, flash]
  | part i => simp only [readPage, owner, flash, origins]

/-- The records of an area are those of its record pages. -/
theorem mem_areaRecords {s : State} {a : Area} {p : Nat} {r : Rec} :
    (p, r) ∈ areaRecords s a ↔ p < a.pages ∧ readPage s a p = .record r := by
  simp only [areaRecords, List.mem_flatMap, List.mem_filterMap, List.mem_range, Area.pages]
  constructor
  · rintro ⟨k, hk, i, hi, found⟩
    have inside := (mem_listedSectors.1 hk).1
    split at found
    · rename_i x page
      obtain ⟨rfl, rfl⟩ := Prod.mk.inj (Option.some.inj found)
      exact ⟨by omega, page⟩
    · cases found
  · rintro ⟨hp, page⟩
    have place : 16 * (p / 16) + p % 16 = p := Nat.div_add_mod p 16
    have listed : p / 16 ∈ listedSectors s.arch.flash a := by
      by_contra unlisted
      have erased := readPage_unlisted (i := p % 16) (by omega) (by omega) unlisted
      rw [place, page] at erased
      cases erased
    exact ⟨p / 16, listed, p % 16, by omega, by rw [place, page]⟩

/-! ## The directory (R154) -/

/-- A sector whose entry is ERASED has the entry of a sector of which nothing is known. -/
theorem scanSector_erased {pages : List PageKind} (h : (scanSector pages).state = .erased) : scanSector pages = {} := by
  have erased : ∀ k ∈ pages, k = .erased := by
    by_contra other
    have all : pages.all (· == .erased) = false := by simpa using other
    simp only [scanSector, all, Bool.false_eq_true, if_false] at h
    split at h <;> cases h
  have records : pageRecords pages = [] := List.filterMap_eq_nil_iff.2 fun k hk => by rw [erased k hk]
  have defective : pages.countP (· == .defective) = 0 := List.countP_eq_zero.2 fun k hk => by rw [erased k hk]; decide
  rw [show scanSector pages = { scanSector pages with state := .erased } by rw [← h]]
  simp [scanSector, records, defective, highestSeq, maxList]

theorem dirEntry_scanRing {s : State} {a : Area} {k : Nat} (hk : k < a.sectors) :
    dirEntry (scanRing s a) k = scanSector (sectorPages s a k) := by
  simp only [dirEntry, scanRing, scanDirectory, List.find?_filterMap]
  cases found : (listedSectors s.arch.flash a).find? _ with
  | some j =>
    have entry := List.find?_some found
    by_cases erased : (scanSector (sectorPages s a j)).state = .erased
    · simp [erased] at entry
    · obtain rfl : j = k := by simpa [erased] using entry
      simp [erased]
  | none =>
    refine (scanSector_erased ?_).symm
    by_contra other
    refine absurd (List.find?_eq_none.1 found k ?_) (by simp [other])
    by_contra unlisted
    have erased : sectorPages s a k = List.replicate 16 .erased :=
      List.eq_replicate_iff.2 ⟨by simp [sectorPages], fun x hx => by
        obtain ⟨i, hi, rfl⟩ := List.mem_map.1 hx
        exact readPage_unlisted hk (List.mem_range.1 hi) unlisted⟩
    exact other (by rw [erased]; rfl)

/-! ## The newest record page and the write position (R165) -/

theorem newestOf_append (l : List (Nat × Rec)) (x : Nat × Rec) :
    newestOf (l ++ [x]) = some ((newestOf l).elim x (fun y => if y.2.seq ≤ x.2.seq then x else y)) := by
  simp only [newestOf, List.foldl_append, List.foldl_cons, List.foldl_nil]
  cases List.foldl _ none l with
  | none => rfl
  | some y => dsimp only [Option.elim]; split <;> rfl

theorem newestOf_spec (l : List (Nat × Rec)) :
    (newestOf l = none ↔ l = []) ∧ ∀ x, newestOf l = some x → x ∈ l ∧ ∀ y ∈ l, y.2.seq ≤ x.2.seq := by
  induction l using List.reverseRecOn with
  | nil => simp [newestOf]
  | append_singleton l z ih =>
    obtain ⟨empty, newest⟩ := ih
    refine ⟨by simp [newestOf_append], fun x hx => ?_⟩
    rw [newestOf_append] at hx
    cases before : newestOf l with
    | none =>
      obtain rfl : z = x := by simpa [before] using hx
      simp [empty.1 before]
    | some y =>
      obtain ⟨hy, above⟩ := newest y before
      rw [before, Option.elim, Option.some.injEq] at hx
      split at hx
      · subst hx
        exact ⟨by simp, fun w hw => by
          rcases List.mem_append.1 hw with hw | hw
          · exact (above w hw).trans ‹_›
          · rw [List.mem_singleton.1 hw]⟩
      · subst hx
        exact ⟨by simp [hy], fun w hw => by
          rcases List.mem_append.1 hw with hw | hw
          · exact above w hw
          · rw [List.mem_singleton.1 hw]; omega⟩

theorem newestOf_areaRecords_none {s : State} {a : Area} (h : ∀ p x, p < a.pages → readPage s a p ≠ .record x) :
    newestOf (areaRecords s a) = none := by
  refine (newestOf_spec _).1.2 (List.eq_nil_iff_forall_not_mem.2 fun x hx => ?_)
  obtain ⟨hp, page⟩ := mem_areaRecords.1 (show (x.1, x.2) ∈ _ from hx)
  exact h _ _ hp page

/-- The page whose sequence is above every other one's is the newest. -/
theorem newestOf_areaRecords_some {s : State} {a : Area} {p : Nat} {x : Rec} (hp : p < a.pages)
    (page : readPage s a p = .record x)
    (top : ∀ q y, q < a.pages → q ≠ p → readPage s a q = .record y → y.seq < x.seq) :
    newestOf (areaRecords s a) = some (p, x) := by
  obtain ⟨empty, newest⟩ := newestOf_spec (areaRecords s a)
  have here : (p, x) ∈ areaRecords s a := mem_areaRecords.2 ⟨hp, page⟩
  cases found : newestOf (areaRecords s a) with
  | none => rw [empty.1 found] at here; cases here
  | some z =>
    obtain ⟨q, y⟩ := z
    obtain ⟨hz, above⟩ := newest _ found
    obtain ⟨hq, there⟩ := mem_areaRecords.1 hz
    have same : q = p := by
      by_contra other
      exact absurd (top q y hq other there) (Nat.not_lt.2 (above _ here))
    subst same
    rw [page, PageKind.record.injEq] at there
    rw [there]

/-- What SCAN finds of an area is what R154 and R165 say, in terms of a state that reads the same pages. -/
theorem areaScanned_of_ring {s t : State} {a : Area} (ring : ringOf t a = scanRing s a) (same : readPage t = readPage s) :
    AreaScanned a t := by
  rw [AreaScanned, ring]
  simp only [sectorPages, same]
  refine ⟨fun k hk => dirEntry_scanRing hk, fun none => ?_, fun p x hp page top => ?_⟩
  · simp only [scanRing, scanWritePos, newestOf_areaRecords_none none]
  · have later : ((List.range (15 - p % 16)).map (fun i => readPage s a (p + 1 + i))).all (· == .erased) = true
        ↔ ∀ q, p < q → q / 16 = p / 16 → readPage s a q = .erased := by
      simp only [List.all_eq_true, List.mem_map, List.mem_range, beq_iff_eq, forall_exists_index, and_imp,
        forall_apply_eq_imp_iff₂]
      refine ⟨fun h q after sector => ?_, fun h i hi => h _ (by omega) (by omega)⟩
      have page := h (q - p - 1) (by omega)
      rwa [show p + 1 + (q - p - 1) = q by omega] at page
    simp only [scanRing, scanWritePos, newestOf_areaRecords_some hp page top]
    refine ⟨fun all => if_pos (later.2 all), fun ⟨q, after, sector, listed⟩ => if_neg fun all => ?_⟩
    exact listed (later.1 all q after sector)

/-! ## The last assigned number (R157) -/

/-- The published run counts the defective pages that follow whose marker bytes are not both 0, up to the first page that
is not defective. -/
theorem publishedRun_eq (s : State) (n : Nat) : ∀ q k : Nat, k < n →
    (∀ i, i < k → readPage s .own ((q + i) % 114672) = .defective) →
    readPage s .own ((q + k) % 114672) ≠ .defective →
    publishedRun s n (q % 114672) = (List.range k).countP (fun i =>
      s.arch.flash.bytes (pageAddress .own ((q + i) % 114672)) 2 != [0, 0]) := by
  induction n with
  | zero => exact fun _ k h => absurd h (Nat.not_lt_zero k)
  | succ n ih =>
    intro q k hk run last
    cases k with
    | zero =>
      rw [publishedRun]
      split
      · exact absurd ‹_› last
      · rfl
    | succ k =>
      have next : nextPage .own (q % 114672) = (q + 1) % 114672 := Nat.mod_add_mod ..
      have shift : ∀ i, q + (i + 1) = q + 1 + i := fun i => by omega
      have rest := ih (q + 1) k (by omega) (fun i hi => by rw [← shift]; exact run (i + 1) (by omega))
        (by rw [← shift]; exact last)
      have here : readPage s .own (q % 114672) = .defective := run 0 (by omega)
      rw [publishedRun]
      simp only [here, next]
      rw [rest, List.range_succ_eq_map, List.countP_cons, List.countP_map, Nat.add_comm]
      refine congrArg₂ (· + ·) (List.countP_congr fun i _ => ?_) ?_
      · rw [Function.comp_apply, ← shift i]
      · by_cases marker : s.arch.flash.bytes (pageAddress .own (q % 114672)) 2 = [0#8, 0#8] <;> simp [marker]

theorem scanLastAssigned_found {s t : State} (flash : t.arch.flash = s.arch.flash) (same : readPage t = readPage s) :
    LastAssignedFound t (scanLastAssigned s) := by
  rw [LastAssignedFound, same, flash]
  refine ⟨fun none => ?_, fun p x hp page top k hk run last => ?_⟩
  · simp only [scanLastAssigned, newestOf_areaRecords_none (a := .own) none]
  · simp only [scanLastAssigned, newestOf_areaRecords_some (a := .own) hp page top]
    exact congrArg _ (publishedRun_eq s 114672 (p + 1) k hk run last)

/-! ## The own records (R94, R165) -/

theorem mem_ownRecords {s : State} {x : Rec} :
    x ∈ ownRecords s ↔ ∃ p, p < 114672 ∧ readPage s .own p = .record x := by
  simp only [ownRecords, List.mem_map, Prod.exists, exists_eq_right]
  exact exists_congr fun p => mem_areaRecords

theorem ownRecords_congr {s t : State} (flash : t.arch.flash = s.arch.flash) (same : readPage t = readPage s) :
    ownRecords t = ownRecords s := by
  simp only [ownRecords, areaRecords, flash, same]

/-- The latest archived number is the highest of the own records, and 0 without one (R165). -/
theorem scanLatest_spec (s : State) : (∀ x ∈ ownRecords s, x.seq ≤ scanLatest s)
    ∧ (scanLatest s = 0 ∨ ∃ x ∈ ownRecords s, x.seq = scanLatest s) := by
  obtain ⟨empty, newest⟩ := newestOf_spec (areaRecords s .own)
  rw [scanLatest]
  cases found : newestOf (areaRecords s .own) with
  | none => simp [ownRecords, empty.1 found]
  | some z =>
    obtain ⟨hz, above⟩ := newest z found
    refine ⟨fun x hx => ?_, .inr ⟨z.2, List.mem_map.2 ⟨z, hz, rfl⟩, rfl⟩⟩
    obtain ⟨y, hy, rfl⟩ := List.mem_map.1 hx
    exact above y hy

/-! ## The held mark and the unbroken run (R135) -/

/-- The greatest of a list, and none for an empty one. -/
theorem maxList_spec (l : List Nat) :
    (maxList l = none ↔ l = []) ∧ ∀ m, maxList l = some m → m ∈ l ∧ ∀ x ∈ l, x ≤ m := by
  induction l using List.reverseRecOn with
  | nil => simp [maxList]
  | append_singleton l x ih =>
    obtain ⟨empty, greatest⟩ := ih
    have last : maxList (l ++ [x]) = some ((maxList l).elim x (max x)) := by
      simp only [maxList, List.foldl_append, List.foldl_cons, List.foldl_nil]
      cases List.foldl _ none l <;> rfl
    refine ⟨by simp [last], fun m hm => ?_⟩
    rw [last] at hm
    cases before : maxList l with
    | none =>
      obtain rfl : x = m := by simpa [before] using hm
      simp [empty.1 before]
    | some y =>
      obtain rfl : max x y = m := by simpa [before] using hm
      obtain ⟨hy, above⟩ := greatest y before
      refine ⟨?_, fun z hz => ?_⟩
      · rcases le_total x y with h | h
        · simp [max_eq_right h, hy]
        · simp [max_eq_left h]
      · rcases List.mem_append.1 hz with hz | hz
        · exact (above z hz).trans (le_max_right _ _)
        · exact (List.mem_singleton.1 hz).le.trans (le_max_left _ _)

/-- The run that ends at a number goes down to a bottom through numbers of the list, until its steps are spent, at 0, or
where the number below is not in the list. -/
theorem runBottom_spec (seqs : List Nat) (n : Nat) : ∀ top, top ∈ seqs →
    let b := runBottom seqs n top
    b ≤ top ∧ (∀ i, b ≤ i → i ≤ top → i ∈ seqs) ∧ (b + n = top ∨ b = 0 ∨ b - 1 ∉ seqs) := by
  induction n with
  | zero =>
    intro top listed
    refine ⟨le_rfl, fun i lo hi => ?_, .inl rfl⟩
    rwa [show i = top from le_antisymm hi lo]
  | succ n ih =>
    intro top listed
    rw [runBottom]
    split
    · rename_i goes
      obtain ⟨below, run, ends⟩ := ih (top - 1) (List.contains_iff_mem.1 goes.2)
      refine ⟨by omega, fun i lo hi => ?_, ends.imp (by omega) id⟩
      rcases Nat.lt_or_ge i top with h | h
      · exact run i lo (by omega)
      · rwa [show i = top from le_antisymm hi h]
    · rename_i stops
      refine ⟨le_rfl, fun i lo hi => ?_, .inr ?_⟩
      · rwa [show i = top from le_antisymm hi lo]
      · rw [List.contains_iff_mem] at stops
        by_cases h : top = 0
        · exact .inl h
        · exact .inr fun listed => stops ⟨by omega, listed⟩

/-- With a step for each number of the list the run goes to its end. -/
theorem runBottom_ends {seqs : List Nat} {top : Nat} (listed : top ∈ seqs) :
    let b := runBottom seqs seqs.length top
    b = 0 ∨ b - 1 ∉ seqs := by
  intro b
  obtain ⟨below, run, spent | ends⟩ := runBottom_spec seqs seqs.length top listed
  · have inside : List.range' b (seqs.length + 1) ⊆ seqs := fun i hi => by
      have place := List.mem_range'_1.1 hi
      exact run i place.1 (by omega)
    have count := ((List.nodup_range' (s := b) (n := seqs.length + 1)).subperm inside).length_le
    rw [List.length_range'] at count
    omega
  · exact ends

/-- The witness state of an origin as its partition gives it: the highest number, and the run down from it (R135). -/
theorem restoreOrigin_spec (s : State) (w : Origin) :
    let o := restoreOrigin s w
    let a := Area.part w.place
    (o.place = w.place ∧ o.station = w.station ∧ o.staged = [] ∧ o.known = 0 ∧ o.floor = 0 ∧ o.gap = none)
    ∧ ((∀ p x, p < 49152 → readPage s a p ≠ .record x) → o.held = 0 ∧ o.oldest = none)
    ∧ (∀ p x, p < 49152 → readPage s a p = .record x → x.seq ≤ o.held ∧ o.oldest.isSome = true)
    ∧ (o.held = 0 ∨ ∃ p x, p < 49152 ∧ readPage s a p = .record x ∧ x.seq = o.held)
    ∧ ∀ b, o.oldest = some b →
      (∀ n, b ≤ n → n ≤ o.held → ∃ p x, p < 49152 ∧ readPage s a p = .record x ∧ x.seq = n)
      ∧ ∀ p x, p < 49152 → readPage s a p = .record x → x.seq + 1 ≠ b := by
  intro o a
  let seqs := (areaRecords s a).map (fun p => p.2.seq)
  have listed : ∀ n, n ∈ seqs ↔ ∃ p x, p < 49152 ∧ readPage s a p = .record x ∧ x.seq = n := by
    intro n
    simp only [seqs, List.mem_map, Prod.exists, mem_areaRecords, and_assoc]
    exact Iff.rfl
  obtain ⟨empty, greatest⟩ := maxList_spec seqs
  have restored : o = match maxList seqs with
      | none => { place := w.place, station := w.station }
      | some h => { place := w.place, station := w.station, held := h, oldest := some (runBottom seqs seqs.length h) } := rfl
  cases top : maxList seqs with
  | none =>
    have none : seqs = [] := empty.1 top
    rw [top] at restored
    rw [restored]
    refine ⟨⟨rfl, rfl, rfl, rfl, rfl, rfl⟩, fun _ => ⟨rfl, rfl⟩, fun p x hp page => ?_, .inl rfl, fun b hb => by cases hb⟩
    have here := (listed x.seq).2 ⟨p, x, hp, page, rfl⟩
    rw [none] at here
    cases here
  | some h =>
    obtain ⟨here, above⟩ := greatest h top
    rw [top] at restored
    rw [restored]
    obtain ⟨below, run, -⟩ := runBottom_spec seqs seqs.length h here
    refine ⟨⟨rfl, rfl, rfl, rfl, rfl, rfl⟩, fun none => ?_, fun p x hp page => ⟨above _ ((listed _).2 ⟨p, x, hp, page, rfl⟩), rfl⟩,
      .inr ((listed h).1 here), fun b hb => ?_⟩
    · obtain ⟨p, x, hp, page, -⟩ := (listed h).1 here
      exact absurd page (none p x hp)
    · obtain rfl : runBottom seqs seqs.length h = b := Option.some.inj hb
      refine ⟨fun n lo hi => (listed n).1 (run n lo hi), fun p x hp page before => ?_⟩
      rcases runBottom_ends here with zero | unlisted
      · omega
      · exact unlisted ((listed _).2 ⟨p, x, hp, page, by omega⟩)

end Sys2Proof.Machine
end

section
/-! What SCAN rebuilds from the own records (R55, R95 to R97): the year tallies, the day table and the mass rates, and the
disturbance account. -/

namespace Sys2Proof.Machine

/-! ## The year tallies of a slot (R84, R85, R95) -/

/-- A slot's year tallies with some half-hour entries of the slot added. -/
def YearRow.withHalfHours (sl : Slot) (es : List HalfHourEntry) (r : YearRow) : YearRow :=
  { r with
    validHalfHours := r.validHalfHours + es.countP (fun e => decide (e.status = .valid))
    invalidHalfHours := r.invalidHalfHours + es.countP (fun e => decide (e.status = .invalid))
    bCompliant := r.bCompliant
      + es.countP (fun e => decide (0 < sl.limitB ∧ e.status = .valid ∧ e.validated.getD 0 ≤ sl.limitB))
    aExceed := r.aExceed + es.countP (·.aExceeded)
    massSubst := r.massSubst + es.countP (·.massSubst)
    mass := r.mass + (es.map (fun e => e.mass.getD 0)).sum }

/-- A slot's year tallies with some day entries of the slot added. -/
def YearRow.withDays (es : List DayEntry) (r : YearRow) : YearRow :=
  { r with
    validDays := r.validDays + es.countP (fun e => decide (e.status = .valid))
    invalidDays := r.invalidDays + es.countP (fun e => decide (e.status = .invalid))
    idleDays := r.idleDays + es.countP (fun e => decide (e.status = .notOperating))
    dayExceed := r.dayExceed + es.countP (·.exceeded) }

theorem yearRowHalfHour_withHalfHours (sl : Slot) (e : HalfHourEntry) (es : List HalfHourEntry) (r : YearRow) :
    (yearRowHalfHour sl e r).withHalfHours sl es = r.withHalfHours sl (e :: es) := by
  simp only [yearRowHalfHour_eq, YearRow.withHalfHours, List.countP_cons, List.map_cons, List.sum_cons, decide_eq_true_eq,
    Nat.add_assoc, Nat.add_comm]

theorem yearRowDay_withDays (e : DayEntry) (es : List DayEntry) (r : YearRow) :
    (yearRowDay e r).withDays es = r.withDays (e :: es) := by
  simp only [yearRowDay_eq, YearRow.withDays, List.countP_cons, decide_eq_true_eq, Nat.add_assoc, Nat.add_comm]

/-- The entries of a slot in some records: that of the first record, when it names the slot, before those of the rest. -/
theorem slotHalfHours_cons (h : HalfHour) (hs : List HalfHour) (slot : Nat) :
    slotHalfHours (h :: hs) slot = (halfHourEntryAt h slot).toList ++ slotHalfHours hs slot := by
  rw [slotHalfHours, List.filterMap_cons, ← halfHourEntryAt]
  cases halfHourEntryAt h slot <;> rfl

theorem slotDays_cons (d : DayRecord) (ds : List DayRecord) (slot : Nat) :
    slotDays (d :: ds) slot = (dayEntryAt d slot).toList ++ slotDays ds slot := by
  rw [slotDays, List.filterMap_cons, ← dayEntryAt]
  cases dayEntryAt d slot <;> rfl

/-- The year tallies with the half-hours of some records added. -/
theorem foldl_yearAddHalfHour (c : Settings) (hs : List HalfHour) : ∀ y : YearUnit,
    hs.foldl (fun u h => yearAddHalfHour c h u) y = { y with
      minutes := {
        off := y.minutes.off + (hs.map (·.counts.off)).sum
        standby := y.minutes.standby + (hs.map (·.counts.standby)).sum
        firing := y.minutes.firing + (hs.map (·.counts.firing)).sum
        coldFiring := y.minutes.coldFiring + (hs.map (·.counts.coldFiring)).sum
        unknown := y.minutes.unknown + (hs.map (·.counts.unknown)).sum
        noRecord := y.minutes.noRecord + (hs.map (·.counts.noRecord)).sum }
      coldFiring := y.coldFiring + (hs.map (·.counts.coldFiring)).sum
      rows := y.rows.map (fun r => r.withHalfHours (c.slots.getD r.slot {}) (slotHalfHours hs r.slot)) } := by
  induction hs with
  | nil =>
    intro y
    have same : y.rows.map (fun r => r.withHalfHours (c.slots.getD r.slot {}) (slotHalfHours [] r.slot)) = y.rows :=
      List.map_id'' (fun r => rfl) _
    rw [List.foldl_nil, same]
    rfl
  | cons h hs ih =>
    intro y
    rw [List.foldl_cons, ih]
    simp only [yearAddHalfHour, MinuteCounts.plus, List.map_cons, List.sum_cons, Nat.add_assoc, List.map_map]
    congr 1
    refine List.map_congr_left fun r _ => ?_
    rw [Function.comp_apply, slotHalfHours_cons]
    cases halfHourEntryAt h r.slot with
    | none => rfl
    | some e => exact yearRowHalfHour_withHalfHours ..

/-- The year tallies with the days of some records added. -/
theorem foldl_yearAddDay (ds : List DayRecord) : ∀ y : YearUnit,
    ds.foldl (fun u d => { yearAddDay d u with totals := u.totals.plus d.counters }) y = { y with
      totals := ds.foldl (fun t d => t.plus d.counters) y.totals
      rows := y.rows.map (fun r => r.withDays (slotDays ds r.slot)) } := by
  induction ds with
  | nil =>
    intro y
    have same : y.rows.map (fun r => r.withDays (slotDays [] r.slot)) = y.rows := List.map_id'' (fun r => rfl) _
    rw [List.foldl_nil, same]
    rfl
  | cons d ds ih =>
    intro y
    rw [List.foldl_cons, ih]
    simp only [yearAddDay, List.foldl_cons, List.map_map]
    congr 1
    refine List.map_congr_left fun r _ => ?_
    rw [Function.comp_apply, slotDays_cons]
    cases dayEntryAt d r.slot with
    | none => rfl
    | some e => exact yearRowDay_withDays ..

/-- The year totals are the sums of the days' station counters, each with its bound (R86, R95). -/
theorem foldl_plus_toList (ds : List DayRecord) {i : Nat} (hi : i < 9) : ∀ (t : Counters) (n : Nat),
    t.toList.getD i 0 = min 4294967295 n →
    (ds.foldl (fun t d => t.plus d.counters) t).toList.getD i 0
      = min 4294967295 (n + (ds.map (fun d => d.counters.toList.getD i 0)).sum) := by
  induction ds with
  | nil => exact fun _ _ h => h
  | cons d ds ih =>
    intro t n h
    rw [List.foldl_cons, ih (t.plus d.counters) (n + d.counters.toList.getD i 0), List.map_cons, List.sum_cons,
      Nat.add_assoc]
    have lengths : ∀ c : Counters, c.toList.length = 9 := fun _ => rfl
    rw [Counters.plus_toList]
    simp only [List.getD_eq_getElem?_getD, List.getElem?_zipWith] at h ⊢
    rw [List.getElem?_eq_getElem (by rw [lengths]; exact hi), List.getElem?_eq_getElem (by rw [lengths]; exact hi)] at *
    simp only [Option.getD_some] at h ⊢
    omega

/-- The FSTOP assertions counted by series of consecutive half-hours (R95; log entry 26). -/
theorem fstopSeries_eq (hs : List HalfHour) : fstopSeries hs =
    let asserted := (hs.filter (·.fstop)).map (·.start)
    asserted.countP (fun x : Nat => decide (x < 1800 ∨ x - 1800 ∉ asserted)) := by
  refine List.countP_congr fun x _ => ?_
  simp only [Bool.not_eq_true', Bool.and_eq_false_imp, decide_eq_true_eq]
  rw [← Nat.not_le, ← imp_iff_not_or]
  simp

theorem tallyYear_eq (c : Settings) (hs : List HalfHour) (ds : List DayRecord) (y : YearUnit) :
    tallyYear c hs ds y = { y with
      rows := y.rows.map (fun r => (({ slot := r.slot } : YearRow).withHalfHours (c.slots.getD r.slot {})
        (slotHalfHours hs r.slot)).withDays (slotDays ds r.slot))
      minutes := {
        off := (hs.map (·.counts.off)).sum, standby := (hs.map (·.counts.standby)).sum
        firing := (hs.map (·.counts.firing)).sum, coldFiring := (hs.map (·.counts.coldFiring)).sum
        unknown := (hs.map (·.counts.unknown)).sum, noRecord := (hs.map (·.counts.noRecord)).sum }
      coldFiring := (hs.map (·.counts.coldFiring)).sum
      fstops := fstopSeries hs
      totals := ds.foldl (fun t d => t.plus d.counters) {} } := by
  rw [tallyYear, foldl_yearAddHalfHour, foldl_yearAddDay]
  simp only [freshTallies, List.map_map, Function.comp_def, Nat.zero_add]
  rfl

/-- The tallies of a year rebuilt from its records. -/
theorem tallyYear_spec (c : Settings) (hs : List HalfHour) (ds : List DayRecord) (y : YearUnit) :
    let u := tallyYear c hs ds y
    (u.rows.map (·.slot) = y.rows.map (·.slot) ∧ ∀ x ∈ u.rows, RowRebuilt c hs ds x)
    ∧ u.minutes = {
        off := (hs.map (·.counts.off)).sum, standby := (hs.map (·.counts.standby)).sum
        firing := (hs.map (·.counts.firing)).sum, coldFiring := (hs.map (·.counts.coldFiring)).sum
        unknown := (hs.map (·.counts.unknown)).sum, noRecord := (hs.map (·.counts.noRecord)).sum }
    ∧ u.coldFiring = (hs.map (·.counts.coldFiring)).sum ∧ u.fstops = fstopSeries hs
    ∧ (∀ i, i < 9 → u.totals.toList.getD i 0
        = min 4294967295 (ds.map (fun d => d.counters.toList.getD i 0)).sum)
    ∧ u.day = y.day ∧ u.openYear = y.openYear ∧ u.resume = y.resume ∧ u.compareDue = y.compareDue := by
  intro u
  rw [show u = _ from tallyYear_eq c hs ds y]
  refine ⟨⟨by rw [List.map_map]; rfl, fun x hx => ?_⟩, rfl, rfl, rfl, fun i hi => ?_, rfl, rfl, rfl, rfl⟩
  · obtain ⟨r, -, rfl⟩ := List.mem_map.1 hx
    simp [RowRebuilt, YearRow.withDays, YearRow.withHalfHours]
  · rw [foldl_plus_toList ds hi {} 0 (by interval_cases i <;> rfl), Nat.zero_add]

/-! ## The day table and the mass rates (R97) -/

/-- The day row of a slot from some records, added to what it holds. -/
theorem foldl_dayRowRebuild (slot : Nat) (today : List HalfHour) : ∀ d : DayRow,
    let es := slotHalfHours today slot
    let unnamed := today.countP (fun h => (h.entries.find? (fun e => e.slot == slot)).isNone
      && decide (15 ≤ h.counts.firing + h.counts.coldFiring + h.counts.unknown + h.counts.noRecord))
    today.foldl (dayRowRebuild slot) d = {
      operating := d.operating + (es.countP (fun e => decide (e.status ≠ .notOperating)) + unnamed)
      valid := d.valid + es.countP (fun e => decide (e.status = .valid))
      invalid := d.invalid + (es.countP (fun e => decide (e.status = .invalid)) + unnamed)
      sum := d.sum + (es.map (fun e => if e.status = .valid then e.validated.getD 0 else 0)).sum
      aExceed := d.aExceed + es.countP (fun e => decide (e.status = .valid) && e.aExceeded) } := by
  induction today with
  | nil => exact fun _ => rfl
  | cons h hs ih =>
    intro d
    rw [List.foldl_cons, ih]
    simp only [slotHalfHours_cons, List.countP_cons, ← halfHourEntryAt.eq_1]
    cases entry : halfHourEntryAt h slot with
    | none =>
      by_cases operating : 15 ≤ h.counts.operating
      · have rule : decide (15 ≤ h.counts.firing + h.counts.coldFiring + h.counts.unknown + h.counts.noRecord) = true :=
          decide_eq_true operating
        simp only [dayRowRebuild, entry, operating, rule]
        simp
        omega
      · have rule : decide (15 ≤ h.counts.firing + h.counts.coldFiring + h.counts.unknown + h.counts.noRecord) = false :=
          decide_eq_false operating
        simp only [dayRowRebuild, entry, operating, rule]
        simp
    | some e =>
      cases status : e.status <;> cases exceeded : e.aExceeded <;>
        simp [dayRowRebuild, entry, dayRowHalfHour, status, exceeded] <;> omega

theorem dayRowRebuilt (slot : Nat) (today : List HalfHour) :
    DayRowRebuilt today slot (today.foldl (dayRowRebuild slot) {}) := by
  rw [foldl_dayRowRebuild]
  simp [DayRowRebuilt]

/-- The rate of a slot in a record, when it carries one. -/
def rateAt (h : HalfHour) (slot : Nat) : Option Nat := (halfHourEntryAt h slot).bind (·.rate)

theorem rateAt_eq_some {h : HalfHour} {slot q : Nat} :
    rateAt h slot = some q ↔ ∃ e, h.entries.find? (fun e => e.slot == slot) = some e ∧ e.rate = some q :=
  Option.bind_eq_some_iff

/-- The record that carries a slot's rate and starts latest, with its rate (R97). -/
def latestRated (hs : List HalfHour) (slot : Nat) : Option (Nat × Nat) :=
  hs.foldl (fun m h => match rateAt h slot, m with
    | some q, none => some (h.start, q)
    | some q, some (t, p) => if t ≤ h.start then some (h.start, q) else some (t, p)
    | none, m => m) none

theorem latestRated_append (hs : List HalfHour) (h : HalfHour) (slot : Nat) :
    latestRated (hs ++ [h]) slot = match rateAt h slot, latestRated hs slot with
      | some q, none => some (h.start, q)
      | some q, some (t, p) => if t ≤ h.start then some (h.start, q) else some (t, p)
      | none, m => m := by
  simp only [latestRated, List.foldl_append, List.foldl_cons, List.foldl_nil]

theorem latestRated_spec (hs : List HalfHour) (slot : Nat) :
    (latestRated hs slot = none ↔ ∀ h ∈ hs, rateAt h slot = none)
    ∧ ∀ t q, latestRated hs slot = some (t, q) → (∃ h ∈ hs, h.start = t ∧ rateAt h slot = some q)
      ∧ ∀ g ∈ hs, (rateAt g slot).isSome = true → g.start ≤ t := by
  induction hs using List.reverseRecOn with
  | nil => simp [latestRated]
  | append_singleton hs h ih =>
    obtain ⟨unrated, latest⟩ := ih
    rw [latestRated_append]
    cases rate : rateAt h slot with
    | none =>
      refine ⟨unrated.trans (by simp [or_imp, forall_and, rate]), fun t q found => ?_⟩
      obtain ⟨⟨g, hg, carries⟩, above⟩ := latest t q found
      refine ⟨⟨g, by simp [hg], carries⟩, fun g hg => ?_⟩
      rcases List.mem_append.1 hg with hg | hg
      · exact above g hg
      · simp [List.mem_singleton.1 hg, rate]
    | some p =>
      cases before : latestRated hs slot with
      | none =>
        have others := unrated.1 before
        refine ⟨by simp [rate], fun t q found => ?_⟩
        obtain ⟨rfl, rfl⟩ : h.start = t ∧ p = q := by simpa using found
        refine ⟨⟨h, by simp, rfl, rate⟩, fun g hg rated => ?_⟩
        rcases List.mem_append.1 hg with hg | hg
        · simp [others g hg] at rated
        · rw [List.mem_singleton.1 hg]
      | some x =>
        obtain ⟨⟨g, hg, carries⟩, above⟩ := latest x.1 x.2 before
        dsimp only
        refine ⟨by split <;> simp [rate], fun t q found => ?_⟩
        split at found
        · rename_i later
          obtain ⟨rfl, rfl⟩ : h.start = t ∧ p = q := by simpa using found
          refine ⟨⟨h, by simp, rfl, rate⟩, fun g hg rated => ?_⟩
          rcases List.mem_append.1 hg with hg | hg
          · exact (above g hg rated).trans later
          · rw [List.mem_singleton.1 hg]
        · rename_i earlier
          obtain rfl : x = (t, q) := Option.some.inj found
          refine ⟨⟨g, by simp [hg], carries⟩, fun g hg rated => ?_⟩
          rcases List.mem_append.1 hg with hg | hg
          · exact above g hg rated
          · rw [List.mem_singleton.1 hg]; exact (Nat.not_le.1 earlier).le

theorem latestRate_eq (hs : List HalfHour) (slot : Nat) : latestRate hs slot = (latestRated hs slot).map (·.2) := rfl

/-- The mean mass rate of a slot is that of the latest record which carries one (R97). -/
theorem latestRate_spec (hs : List HalfHour) (slot : Nat) :
    (latestRate hs slot = none ↔ ∀ e ∈ slotHalfHours hs slot, e.rate = none)
    ∧ ∀ q, latestRate hs slot = some q → ∃ h ∈ hs,
      (∃ e, h.entries.find? (fun e => e.slot == slot) = some e ∧ e.rate = some q)
      ∧ ∀ g ∈ hs, (∃ e, g.entries.find? (fun e => e.slot == slot) = some e ∧ e.rate.isSome = true) →
          g.start ≤ h.start := by
  obtain ⟨unrated, latest⟩ := latestRated_spec hs slot
  rw [latestRate_eq]
  refine ⟨?_, fun q found => ?_⟩
  · rw [Option.map_eq_none_iff, unrated]
    simp only [slotHalfHours, List.mem_filterMap, rateAt, halfHourEntryAt, Option.bind_eq_none_iff]
    exact ⟨fun h e ⟨g, hg, he⟩ => h g hg e he, fun h g hg e he => h e ⟨g, hg, he⟩⟩
  · obtain ⟨⟨t, q⟩, rated, rfl⟩ := Option.map_eq_some_iff.1 found
    obtain ⟨⟨h, hh, rfl, carries⟩, above⟩ := latest t q rated
    refine ⟨h, hh, rateAt_eq_some.1 carries, fun g hg ⟨e, he, rate⟩ => above g hg ?_⟩
    obtain ⟨p, hp⟩ := Option.isSome_iff_exists.1 rate
    exact Option.isSome_iff_exists.2 ⟨p, rateAt_eq_some.2 ⟨e, he, hp⟩⟩

/-! ## The account, and the rebuild as a whole (R55, R95 to R97) -/

/-- The account restored from a run length, a year total and a longest run (R55). -/
theorem restoredAccount_spec (c : Settings) (run total longest : Nat) :
    let a := restoredAccount c run total longest
    a.run = run ∧ a.yearTotal = total ∧ a.longest = longest
    ∧ (a.fstop = true ↔ 0 < run ∧ (c.runCap ≤ run ∨ c.yearCap ≤ total)) ∧ a.fstopInHalfHour = a.fstop
    ∧ a.coldFed = false ∧ (a.warned = true ↔ 3 * c.yearCap / 4 ≤ total) := by
  exact ⟨rfl, rfl, rfl, by simp [restoredAccount, capReached], rfl, rfl, decide_eq_true_iff⟩

/-- The rows of the recording units as a cold start forms them, with nothing counted and no record queued (R67, R82). -/
structure RowsFormed (s : State) : Prop where
  year : s.year = {
    rows := (pollutants s.cfg).map (fun p => { slot := p.1 })
    resume := s.year.resume, compareDue := s.year.compareDue }
  avg : s.avg = { rows := (pollutants s.cfg).map (fun p => { slot := p.1 }) }
  outbound : s.arch.outbound = []

/-- The rebuild from the records makes of the formed rows what R95 to R97 and R55 say. -/
theorem rebuildFrom_rebuilt {s : State} (formed : RowsFormed s) (recs : List Rec) (r : Nat) :
    RebuiltAt recs r (rebuildFrom recs r s) := by
  unfold RebuiltAt
  intro half year closed hs ds today asserted run total capped
  let u := rebuildFrom recs r s
  have cfg : u.cfg = s.cfg := rfl
  have line : u.line = restoredAccount s.cfg run total
      ((maxList (hs.map (fun h => max h.runAtClose h.disturbed))).getD 0) := rfl
  have tallies : u.year = tallyYear s.cfg hs ds s.year := rfl
  have avg : u.avg = { s.avg with rows := s.avg.rows.map (fun x =>
      { x with day := today.foldl (dayRowRebuild x.slot) {}, rate := latestRate hs x.slot }) } := rfl
  obtain ⟨⟨slots, rows⟩, minutes, cold, fstops, totals, day, -⟩ := tallyYear_spec s.cfg hs ds s.year
  obtain ⟨accountRun, accountTotal, longest, fstop, inHalfHour, coldFed, warned⟩ := restoredAccount_spec s.cfg run total
    ((maxList (hs.map (fun h => max h.runAtClose h.disturbed))).getD 0)
  obtain ⟨none, greatest⟩ := maxList_spec (hs.map (fun h => max h.runAtClose h.disturbed))
  rw [← tallies] at slots rows minutes cold fstops totals day
  rw [← line] at accountRun accountTotal longest fstop inHalfHour coldFed warned
  refine ⟨⟨?_, rows⟩, minutes, cold, fstops.trans (fstopSeries_eq hs), totals, day.trans (by rw [formed.year]), accountRun,
    accountTotal, ?_, ?_, fstop, inHalfHour, coldFed, warned, ⟨?_, ?_, ?_⟩, formed.outbound⟩
  · rw [slots, formed.year, List.map_map]
    rfl
  · intro h hh
    rw [longest]
    have listed := List.mem_map_of_mem (f := fun h : HalfHour => max h.runAtClose h.disturbed) hh
    cases top : maxList (hs.map (fun h => max h.runAtClose h.disturbed)) with
    | none => rw [none.1 top] at listed; cases listed
    | some n =>
      have above := (greatest n top).2 _ listed
      exact ⟨(le_max_left _ _).trans above, (le_max_right _ _).trans above⟩
  · rw [longest]
    cases top : maxList (hs.map (fun h => max h.runAtClose h.disturbed)) with
    | none => exact .inl rfl
    | some n =>
      obtain ⟨h, hh, same⟩ := List.mem_map.1 (greatest n top).1
      exact .inr ⟨h, hh, same.symm⟩
  · rw [show (rebuildFrom recs r s).avg = _ from avg, formed.avg, List.map_map, List.map_map]
    rfl
  · rw [show (rebuildFrom recs r s).avg = _ from avg, formed.avg]
  · intro x hx
    rw [show (rebuildFrom recs r s).avg = _ from avg, formed.avg] at hx
    obtain ⟨y, hy, rfl⟩ := List.mem_map.1 hx
    obtain ⟨p, -, rfl⟩ := List.mem_map.1 hy
    exact ⟨rfl, dayRowRebuilt .., latestRate_spec ..⟩

/-- Without a record the rebuild leaves formed rows and a fresh account as they are, when no disturbance at all is not enough
for a warning. -/
theorem rebuiltAt_nil {s : State} (formed : RowsFormed s) (line : s.line = {}) (cap : 2 ≤ s.cfg.yearCap) :
    RebuiltAt [] 0 s := by
  have year : tallyYear s.cfg [] [] s.year = s.year := by
    rw [formed.year, tallyYear_eq, List.map_map]
    rfl
  have avg : s.avg.rows.map (fun r => { r with day := {}, rate := none }) = s.avg.rows := by
    rw [formed.avg, List.map_map]
    rfl
  have account : restoredAccount s.cfg 0 0 0 = s.line := by
    have threshold : ¬ warnThreshold s.cfg ≤ 0 := by simp only [warnThreshold]; omega
    simp [restoredAccount, threshold, line]
  have same : rebuildFrom [] 0 s = s := by
    change ((s.setYear (tallyYear s.cfg [] [] s.year)).setAvg { s.avg with
      rows := s.avg.rows.map (fun r => { r with day := {}, rate := none }) }).setLine (restoredAccount s.cfg 0 0 0) = s
    rw [year, avg, account]
    rfl
  have rebuilt := rebuildFrom_rebuilt formed [] 0
  rwa [same] at rebuilt

end Sys2Proof.Machine
end

section
/-! The pending closes of a cold start (R98): their records join the outbound record queue and wait there, and nothing else of
the archive and of the port changes. -/

namespace Sys2Proof.Machine

/-! ## Records that wait to be archived (R156) -/

/-- Every record of the outbound queue waits to be archived, without a sequence number. -/
def AllWaiting (s : State) : Prop := ∀ e ∈ s.arch.outbound, e.state = .waitingArchive ∧ e.seq = none

/-- Records joined a queue in which all wait, and nothing else of the archive and of the port changed. -/
structure Appended (s t : State) : Prop where
  waiting : AllWaiting t
  port : t.port = s.port
  arch : t.arch = { s.arch with outbound := t.arch.outbound }

theorem Appended.refl {s : State} (h : AllWaiting s) : Appended s s := ⟨h, rfl, rfl⟩

theorem Appended.trans {s t u : State} (h : Appended s t) (k : Appended t u) : Appended s u where
  waiting := k.waiting
  port := k.port.trans h.port
  arch := by rw [k.arch, h.arch]

/-- Whether records joined the queue is told from the archive and the port. -/
theorem Appended.congr {s t s' t' : State} (h : Appended s t) (port : s'.port = s.port) (arch : s'.arch = s.arch)
    (port' : t'.port = t.port) (arch' : t'.arch = t.arch) : Appended s' t' where
  waiting := by rw [AllWaiting, arch']; exact h.waiting
  port := by rw [port', h.port, port]
  arch := by rw [arch', arch]; exact h.arch

theorem removeFirst_subset {α : Type} (p : α → Bool) (l : List α) : removeFirst p l ⊆ l := by
  induction l with
  | nil => exact List.Subset.refl _
  | cons x l ih =>
    rw [removeFirst]
    split
    · exact List.subset_cons_self ..
    · exact List.cons_subset_cons _ ih

/-- Room in a queue in which all wait comes from the oldest record, which holds no number. -/
theorem makeRoom_appended {s : State} (h : AllWaiting s) : Appended s (makeRoom s) := by
  have published : s.arch.outbound.find? (removablePublish s) = none :=
    List.find?_eq_none.2 fun e he => by simp [removablePublish, (h e he).1]
  rw [makeRoom, published]
  dsimp only
  split
  · rename_i e found
    rw [(h e (List.mem_of_find?_eq_some found)).2]
    exact ⟨fun x hx => h x (removeFirst_subset _ _ hx), rfl, rfl⟩
  · exact .refl h

theorem appendRecord_waiting {s : State} (h : AllWaiting s) (kind : RecordKind) (start : Nat) (body : List Byte) :
    Appended s (appendRecord kind start body s) := by
  have join : ∀ u, AllWaiting u → Appended u
      (u.setArch { u.arch with outbound := u.arch.outbound ++ [{ kind := kind, start := start, body := body }] }) :=
    fun u hu => ⟨fun e he => by
      rcases List.mem_append.1 he with he | he
      · exact hu e he
      · rw [List.mem_singleton.1 he]; exact ⟨rfl, rfl⟩, rfl, rfl⟩
  simp only [appendRecord]
  split
  · exact (makeRoom_appended h).trans (join _ (makeRoom_appended h).waiting)
  · exact join s h

theorem appendRecords_waiting (l : List (RecordKind × Nat × List Byte)) : ∀ {s : State}, AllWaiting s →
    Appended s (l.foldl (fun u x => appendRecord x.1 x.2.1 x.2.2 u) s) := by
  induction l with
  | nil => exact fun h => .refl h
  | cons x l ih =>
    intro s h
    have first := appendRecord_waiting h x.1 x.2.1 x.2.2
    exact first.trans (ih first.waiting)

/-! ## The closes -/

/-- Before a year is open no erase is forbidden, and the retention test changes nothing in READY (R162). -/
theorem retentionTest_ready {s : State} (ready : s.arch.state = .ready) (none : s.year.openYear = none) :
    retentionTest s = s := by
  have allowed : ownEraseForbidden s = false := by
    rw [ownEraseForbidden]
    split
    · simp [holdsRetained, none]
    · rfl
  simp [retentionTest, ready, allowed]

theorem closeDay_waiting {s : State} (h : AllWaiting s) (boundary : Nat) : Appended s (closeDay boundary s) := by
  obtain ⟨arch, port, -⟩ := dayUpdated_units (dayRecord (boundary - 86400) s) s
  have waiting : AllWaiting (dayUpdated (dayRecord (boundary - 86400) s) s) := by rw [AllWaiting, arch]; exact h
  rw [closeDay_eq]
  exact (appendRecord_waiting waiting _ _ _).congr port.symm arch.symm rfl rfl

theorem closeYear_waiting {s : State} (h : AllWaiting s) (ready : s.arch.state = .ready) (none : s.year.openYear = none)
    (boundary : Nat) : Appended s (closeYear boundary s) := by
  let v := appendYearRecords (yearOf boundary - 1) s
  have records : Appended s v := by
    rw [show v = _ from appendYearRecords_eq ..]
    exact appendRecords_waiting _ h
  have untested : retentionTest (yearRestarted v) = yearRestarted v := by
    refine retentionTest_ready (show v.arch.state = _ by rw [records.arch, ready]) ?_
    simp [yearRestarted_eq, v, none]
  rw [show closeYear boundary s = _ from (restartYear_eq v).trans untested]
  exact records.congr rfl rfl rfl rfl

theorem missingYearSlots_waiting {s : State} (h : AllWaiting s) (recs : List Rec) (year : Nat) :
    Appended s (missingYearSlots recs year s) := by
  let lacking := (tallyYear s.cfg (halfHoursOf recs year) (daysOf recs year) s.year).rows.filter
    (fun r => !yearSlotClosed recs year r.slot)
  have records := appendRecords_waiting (lacking.map (fun r => (.yearSlot, yearStart year, yearSlotBody (yearSlotOf s.cfg year r)))) h
  rw [List.foldl_map] at records
  exact records.congr rfl rfl rfl rfl

/-- The pending closes only add records that wait, before a year is open. -/
theorem pendingCloses_waiting {s : State} (h : AllWaiting s) (ready : s.arch.state = .ready)
    (none : s.year.openYear = none) (recs : List Rec) (resume : Nat) : Appended s (pendingCloses recs resume s) := by
  let day := if resume % 86400 = 0 ∧ dayClosed recs (dayStart (resume - 1800)) = false
    ∧ yearClosed recs (yearOf (resume - 1800)) = false then closeDay resume s else s
  have first : Appended s day ∧ day.year.openYear = .none := by
    simp only [day]
    split
    · exact ⟨closeDay_waiting h resume, by rw [(closeDay_units resume s).2]; exact none⟩
    · exact ⟨.refl h, none⟩
  obtain ⟨appended, unopened⟩ := first
  have stillReady : day.arch.state = .ready := by rw [appended.arch, ready]
  change Appended s (if isYearStart resume then
    if yearClosed recs (yearOf (resume - 1800)) then missingYearSlots recs (yearOf (resume - 1800)) day
    else closeYear resume day else day)
  split
  · split
    · exact appended.trans (missingYearSlots_waiting appended.waiting ..)
    · exact appended.trans (closeYear_waiting appended.waiting stillReady unopened resume)
  · exact appended

/-- The records that a closed year lacks, when the queue has room for all: from tallies rebuilt without the year's
YEAR_GENERAL, after which the tallies are 0 (R98). -/
theorem missingYearSlots_spec (recs : List Rec) (year : Nat) {s : State}
    (room : s.arch.outbound.length + s.year.rows.length ≤ 16) :
    let t := missingYearSlots recs year s
    ∃ rows : List YearRow, rows.map (·.slot) = s.year.rows.map (·.slot)
      ∧ (∀ x ∈ rows, RowRebuilt s.cfg (halfHoursOf recs year) (daysOf recs year) x)
      ∧ t.arch.outbound = s.arch.outbound ++ (rows.filter (fun x => !yearSlotClosed recs year x.slot)).map (fun x =>
          { kind := .yearSlot, start := yearStart year, body := yearSlotBody (yearSlotOf s.cfg year x) })
      ∧ t.year.rows = s.year.rows.map (fun x => { slot := x.slot }) ∧ t.year.minutes = {} ∧ t.year.totals = {}
      ∧ t.line = s.line ∧ t.avg = s.avg := by
  intro t
  let rows := (tallyYear s.cfg (halfHoursOf recs year) (daysOf recs year) s.year).rows
  let lacking := rows.filter (fun r => !yearSlotClosed recs year r.slot)
  obtain ⟨⟨slots, rebuilt⟩, -⟩ := tallyYear_spec s.cfg (halfHoursOf recs year) (daysOf recs year) s.year
  have count : lacking.length ≤ s.year.rows.length := by
    have same := congrArg List.length slots
    rw [List.length_map, List.length_map] at same
    exact (List.length_filter_le ..).trans same.le
  have appended := appendRecords_room
    (lacking.map (fun r => (.yearSlot, yearStart year, yearSlotBody (yearSlotOf s.cfg year r)))) s
    (by rw [List.length_map]; omega)
  rw [List.foldl_map, List.map_map] at appended
  have closed : t = (s.setArch { s.arch with outbound := s.arch.outbound ++ lacking.map (fun x =>
      { kind := .yearSlot, start := yearStart year, body := yearSlotBody (yearSlotOf s.cfg year x) }) }).setYear
      (freshTallies s.year) :=
    congrArg (fun u : State => u.setYear (freshTallies u.year)) appended
  refine ⟨rows, slots, rebuilt, ?_⟩
  rw [closed]
  exact ⟨rfl, rfl, rfl, rfl, rfl, rfl⟩

end Sys2Proof.Machine
end

section
/-! The end of SCAN (R106, R116, R121, R180): CATCH_UP entered at the resume point, or TIME_UNSET, and the first flash-idle
event. -/

namespace Sys2Proof.Machine

/-! ## CATCH_UP after a cold start (R116) -/

/-- No record of a witnessed origin is known of yet (R135). -/
def NothingKnown (s : State) : Prop := ∀ o ∈ s.wit.origins, o.known = 0

/-- With nothing known no GAP is formed (R141). -/
theorem testGaps_nothing_known {s : State} (h : NothingKnown s) : testGaps s = s := by
  have unwanted : ∀ o ∈ s.wit.origins, gapWanted s o = false := fun o ho => by
    simp [gapWanted, h o ho, Origin.expected]
  have idle : ∀ q, formGap q s = s := fun q => formGap_idle fun o ho _ => unwanted o ho
  rw [testGaps, idle, idle, idle]

/-- The state in which CATCH_UP is entered from a port that is OFF, before the catch-up is found to have ended. -/
def catchUpEntered (s : State) : State :=
  ((s.setSupply { s.supply with station := some .catchUp }).setPort
    { s.port with state := .active, errorRun := 0, activeSince := s.elapsed }).setTb
    { resumeTimebase s.year.resume s.tb with catchUp := true }

theorem portOn_off {s : State} (off : s.port.state = .off) :
    portOn s = s.setPort { s.port with state := .active, errorRun := 0, activeSince := s.elapsed } := if_pos off

theorem enterCatchUp_off {s : State} (off : s.port.state = .off) :
    enterCatchUp s = endCatchUp (catchUpEntered s) := by
  rw [enterCatchUp, portOn_off (s := s.setSupply { s.supply with station := some .catchUp }) off]
  rfl

/-- The state in RECORDING that a catch-up without a due minute passes to at once, with nothing known. -/
def catchUpEnded (s : State) : State :=
  (s.setSupply { s.supply with station := some .recording, output := true }).setTb { s.tb with
    gaps := [], catchUp := false
    sampled := some (max (s.tb.closed.getD 0) (minuteOfTicks (s.tb.plant.getD 0))) }

theorem enterCatchUp_due {s : State} (off : s.port.state = .off) (due : minuteDue (catchUpEntered s).tb = true) :
    enterCatchUp s = catchUpEntered s := by
  rw [enterCatchUp_off off]
  exact endCatchUp_goes_on fun ended => by rw [ended.2] at due; cases due

theorem enterCatchUp_not_due {s : State} (off : s.port.state = .off) (quiet : NothingKnown s)
    (due : minuteDue (catchUpEntered s).tb = false) : enterCatchUp s = catchUpEnded (catchUpEntered s) := by
  rw [enterCatchUp_off off, endCatchUp, if_pos ⟨rfl, due⟩]
  exact testGaps_nothing_known quiet

section
variable {tb : Timebase} {p r : Nat} (hp : tb.plant = some p)
include hp

/-- Without a resume point T_c is the start of the minute that plant time is in (R116). -/
theorem resumeTimebase_none : resumeTimebase none tb = { tb with
    closed := some (p / 61440 * 60), gaps := [⟨p / 61440 * 60, .powerLoss⟩], state := .running, sampled := none } := by
  simp only [resumeTimebase, hp, Option.getD_some, minuteOfTicks_eq]

/-- A resume point later than plant time is T_c in a freeze (R116). -/
theorem resumeTimebase_future (future : p < r * 1024) : resumeTimebase (some r) tb = { tb with
    closed := some r, gaps := [⟨r, .powerLoss⟩], state := .frozen, sampled := none } := by
  simp only [resumeTimebase, hp, Option.getD_some, if_pos future]

/-- A resume point too old counts as none (R116). -/
theorem resumeTimebase_old (past : r * 1024 ≤ p) (old : r - 1800 < yearStart (yearOf (p / 1024) - 1)) :
    resumeTimebase (some r) tb = resumeTimebase none tb := by
  simp only [resumeTimebase, hp, Option.getD_some, secondsOf, if_neg (Nat.not_lt.2 past), if_pos old]

/-- Any other resume point is T_c (R116). -/
theorem resumeTimebase_recent (past : r * 1024 ≤ p) (recent : yearStart (yearOf (p / 1024) - 1) ≤ r - 1800) :
    resumeTimebase (some r) tb = { tb with
      closed := some r, gaps := [⟨r, .powerLoss⟩], state := .running, sampled := none } := by
  simp only [resumeTimebase, hp, Option.getD_some, secondsOf, if_neg (Nat.not_lt.2 past), if_neg (Nat.not_lt.2 recent)]

end

/-- The timebase on entering CATCH_UP keeps all but T_c, the sampled minute, the gap list, the catch-up and its state. -/
theorem resumeTimebase_keeps (resume : Option Nat) (tb : Timebase) : resumeTimebase resume tb = { tb with
    closed := (resumeTimebase resume tb).closed, sampled := (resumeTimebase resume tb).sampled
    gaps := (resumeTimebase resume tb).gaps, state := (resumeTimebase resume tb).state } := by
  cases resume with
  | none => rfl
  | some r =>
    simp only [resumeTimebase]
    (repeat' split) <;> rfl

/-- With a minute due CATCH_UP goes on as it was entered, and without one it ends at once (R106). -/
theorem enterCatchUp_at {s : State} {p c : Nat} (off : s.port.state = .off) (hp : s.tb.plant = some p)
    (closed : (resumeTimebase s.year.resume s.tb).closed = some c) :
    let t := enterCatchUp s
    t.tb.state = (resumeTimebase s.year.resume s.tb).state
    ∧ (p < (c + 60) * 1024 → CaughtUp c p t)
    ∧ ((c + 60) * 1024 ≤ p → t.supply.station = some .catchUp ∧ t.tb.closed = some c
        ∧ t.tb.gaps = (resumeTimebase s.year.resume s.tb).gaps ∧ t.tb.catchUp = true
        ∧ t.tb.sampled = (resumeTimebase s.year.resume s.tb).sampled) := by
  have plant : (catchUpEntered s).tb.plant = some p := by
    rw [← hp, catchUpEntered, resumeTimebase_keeps]
    rfl
  have due := minuteDue_iff plant closed
  refine ⟨?_, fun before => ?_, fun after => ?_⟩
  · rw [enterCatchUp_off off]
    exact (endCatchUp_fields _).2.2.2.2.2.2.2.2.2.2.2.1
  · have notDue : minuteDue (catchUpEntered s).tb = false := Bool.eq_false_iff.2 fun h => by
      have := due.1 h
      omega
    rw [enterCatchUp_off off]
    exact endCatchUp_catchUp ⟨rfl, notDue⟩ rfl plant closed
  · rw [enterCatchUp_due off (due.2 after)]
    exact ⟨rfl, closed, rfl, rfl, rfl⟩

/-- T_c and the gap list follow the resume point (R116). -/
theorem enterCatchUp_enters {s : State} {p : Nat} (off : s.port.state = .off) (hp : s.tb.plant = some p) : EntersCatchUp s.year.resume p (enterCatchUp s) := by
  have early : p < (p / 61440 * 60 + 60) * 1024 := by omega
  have fresh (h : resumeTimebase s.year.resume s.tb = resumeTimebase none s.tb) :
      (enterCatchUp s).tb.state = .running ∧ CaughtUp (p / 61440 * 60) p (enterCatchUp s) := by
    rw [resumeTimebase_none hp] at h
    obtain ⟨state, ended, -⟩ := enterCatchUp_at off hp (congrArg Timebase.closed h)
    exact ⟨state.trans (congrArg Timebase.state h), ended early⟩
  refine ⟨fun none => fresh (by rw [none]), fun r resume => ⟨fun future => ?_, fun past old => ?_, fun past recent => ?_⟩⟩
  · have h : resumeTimebase s.year.resume s.tb = _ :=
      (congrArg (resumeTimebase · s.tb) resume).trans (resumeTimebase_future hp future)
    obtain ⟨state, ended, -⟩ := enterCatchUp_at off hp (congrArg Timebase.closed h)
    exact ⟨state.trans (congrArg Timebase.state h), ended (future.trans (by omega))⟩
  · exact fresh (resume ▸ resumeTimebase_old hp past old)
  · have h : resumeTimebase s.year.resume s.tb = _ :=
      (congrArg (resumeTimebase · s.tb) resume).trans (resumeTimebase_recent hp past recent)
    obtain ⟨state, ended, goesOn⟩ := enterCatchUp_at off hp (congrArg Timebase.closed h)
    refine ⟨state.trans (congrArg Timebase.state h), ended, fun due => ?_⟩
    obtain ⟨station, closed, gaps, catchUp, sampled⟩ := goesOn due
    exact ⟨station, closed, gaps.trans (congrArg Timebase.gaps h), catchUp, sampled.trans (congrArg Timebase.sampled h)⟩

/-- What entering CATCH_UP changes of a cold state: the station state and the outputs, the port, and the timebase. -/
theorem enterCatchUp_cold {s : State} (off : s.port.state = .off) (quiet : NothingKnown s)
    (silent : s.supply.output = false) :
    let t := enterCatchUp s
    t = ((s.setSupply t.supply).setPort t.port).setTb t.tb
    ∧ t.supply = { s.supply with station := t.supply.station, output := t.supply.output }
    ∧ CatchingUpOrRecording t ∧ (t.supply.station ≠ some .recording → t.supply.output = false)
    ∧ t.port = { s.port with state := .active, errorRun := 0, activeSince := s.elapsed }
    ∧ t.tb = { s.tb with
        closed := t.tb.closed, sampled := t.tb.sampled, gaps := t.tb.gaps, state := t.tb.state, catchUp := t.tb.catchUp } := by
  have keeps := resumeTimebase_keeps s.year.resume s.tb
  cases due : minuteDue (catchUpEntered s).tb with
  | true =>
    rw [enterCatchUp_due off due]
    refine ⟨rfl, ?_, .inl rfl, fun _ => silent, rfl, ?_⟩
    · rfl
    · simp only [catchUpEntered, State.setTb_tb]
      rw [keeps]
  | false =>
    rw [enterCatchUp_not_due off quiet due]
    refine ⟨rfl, rfl, .inr rfl, fun other => absurd rfl other, rfl, ?_⟩
    simp only [catchUpEnded, catchUpEntered, State.setTb_tb]
    rw [keeps]

/-- The end of SCAN from a cold state: TIME_UNSET without a plant time, and else CATCH_UP or at once RECORDING. -/
theorem endScan_cold {s : State} (off : s.port.state = .off) (quiet : NothingKnown s) (silent : s.supply.output = false) :
    let t := endScan s
    t = ((s.setSupply t.supply).setPort t.port).setTb t.tb
    ∧ t.supply = { s.supply with station := t.supply.station, output := t.supply.output }
    ∧ (t.supply.station = some .timeUnset ∨ CatchingUpOrRecording t)
    ∧ (t.supply.station ≠ some .recording → t.supply.output = false)
    ∧ t.port = { s.port with state := .active, errorRun := 0, activeSince := s.elapsed }
    ∧ t.tb = { s.tb with
        closed := t.tb.closed, sampled := t.tb.sampled, gaps := t.tb.gaps, state := t.tb.state, catchUp := t.tb.catchUp }
    ∧ (s.supply.clockValid = false → t.supply.station = some .timeUnset ∧ t.tb = s.tb)
    ∧ (s.supply.clockValid = true → CatchingUpOrRecording t
        ∧ ∀ p, s.tb.plant = some p → EntersCatchUp s.year.resume p t) := by
  cases valid : s.supply.clockValid with
  | true =>
    obtain ⟨frame, supply, station, output, port, tb⟩ := enterCatchUp_cold off quiet silent
    rw [show endScan s = enterCatchUp s by simp [endScan, valid]]
    exact ⟨frame, supply, .inr station, output, port, tb, fun h => by simp at h,
      fun _ => ⟨station, fun p hp => enterCatchUp_enters off hp⟩⟩
  | false =>
    have unset : endScan s = (s.setSupply { s.supply with station := some .timeUnset }).setPort
        { s.port with state := .active, errorRun := 0, activeSince := s.elapsed } := by
      simp [endScan, valid, portOn, portActive, off]
    rw [unset]
    exact ⟨rfl, rfl, .inl rfl, fun _ => silent, rfl, rfl, fun _ => ⟨rfl, rfl⟩, fun h => by simp at h⟩

/-! ## The first flash-idle event (R153) -/

/-- With no read waiting a flash-idle event only starts an operation, if anything. -/
theorem flashIdle_of_unread {s : State} (none : s.arch.requests = []) : flashIdle s = s ∨ flashIdle s = startOperation s := by
  have unread : serveReads (readBound s) s = s := by
    cases readBound s with
    | zero => rfl
    | succ n => rw [serveReads, none]; rfl
  rw [flashIdle, unread]
  split
  · exact .inl rfl
  · dsimp only
    split
    · exact .inr rfl
    · exact .inl rfl

/-- With no read waiting a flash-idle event changes nothing but the archive, and no read waits after it. -/
theorem flashIdle_unread {s : State} (none : s.arch.requests = []) :
    flashIdle s = s.setArch (flashIdle s).arch ∧ (flashIdle s).arch.requests = [] := by
  rcases flashIdle_of_unread none with same | started
  · rw [same]
    exact ⟨rfl, none⟩
  · have frame := startOperation_frame s
    have requests : (startOperation s).arch.requests = [] := by simp [none]
    rw [started]
    refine ⟨?_, requests⟩
    generalize startOperation s = u at frame ⊢
    obtain ⟨supply, cfg, port, accs, minutes, line, avg, year, tb, wit, retr, elapsed, draws, pending⟩ := frame
    cases u
    simp only at supply cfg port accs minutes line avg year tb wit retr elapsed draws pending
    subst supply cfg port accs minutes line avg year tb wit retr elapsed draws pending
    rfl

end Sys2Proof.Machine
end

section
/-! The cold start into recording (R94 to R98, R116, R135, R140, R154, R157, R162, R165, R179, R180): SCAN stage by stage, and
what it leaves of each block. -/

namespace Sys2Proof.Machine

/-! ## The own records (R94 to R98, R140) -/

/-- The resume point is the latest period end among the own records, and none without a record (R94). -/
theorem resumePoint_spec (recs : List Rec) :
    (resumePoint recs = none ↔ recs = []) ∧ (∀ x ∈ recs, ∃ r, resumePoint recs = some r ∧ periodEnd x ≤ r)
    ∧ ∀ r, resumePoint recs = some r → ∃ x ∈ recs, periodEnd x = r := by
  obtain ⟨none, latest⟩ := maxList_spec (recs.map periodEnd)
  refine ⟨none.trans List.map_eq_nil_iff, fun x hx => ?_, fun r hr => List.mem_map.1 (latest r hr).1⟩
  have listed := List.mem_map_of_mem (f := periodEnd) hx
  cases found : maxList (recs.map periodEnd) with
  | none => rw [none.1 found] at listed; cases listed
  | some r => exact ⟨r, found, (latest r found).2 _ listed⟩

theorem pendingCloses_eq (recs : List Rec) (r : Nat) (u : State) : pendingCloses recs r u =
    let year := yearOf (r - 1800)
    let day := if r % 86400 = 0 ∧ dayClosed recs (dayStart (r - 1800)) = false ∧ yearClosed recs year = false
      then closeDay r u else u
    if yearStart (yearOf r) = r then
      (if yearClosed recs year = true then missingYearSlots recs year day else closeYear r day)
    else day := by
  simp only [pendingCloses, isYearStart, beq_iff_eq]

theorem missingYearSlots_resume (recs : List Rec) (year : Nat) (s : State) :
    (missingYearSlots recs year s).year.resume = s.year.resume
    ∧ (missingYearSlots recs year s).year.compareDue = s.year.compareDue := by
  simp [missingYearSlots, freshTallies]

/-- The pending closes leave the resume point and the comparison that is due. -/
theorem pendingCloses_resume (recs : List Rec) (r : Nat) (u : State) :
    (pendingCloses recs r u).year.resume = u.year.resume
    ∧ (pendingCloses recs r u).year.compareDue = u.year.compareDue := by
  have day : ∀ u, (closeDay r u).year.resume = u.year.resume ∧ (closeDay r u).year.compareDue = u.year.compareDue := by
    intro u
    rw [(closeDay_units r u).2]
    exact ⟨rfl, rfl⟩
  have year : ∀ u, (closeYear r u).year.resume = u.year.resume ∧ (closeYear r u).year.compareDue = u.year.compareDue := by
    intro u
    rw [(closeYear_units r u).1]
    exact ⟨rfl, rfl⟩
  simp only [pendingCloses]
  (repeat' split) <;> simp only [missingYearSlots_resume, day, year, and_self]

/-- The state holds what the own records give for a resume point: the rebuilt values with the pending closes made, their
records queued and their causes raised (R95 to R98). -/
def ClosesMade (recs : List Rec) (r : Nat) (t : State) : Prop :=
  ∃ u : State, u.cfg = t.cfg ∧ RebuiltAt recs r u ∧ u.wit.secured = 0 ∧ u.retr.flags = 0
    ∧ (t.line = (pendingCloses recs r u).line ∧ t.avg = (pendingCloses recs r u).avg
      ∧ t.year = { (pendingCloses recs r u).year with
          openYear := t.year.openYear, resume := some r, compareDue := true }
      ∧ t.year.openYear = some (yearOf r)
      ∧ t.arch.outbound.map OutEntry.contents = (pendingCloses recs r u).arch.outbound.map OutEntry.contents
      ∧ ∀ c : Cause, c ≠ .archive → flagSet t c = flagSet (pendingCloses recs r u) c)

theorem ClosesMade.transfer {recs : List Rec} {r : Nat} {s t : State} (h : ClosesMade recs r s) (cfg : t.cfg = s.cfg)
    (line : t.line = s.line) (avg : t.avg = s.avg) (year : t.year = s.year)
    (outbound : t.arch.outbound.map OutEntry.contents = s.arch.outbound.map OutEntry.contents)
    (flags : ∀ c : Cause, c ≠ .archive → flagSet t c = flagSet s c) : ClosesMade recs r t := by
  obtain ⟨u, cfg', rebuilt, secured, flag, line', avg', year', openYear, outbound', flags'⟩ := h
  refine ⟨u, cfg'.trans cfg.symm, rebuilt, secured, flag, line.trans line', avg.trans avg', ?_, ?_,
    outbound.trans outbound', fun c hc => (flags c hc).trans (flags' c hc)⟩
  · rw [year]
    exact year'
  · rw [year]
    exact openYear

theorem openYearAt_eq (recs : List Rec) (year : Nat) (s : State) : openYearAt recs year s
    = (s.setYear { s.year with openYear := some year }).setWit { s.wit with
        ownFloor := (findFloor recs s.arch.latest year).1, yearStart := (findFloor recs s.arch.latest year).2 } := rfl

/-- The state rebuilt for a resume point, before the pending closes. -/
def rebuiltFor (recs : List Rec) (r : Nat) (v : State) : State :=
  rebuildFrom recs r (v.setYear { v.year with resume := some r, compareDue := true })

theorem rebuiltFor_keeps (recs : List Rec) (r : Nat) (v : State) :
    let u := rebuiltFor recs r v
    u.cfg = v.cfg ∧ u.port = v.port ∧ u.arch = v.arch ∧ u.wit = v.wit ∧ u.retr = v.retr
    ∧ u.year.openYear = v.year.openYear ∧ u.year.resume = some r ∧ u.year.compareDue = true := by
  refine ⟨rfl, rfl, rfl, rfl, rfl, ?_⟩
  obtain ⟨-, -, -, -, -, -, keeps⟩ := tallyYear_spec v.cfg
    (if yearClosed recs (yearOf (r - 1800)) then [] else halfHoursOf recs (yearOf (r - 1800)))
    (if yearClosed recs (yearOf (r - 1800)) then [] else daysOf recs (yearOf (r - 1800)))
    { v.year with resume := some r, compareDue := true }
  exact keeps

theorem scanRecords_some {recs : List Rec} {r : Nat} (resume : resumePoint recs = some r) (v : State) :
    scanRecords recs v = openYearAt recs (yearOf r) (pendingCloses recs r (rebuiltFor recs r v)) := by
  simp only [scanRecords, resume, rebuiltFor]

/-- The rebuild finds the resume point, and the comparison with it is due (R94, R99). -/
theorem scanRecords_resume (recs : List Rec) (v : State) :
    (scanRecords recs v).year.resume = resumePoint recs ∧ (scanRecords recs v).year.compareDue = true := by
  cases resume : resumePoint recs with
  | none =>
    obtain rfl := (resumePoint_spec recs).1.1 resume
    exact ⟨rfl, rfl⟩
  | some r =>
    obtain ⟨-, -, -, -, -, -, resumed, due⟩ := rebuiltFor_keeps recs r v
    obtain ⟨sameResume, sameDue⟩ := pendingCloses_resume recs r (rebuiltFor recs r v)
    rw [scanRecords_some resume, openYearAt_eq]
    exact ⟨sameResume.trans resumed, sameDue.trans due⟩

theorem RowsFormed.withResume {v : State} (formed : RowsFormed v) (resume : Option Nat) (due : Bool) :
    RowsFormed (v.setYear { v.year with resume := resume, compareDue := due }) where
  year := by rw [State.setYear_year, formed.year]; rfl
  avg := formed.avg
  outbound := formed.outbound

/-- On formed rows the rebuild only adds records that wait to the archive. -/
theorem scanRecords_appended {v : State} (formed : RowsFormed v) (ready : v.arch.state = .ready) (recs : List Rec) :
    Appended v (scanRecords recs v) := by
  have waiting : AllWaiting v := fun e he => by rw [formed.outbound] at he; cases he
  cases resume : resumePoint recs with
  | none =>
    obtain rfl := (resumePoint_spec recs).1.1 resume
    exact (Appended.refl waiting).congr rfl rfl rfl rfl
  | some r =>
    rw [scanRecords_some resume, openYearAt_eq]
    obtain ⟨-, port, arch, -, -, unopened, -⟩ := rebuiltFor_keeps recs r v
    rw [formed.year] at unopened
    have closes := pendingCloses_waiting (s := rebuiltFor recs r v) (by rw [AllWaiting, arch]; exact waiting)
      (by rw [arch]; exact ready) unopened recs r
    exact closes.congr port.symm arch.symm rfl rfl

/-- Without an own record the formed rows are what is rebuilt (R95 to R97). -/
theorem scanRecords_rebuilt_nil {v : State} (formed : RowsFormed v) (line : v.line = {}) (cap : 2 ≤ v.cfg.yearCap) :
    RebuiltAt [] 0 (scanRecords [] v) := by
  have rows := formed.withResume none true
  exact rebuiltAt_nil ⟨rows.year, rows.avg, rows.outbound⟩ line cap

/-- With own records the rebuild finds the floor, and the pending closes are made on what it rebuilds (R95 to R98, R140). -/
theorem scanRecords_made {v : State} (formed : RowsFormed v) (secured : v.wit.secured = 0) (flags : v.retr.flags = 0)
    {recs : List Rec} {r : Nat} (resume : resumePoint recs = some r) :
    OwnFloorFound recs (yearOf r) (scanRecords recs v) ∧ ClosesMade recs r (scanRecords recs v) := by
  obtain ⟨cfg, -, -, wit, retr, -, resumed, due⟩ := rebuiltFor_keeps recs r v
  obtain ⟨sameResume, sameDue⟩ := pendingCloses_resume recs r (rebuiltFor recs r v)
  rw [scanRecords_some resume]
  refine ⟨openYearAt_floor .., ?_⟩
  rw [openYearAt_eq]
  refine ⟨rebuiltFor recs r v, cfg.trans (pendingCloses_frame recs r (rebuiltFor recs r v)).2.1.symm, ?_⟩
  refine ⟨rebuildFrom_rebuilt (formed.withResume ..) recs r, by rw [wit, secured],
    by rw [retr, flags], rfl, rfl, ?_, rfl, rfl, fun _ _ => rfl⟩
  rw [← sameResume.trans resumed, ← sameDue.trans due]
  rfl

/-! ## The flash (R154, R157, R165) -/

/-- The state in which SCAN reads the flash: the image in use, and the rows of the recording units formed. -/
def scanBegun (s : State) : State :=
  let v := coldRam (settingsOf (storedImage s)) s
  formRows (v.setSupply { v.supply with station := some .scan })

/-- The state once the flash is read. -/
def flashRead (s : State) : State := scanFlash (scanBegun s)

theorem flashRead_formed (s : State) : RowsFormed (flashRead s) := ⟨rfl, rfl, rfl⟩

theorem flashRead_arch (s : State) : (flashRead s).arch = {
    flash := s.arch.flash, own := scanRing (scanBegun s) .own, parts := (flashRead s).arch.parts
    lastAssigned := scanLastAssigned (scanBegun s), latest := scanLatest (scanBegun s) } := rfl

theorem flashRead_wit (s : State) :
    (flashRead s).wit = { origins := (scanBegun s).wit.origins.map (restoreOrigin (scanBegun s)) } := rfl

theorem scanBegun_origins (s : State) : (scanBegun s).wit.origins.map (fun o => (o.place, o.station))
    = witnessed (settingsOf (storedImage s)) := by
  change ((witnessed _).map _).map _ = _
  rw [List.map_map]
  exact List.map_id _

theorem flashRead_origins (s : State) : (flashRead s).wit.origins.map (fun o => (o.place, o.station))
    = (scanBegun s).wit.origins.map (fun o => (o.place, o.station)) := by
  rw [flashRead_wit, List.map_map]
  refine List.map_congr_left fun w _ => ?_
  obtain ⟨⟨place, station, -⟩, -⟩ := restoreOrigin_spec (scanBegun s) w
  rw [Function.comp_apply, place, station]

/-- The ring of a partition that an origin uses is as SCAN finds it (R134). -/
theorem flashRead_part {s : State} {w : Origin} (hw : w ∈ (scanBegun s).wit.origins) :
    ringOf (flashRead s) (.part w.place) = scanRing (scanBegun s) (.part w.place) := by
  have used : (originAt (scanBegun s) w.place).isSome = true := List.find?_isSome.2 ⟨w, hw, by simp⟩
  have place : w.place < 3 := by
    have pair : (w.place, w.station) ∈ witnessed (settingsOf (storedImage s)) := by
      rw [← scanBegun_origins]
      exact List.mem_map_of_mem (f := fun o : Origin => (o.place, o.station)) hw
    obtain ⟨x, hx, same⟩ := List.mem_map.1 (List.mem_filter.1 pair).1
    have bound := List.snd_lt_of_mem_zipIdx hx
    have length : (settingsOf (storedImage s)).witnessSet.length = 3 := by simp [settingsOf]
    have place : x.2 = w.place := congrArg Prod.fst same
    omega
  change ((List.range 3).map (fun i => if (originAt (scanBegun s) i).isSome then scanRing (scanBegun s) (.part i) else {})).getD
    w.place {} = _
  rw [List.getD_eq_getElem?_getD, List.getElem?_map, List.getElem?_range place]
  simp [used]

end Sys2Proof.Machine
end

section
/-! A cold start into recording as a whole (R94 to R98, R116, R121, R135, R140, R147, R149, R154, R157, R162, R165, R179, R180):
what each stage from SCAN to the first flash-idle event leaves of each block. -/

namespace Sys2Proof.Machine

/-! ## The stages -/

/-- The state once the own records are worked through. -/
def recordsScanned (s : State) : State := scanRecords (ownRecords (flashRead s)) (flashRead s)

/-- The state at the end of SCAN, before the station state is left. -/
def scanEnded (s : State) : State :=
  (retentionTest (recordsScanned s)).setWit { (retentionTest (recordsScanned s)).wit with
    lagHoldoff := some (retentionTest (recordsScanned s)).elapsed }

/-- The state before the first flash-idle event. -/
def scanLeft (s : State) : State := endScan (scanEnded s)

/-- A cold start with a valid image and without SVC goes through these stages (R179, R180). -/
theorem coldStart_recording {s : State} (valid : imageValid (storedImage s) = true) :
    coldStart false s = flashIdle (scanLeft s) := by
  simp only [coldStart, valid, if_true, loadedSettings, Bool.false_eq_true, if_false]
  rfl

/-! ## The end of SCAN -/

/-- The own records decide of the witness unit the own floor and the year start sequence (R140). -/
theorem scanRecords_wit (recs : List Rec) (v : State) : (scanRecords recs v).wit = { v.wit with
    ownFloor := (scanRecords recs v).wit.ownFloor, yearStart := (scanRecords recs v).wit.yearStart } := by
  obtain ⟨-, -, -, -, -, -, -, -, -, -, -, -, -, -, -, -, -, -, -, -, origins, jobs, work, marks, secured, holdoff⟩ :=
    scanRecords_fields recs v
  generalize (scanRecords recs v).wit = t at *
  cases t
  simp only at origins jobs work marks secured holdoff
  subst origins jobs work marks secured holdoff
  rfl

/-- The own records decide of the retrieval unit the flags alone. -/
theorem scanRecords_retr (recs : List Rec) (v : State) :
    ∃ flags, (scanRecords recs v).retr = { v.retr with flags := flags } := by
  obtain ⟨-, -, -, -, -, -, -, -, -, -, -, -, -, -, -, -, -, -, jobs, answers, -⟩ := scanRecords_fields recs v
  generalize (scanRecords recs v).retr = t at *
  cases t
  simp only at jobs answers
  subst jobs answers
  exact ⟨_, rfl⟩

theorem retentionTest_retr (s : State) :
    ∃ flags, (retentionTest s).retr = { s.retr with flags := flags } := by
  rw [retentionTest]
  split <;> exact ⟨_, rfl⟩

/-- The retention test raises no cause but ARCHIVE (R162). -/
theorem flagSet_retentionTest (s : State) {c : Cause} (h : c ≠ .archive) : flagSet (retentionTest s) c = flagSet s c := by
  rw [retentionTest]
  split
  · rw [flagSet_raiseCause, decide_eq_false h.symm, Bool.or_false]
    rfl
  · rfl
  · rfl

/-- RING_FULL found by the retention test in READY raises ARCHIVE (R162). -/
theorem flagSet_archive_of_ringFull {s : State} (ready : s.arch.state = .ready)
    (full : (retentionTest s).arch.state = .ringFull) : flagSet (retentionTest s) .archive = true := by
  have forbidden : ownEraseForbidden s = true := by
    by_contra allowed
    rw [retentionTest_state, ready] at full
    simp [allowed] at full
  simp [retentionTest, ready, forbidden, flagSet_raiseCause]

theorem recordsScanned_appended (s : State) : Appended (flashRead s) (recordsScanned s) :=
  scanRecords_appended (flashRead_formed s) rfl _

/-- What the records decide of the archive is its outbound queue, and the retention its state. -/
theorem scanEnded_arch (s : State) : (scanEnded s).arch
    = { (flashRead s).arch with outbound := (recordsScanned s).arch.outbound, state := (scanEnded s).arch.state } := by
  have tested := retentionTest_arch (recordsScanned s)
  have same : (scanEnded s).arch = { (recordsScanned s).arch with state := (scanEnded s).arch.state } := by
    rw [tested]
    rfl
  rw [same, (recordsScanned_appended s).arch]

/-- At the end of SCAN nothing is staged, secured or marked, and the hold-off of the lag test begins (R149). -/
theorem scanEnded_wit (s : State) : (scanEnded s).wit = {
    origins := (flashRead s).wit.origins, ownFloor := (recordsScanned s).wit.ownFloor
    yearStart := (recordsScanned s).wit.yearStart, lagHoldoff := some s.elapsed } := by
  have wit := scanRecords_wit (ownRecords (flashRead s)) (flashRead s)
  have recorded := scanRecords_frame (ownRecords (flashRead s)) (flashRead s)
  rw [← recordsScanned, show (flashRead s).elapsed = s.elapsed from rfl] at recorded
  rw [← recordsScanned, flashRead_wit] at wit
  rw [scanEnded, flashRead_wit]
  generalize recordsScanned s = w at *
  rw [State.setWit_wit]
  simp only [retentionTest_frame, recorded]
  rw [wit]

theorem scanEnded_retr (s : State) : (scanEnded s).retr = { flags := (scanEnded s).retr.flags } := by
  obtain ⟨flags, recorded⟩ := scanRecords_retr (ownRecords (flashRead s)) (flashRead s)
  obtain ⟨_, tested⟩ := retentionTest_retr (recordsScanned s)
  rw [show (scanEnded s).retr = _ from tested, show (recordsScanned s).retr = _ from recorded]
  rfl

theorem flashRead_frame (s : State) :
    (flashRead s).cfg = settingsOf (storedImage s) ∧ (flashRead s).port = {}
    ∧ (flashRead s).accs = List.replicate 16 {} ∧ (flashRead s).minutes = {}
    ∧ (flashRead s).tb = coldTimebase s.supply.clockValid s.tb.plant ∧ (flashRead s).elapsed = s.elapsed :=
  ⟨rfl, rfl, rfl, rfl, rfl, rfl⟩

/-- The blocks that neither the records nor the retention test touch. -/
theorem scanEnded_frame (s : State) :
    (scanEnded s).supply = (flashRead s).supply ∧ (scanEnded s).cfg = settingsOf (storedImage s)
    ∧ (scanEnded s).port = {} ∧ (scanEnded s).accs = List.replicate 16 {} ∧ (scanEnded s).minutes = {}
    ∧ (scanEnded s).line = (recordsScanned s).line ∧ (scanEnded s).avg = (recordsScanned s).avg
    ∧ (scanEnded s).year = (recordsScanned s).year
    ∧ (scanEnded s).tb = coldTimebase s.supply.clockValid s.tb.plant ∧ (scanEnded s).elapsed = s.elapsed := by
  obtain ⟨cfg, readPort, accs, minutes, tb, elapsed⟩ := flashRead_frame s
  have port := (recordsScanned_appended s).port.trans readPort
  have recorded := scanRecords_frame (ownRecords (flashRead s)) (flashRead s)
  rw [← recordsScanned, cfg, accs, minutes, tb, elapsed] at recorded
  rw [scanEnded]
  generalize recordsScanned s = w at *
  simp [recorded, port]

/-- Nothing is known of the witnessed origins (R135). -/
theorem scanEnded_quiet (s : State) : NothingKnown (scanEnded s) := by
  intro o ho
  rw [scanEnded_wit, flashRead_wit] at ho
  obtain ⟨w, -, rfl⟩ := List.mem_map.1 ho
  obtain ⟨⟨-, -, -, known, -⟩, -⟩ := restoreOrigin_spec (scanBegun s) w
  exact known

/-! ## After the end of SCAN -/

theorem scanLeft_cold (s : State) :
    let u := scanLeft s
    let x := scanEnded s
    u = ((x.setSupply u.supply).setPort u.port).setTb u.tb
    ∧ u.supply = { x.supply with station := u.supply.station, output := u.supply.output }
    ∧ (u.supply.station = some .timeUnset ∨ CatchingUpOrRecording u)
    ∧ (u.supply.station ≠ some .recording → u.supply.output = false)
    ∧ u.port = { x.port with state := .active, errorRun := 0, activeSince := x.elapsed }
    ∧ u.tb = { x.tb with
        closed := u.tb.closed, sampled := u.tb.sampled, gaps := u.tb.gaps, state := u.tb.state, catchUp := u.tb.catchUp }
    ∧ (x.supply.clockValid = false → u.supply.station = some .timeUnset ∧ u.tb = x.tb)
    ∧ (x.supply.clockValid = true → CatchingUpOrRecording u
        ∧ ∀ p, x.tb.plant = some p → EntersCatchUp x.year.resume p u) := by
  obtain ⟨supply, -, port, -⟩ := scanEnded_frame s
  exact endScan_cold (by rw [port]) (scanEnded_quiet s) (by rw [supply]; rfl)

/-- The archive before the first flash-idle event. -/
theorem scanLeft_arch (s : State) : (scanLeft s).arch
    = { (flashRead s).arch with outbound := (recordsScanned s).arch.outbound, state := (scanEnded s).arch.state } := by
  rw [(scanLeft_cold s).1]
  exact scanEnded_arch s

theorem scanLeft_unread (s : State) : (scanLeft s).arch.requests = [] := by rw [scanLeft_arch]; rfl

/-- The state that the cold start leaves is the one at the end of SCAN with the station state, the port and the timebase
gone on, and with the first flash-idle event. -/
theorem recordingStarted_frame (s : State) : flashIdle (scanLeft s)
    = ((((scanEnded s).setSupply (scanLeft s).supply).setPort (scanLeft s).port).setTb (scanLeft s).tb).setArch
        (flashIdle (scanLeft s)).arch := by
  refine (flashIdle_unread (scanLeft_unread s)).1.trans ?_
  generalize (flashIdle (scanLeft s)).arch = arch
  exact congrArg (fun u : State => u.setArch arch) (scanLeft_cold s).1

/-- The blocks of the state that the cold start leaves. -/
theorem recordingStarted_blocks (s : State) :
    let t := flashIdle (scanLeft s)
    t.supply = { s.supply with
      station := t.supply.station, heldFrom := none, resetInHold := false, ramIntact := false
      output := t.supply.output, staging := [], commit := .idle }
    ∧ t.cfg = settingsOf (storedImage s)
    ∧ t.port = { state := .active, activeSince := s.elapsed }
    ∧ t.accs = List.replicate 16 {} ∧ t.minutes = {}
    ∧ t.line = (recordsScanned s).line ∧ t.avg = (recordsScanned s).avg ∧ t.year = (recordsScanned s).year
    ∧ t.wit = {
        origins := (flashRead s).wit.origins, ownFloor := (recordsScanned s).wit.ownFloor
        yearStart := (recordsScanned s).wit.yearStart, lagHoldoff := some s.elapsed }
    ∧ t.retr = { flags := (scanEnded s).retr.flags } := by
  obtain ⟨supply, cfg, port, accs, minutes, line, avg, year, -, elapsed⟩ := scanEnded_frame s
  obtain ⟨-, leftSupply, -, -, leftPort, -⟩ := scanLeft_cold s
  have frame := recordingStarted_frame s
  have wit := scanEnded_wit s
  have retr := scanEnded_retr s
  have read : (flashRead s).supply = { s.supply with
    station := some .scan, heldFrom := none, resetInHold := false, ramIntact := false, output := false, staging := []
    commit := .idle } := rfl
  rw [supply, read] at leftSupply
  rw [port, elapsed] at leftPort
  generalize flashIdle (scanLeft s) = t at frame ⊢
  generalize scanLeft s = u at *
  generalize scanEnded s = x at *
  have goneOn : t.supply = u.supply := by rw [frame]; rfl
  refine ⟨?_, ?_⟩
  · rw [goneOn]
    exact leftSupply
  · rw [frame]
    exact ⟨cfg, leftPort, accs, minutes, line, avg, year, wit, retr⟩

/-- The archive of the state that the cold start leaves. -/
theorem recordingStarted_arch (s : State) :
    let t := flashIdle (scanLeft s)
    t.arch.flash = s.arch.flash ∧ t.arch.own = scanRing (scanBegun s) .own ∧ t.arch.parts = (flashRead s).arch.parts
    ∧ t.arch.requests = [] ∧ t.arch.latest = scanLatest (scanBegun s) ∧ t.arch.failureRun = 0
    ∧ t.arch.state = (scanEnded s).arch.state
    ∧ t.arch.outbound.map OutEntry.contents = (recordsScanned s).arch.outbound.map OutEntry.contents := by
  obtain ⟨flash, own, parts, latest, failureRun, state, -⟩ := flashIdle_fields (scanLeft s)
  have contents := flashIdle_contents (scanLeft s)
  have requests := (flashIdle_unread (scanLeft_unread s)).2
  rw [scanLeft_arch, flashRead_arch] at flash own parts latest failureRun state contents
  exact ⟨flash, own, parts, requests, latest, failureRun, state, contents⟩

/-- What CATCH_UP was entered with is told from the supply unit and the timebase. -/
theorem EntersCatchUp.congr {resume : Option Nat} {p : Nat} {s t : State} (h : EntersCatchUp resume p s)
    (supply : t.supply = s.supply) (tb : t.tb = s.tb) : EntersCatchUp resume p t := by
  simpa only [EntersCatchUp, CaughtUp, supply, tb] using h

/-- Where the cold start goes on, with plant time and T_c (R116, R180). -/
theorem recordingStarted_goes_on (s : State) :
    let t := flashIdle (scanLeft s)
    t.tb = {
      plant := t.tb.plant, state := t.tb.state, closed := t.tb.closed, sampled := t.tb.sampled
      gaps := t.tb.gaps, catchUp := t.tb.catchUp }
    ∧ (s.supply.clockValid = false → t.supply.station = some .timeUnset ∧ t.tb = {})
    ∧ (s.supply.clockValid = true → CatchingUpOrRecording t ∧ t.tb.plant = s.tb.plant
        ∧ ∀ p, s.tb.plant = some p → EntersCatchUp t.year.resume p t)
    ∧ (t.supply.station ≠ some .recording → t.supply.output = false) := by
  obtain ⟨readSupply, -, -, -, -, -, -, year, tb, -⟩ := scanEnded_frame s
  have valid : (scanEnded s).supply.clockValid = s.supply.clockValid := by rw [readSupply]; rfl
  obtain ⟨-, -, -, silent, -, changed, unset, entered⟩ := scanLeft_cold s
  have frame := recordingStarted_frame s
  rw [valid, tb] at unset entered
  rw [tb] at changed
  generalize flashIdle (scanLeft s) = t at frame ⊢
  generalize scanLeft s = u at *
  generalize scanEnded s = x at *
  have supply : t.supply = u.supply := by rw [frame]; rfl
  have sameTb : t.tb = u.tb := by rw [frame]; rfl
  have sameYear : t.year = x.year := by rw [frame]; rfl
  simp only [CatchingUpOrRecording, supply, sameTb, sameYear]
  cases known : s.supply.clockValid with
  | false =>
    obtain ⟨station, none⟩ := unset known
    rw [known] at none
    exact ⟨by rw [none]; rfl, fun _ => ⟨station, none⟩, fun h => (by cases h), silent⟩
  | true =>
    obtain ⟨station, enters⟩ := entered known
    rw [known] at changed enters
    refine ⟨by rw [changed]; rfl, fun h => (by cases h), fun _ => ⟨station, by rw [changed]; rfl, fun p hp => ?_⟩, silent⟩
    exact (enters p hp).congr supply sameTb

/-! ## What SCAN found, of the state that goes on -/

/-- The state that goes on has the witnessed origins of its configuration (R134). -/
theorem recordingStarted_origins (s : State) :
    (flashIdle (scanLeft s)).wit.origins.map (fun o => (o.place, o.station)) = witnessed (settingsOf (storedImage s)) := by
  obtain ⟨-, -, -, -, -, -, -, -, wit, -⟩ := recordingStarted_blocks s
  rw [wit]
  exact (flashRead_origins s).trans (scanBegun_origins s)

theorem recordingStarted_pages (s : State) : readPage (flashIdle (scanLeft s)) = readPage (scanBegun s) :=
  readPage_congr (recordingStarted_arch s).1 ((recordingStarted_origins s).trans (scanBegun_origins s).symm)

/-- The own records are those that SCAN read (R165). -/
theorem recordingStarted_records (s : State) : ownRecords (flashIdle (scanLeft s)) = ownRecords (flashRead s)
    ∧ ownRecords (flashIdle (scanLeft s)) = ownRecords (scanBegun s) := by
  have begun := ownRecords_congr (s := scanBegun s) (recordingStarted_arch s).1 (recordingStarted_pages s)
  refine ⟨begun.trans (ownRecords_congr ?_ (readPage_congr ?_ (flashRead_origins s))).symm, begun⟩ <;> rw [flashRead_arch] <;> rfl

/-- The first flash-idle event finds the archive idle, no read waiting, the last assigned number of the flash, and records
that wait to be archived (R153, R157). -/
theorem recordingStarted_idle (s : State) :
    let u := scanLeft s
    u.arch.op = .idle ∧ u.arch.requests = [] ∧ u.arch.roundRobin = 2 ∧ u.arch.abandoned = none
    ∧ LastAssignedFound (flashIdle u) u.arch.lastAssigned
    ∧ ∀ e ∈ u.arch.outbound, e.state = .waitingArchive ∧ e.seq = none := by
  have found := scanLastAssigned_found (s := scanBegun s) (recordingStarted_arch s).1 (recordingStarted_pages s)
  have waiting := (recordsScanned_appended s).waiting
  have arch := scanLeft_arch s
  rw [flashRead_arch] at arch
  refine ⟨by rw [arch], by rw [arch], by rw [arch], by rw [arch], ?_, ?_⟩
  · rw [arch]
    exact found
  · rw [arch]
    exact waiting

/-- The own area is as SCAN finds it (R154, R165). -/
theorem recordingStarted_own (s : State) : AreaScanned .own (flashIdle (scanLeft s)) :=
  areaScanned_of_ring (recordingStarted_arch s).2.1 (recordingStarted_pages s)

/-- Each witnessed origin is restored from its partition as SCAN finds it (R135, R154, R165). -/
theorem recordingStarted_parts (s : State) {o : Origin} (ho : o ∈ (flashIdle (scanLeft s)).wit.origins) :
    (∃ w, w.place = o.place ∧ o = restoreOrigin (scanBegun s) w) ∧ AreaScanned (.part o.place) (flashIdle (scanLeft s)) := by
  obtain ⟨-, -, -, -, -, -, -, -, wit, -⟩ := recordingStarted_blocks s
  obtain ⟨-, -, parts, -⟩ := recordingStarted_arch s
  rw [wit, flashRead_wit] at ho
  obtain ⟨w, hw, rfl⟩ := List.mem_map.1 ho
  obtain ⟨⟨place, -⟩, -⟩ := restoreOrigin_spec (scanBegun s) w
  refine ⟨⟨w, place.symm, rfl⟩, ?_⟩
  rw [place]
  refine areaScanned_of_ring ?_ (recordingStarted_pages s)
  rw [← flashRead_part hw, ringOf, ringOf, parts]

/-- An origin restored has its held mark and its unbroken run, and nothing staged or known (R135). -/
theorem recordingStarted_origin (s : State) {o : Origin} (ho : o ∈ (flashIdle (scanLeft s)).wit.origins) :
    let t := flashIdle (scanLeft s)
    (o.staged = [] ∧ o.known = 0 ∧ o.floor = 0 ∧ o.gap = none)
    ∧ AreaScanned (.part o.place) t
    ∧ ((∀ p x, p < 49152 → readPage t (.part o.place) p ≠ .record x) → o.held = 0 ∧ o.oldest = none)
    ∧ (∀ p x, p < 49152 → readPage t (.part o.place) p = .record x → x.seq ≤ o.held ∧ o.oldest.isSome = true)
    ∧ (o.held = 0 ∨ ∃ p x, p < 49152 ∧ readPage t (.part o.place) p = .record x ∧ x.seq = o.held)
    ∧ ∀ b, o.oldest = some b →
      (∀ n, b ≤ n → n ≤ o.held → ∃ p x, p < 49152 ∧ readPage t (.part o.place) p = .record x ∧ x.seq = n)
      ∧ ∀ p x, p < 49152 → readPage t (.part o.place) p = .record x → x.seq + 1 ≠ b := by
  obtain ⟨⟨w, place, restored⟩, scanned⟩ := recordingStarted_parts s ho
  obtain ⟨⟨-, -, fresh⟩, held⟩ := restoreOrigin_spec (scanBegun s) w
  rw [← restored] at fresh held
  rw [place, ← recordingStarted_pages s] at held
  exact ⟨fresh, scanned, held⟩

/-- The retention is tested with the year found open (R162). -/
theorem recordingStarted_retention (s : State) :
    let t := flashIdle (scanLeft s)
    (t.arch.state = .ringFull ↔ OwnEraseBarred t) ∧ (t.arch.state ≠ .ringFull → t.arch.state = .ready)
    ∧ (t.arch.state = .ringFull → flagSet t .archive = true)
    ∧ ∀ c, c ≠ .archive → flagSet t c = flagSet (recordsScanned s) c := by
  obtain ⟨-, cfg, -, -, -, -, -, year, -, retr⟩ := recordingStarted_blocks s
  obtain ⟨-, own, -, -, -, -, state, -⟩ := recordingStarted_arch s
  have recorded := (recordsScanned_appended s).arch
  have ready : (recordsScanned s).arch.state = .ready := by rw [recorded, flashRead_arch]
  have sameOwn : (recordsScanned s).arch.own = scanRing (scanBegun s) .own := by rw [recorded, flashRead_arch]
  have sameCfg : (recordsScanned s).cfg = settingsOf (storedImage s) :=
    (scanRecords_frame (ownRecords (flashRead s)) (flashRead s)).2.1.trans (flashRead_frame s).1
  intro t
  have barred : OwnEraseBarred t ↔ OwnEraseBarred (recordsScanned s) := by
    simp only [OwnEraseBarred, Retained, t, own, cfg, year, sameOwn, sameCfg]
  have tested : t.arch.state = (retentionTest (recordsScanned s)).arch.state := state
  have flags : ∀ c, flagSet t c = flagSet (retentionTest (recordsScanned s)) c := fun c => by
    rw [flagSet, retr]
    rfl
  rw [barred, ← ownEraseForbidden_iff]
  refine ⟨?_, ?_, fun full => ?_, fun c hc => (flags c).trans (flagSet_retentionTest _ hc)⟩
  · rw [tested, retentionTest_state, ready]
    cases ownEraseForbidden (recordsScanned s) <;> simp
  · rw [tested, retentionTest_state, ready]
    cases ownEraseForbidden (recordsScanned s) <;> simp
  · rw [flags]
    exact flagSet_archive_of_ringFull ready (tested.symm.trans full)

/-! ## What was rebuilt, of the state that goes on -/

/-- What is rebuilt is told from the configuration, the tallies, the account, the averages and the empty outbound queue. -/
theorem RebuiltAt.congr {recs : List Rec} {r : Nat} {s t : State} (h : RebuiltAt recs r s) (cfg : t.cfg = s.cfg)
    (year : t.year = s.year) (line : t.line = s.line) (avg : t.avg = s.avg) (outbound : t.arch.outbound = s.arch.outbound) :
    RebuiltAt recs r t := by
  simpa only [RebuiltAt, cfg, year, line, avg, outbound] using h

theorem OwnFloorFound.congr {recs : List Rec} {year : Nat} {s t : State} (h : OwnFloorFound recs year s)
    (floor : t.wit.ownFloor = s.wit.ownFloor) (start : t.wit.yearStart = s.wit.yearStart)
    (latest : t.arch.latest = s.arch.latest) : OwnFloorFound recs year t := by
  simpa only [OwnFloorFound, floor, start, latest] using h

/-- The year's cap of a valid image is in its range (R183). -/
theorem yearCap_of_valid {b : List Byte} (valid : imageValid b = true) : 600 ≤ (settingsOf b).yearCap := by
  obtain ⟨-, -, -, -, faultless⟩ := (imageValid_iff b).1 valid
  have ranged : ¬ SettingFails b 52 := fun fails => faultless 0 52 (imageFault_setting.2 fails)
  by_contra low
  exact ranged (.inl ⟨(52, 2, 600, 6000), by simp [settingBounds], rfl, .inl (Nat.lt_of_not_le low)⟩)

section
variable {s : State}

/-- Without an own record nothing is rebuilt (R94 to R97, R140). -/
theorem recordingStarted_unrecorded (valid : imageValid (storedImage s) = true) (none : ownRecords (flashRead s) = []) :
    let t := flashIdle (scanLeft s)
    RebuiltAt [] 0 t ∧ t.wit.ownFloor = t.arch.latest + 1 ∧ t.wit.yearStart = .none := by
  obtain ⟨-, cfg, -, -, -, line, avg, year, wit, -⟩ := recordingStarted_blocks s
  obtain ⟨-, -, -, -, latest, -, -, contents⟩ := recordingStarted_arch s
  have cap := yearCap_of_valid valid
  have rebuilt := scanRecords_rebuilt_nil (flashRead_formed s) rfl (by rw [(flashRead_frame s).1]; omega)
  have recorded : recordsScanned s = scanRecords [] (flashRead s) := by rw [recordsScanned, none]
  have empty : (scanRecords [] (flashRead s)).arch.outbound = [] := rfl
  rw [recorded] at line avg year wit contents
  rw [empty] at contents
  refine ⟨rebuilt.congr (cfg.trans (flashRead_frame s).1.symm) year line avg ((List.map_eq_nil_iff.1 contents).trans empty.symm), ?_⟩
  rw [wit, latest]
  exact ⟨rfl, rfl⟩

/-- With a resume point the floor is found and the pending closes are made (R94 to R98, R140). -/
theorem recordingStarted_resumed {r : Nat} (resume : resumePoint (ownRecords (flashRead s)) = some r) :
    let t := flashIdle (scanLeft s)
    OwnFloorFound (ownRecords (flashRead s)) (yearOf r) t ∧ ClosesMade (ownRecords (flashRead s)) r t := by
  obtain ⟨-, cfg, -, -, -, line, avg, year, wit, -⟩ := recordingStarted_blocks s
  obtain ⟨-, -, -, -, latest, -, -, contents⟩ := recordingStarted_arch s
  obtain ⟨-, -, -, flags⟩ := recordingStarted_retention s
  obtain ⟨floor, made⟩ := scanRecords_made (flashRead_formed s) rfl rfl resume
  have sameLatest : (recordsScanned s).arch.latest = scanLatest (scanBegun s) := by
    rw [(recordsScanned_appended s).arch, flashRead_arch]
  have sameCfg := (scanRecords_frame (ownRecords (flashRead s)) (flashRead s)).2.1.trans (flashRead_frame s).1
  rw [← recordsScanned] at floor made sameCfg
  exact ⟨floor.congr (by rw [wit]) (by rw [wit]) (latest.trans sameLatest.symm),
    made.transfer (cfg.trans sameCfg.symm) line avg year contents flags⟩

end

/-- What the readable own records give the state that goes on (R94 to R98, R140). -/
theorem recordingStarted_rebuilt {s : State} (valid : imageValid (storedImage s) = true) :
    let t := flashIdle (scanLeft s)
    let recs := ownRecords t
    (∀ x, x ∈ recs ↔ ∃ p, p < 114672 ∧ readPage t .own p = .record x)
    ∧ (∀ x ∈ recs, x.seq ≤ t.arch.latest) ∧ (t.arch.latest = 0 ∨ ∃ x ∈ recs, x.seq = t.arch.latest)
    ∧ t.year.compareDue = true
    ∧ (recs = [] → t.year.resume = none ∧ RebuiltAt [] 0 t ∧ t.wit.ownFloor = t.arch.latest + 1
        ∧ t.wit.yearStart = none)
    ∧ (∀ x ∈ recs, ∃ r, t.year.resume = some r ∧ periodEnd x ≤ r)
    ∧ ∀ r, t.year.resume = some r → (∃ x ∈ recs, periodEnd x = r) ∧ OwnFloorFound recs (yearOf r) t
      ∧ ClosesMade recs r t := by
  obtain ⟨-, -, -, -, -, -, -, year, -, -⟩ := recordingStarted_blocks s
  obtain ⟨-, -, -, -, latest, -⟩ := recordingStarted_arch s
  obtain ⟨records, begun⟩ := recordingStarted_records s
  obtain ⟨bounded, reached⟩ := scanLatest_spec (scanBegun s)
  have unrecorded := recordingStarted_unrecorded valid
  have resumed := fun r => recordingStarted_resumed (s := s) (r := r)
  obtain ⟨resume, compareDue⟩ := scanRecords_resume (ownRecords (flashRead s)) (flashRead s)
  rw [← recordsScanned, ← year] at resume compareDue
  rw [← latest, ← begun] at bounded reached
  rw [← records] at resume unrecorded resumed
  obtain ⟨noRecord, last, ends⟩ := resumePoint_spec (ownRecords (flashIdle (scanLeft s)))
  rw [← resume] at noRecord last ends resumed
  exact ⟨fun x => mem_ownRecords, bounded, reached, compareDue,
    fun empty => ⟨noRecord.2 empty, unrecorded empty⟩, last, fun r hr => ⟨ends r hr, resumed r hr⟩⟩

/-! ## The obligation -/

/-- Settles O59: the stages of the cold start, block by block, and the records that a closed year lacks. -/
theorem coldStartScansAndGoesOn : Obligations.ColdStartScansAndGoesOn := by
  refine ⟨fun s due valid => ⟨flashIdle (scanLeft s), ?_⟩, fun recs year s room => missingYearSlots_spec recs year room⟩
  have started : exec (.coldStart false) s = .next (flashIdle (scanLeft s)) := by
    rw [exec_coldStart_due due, coldStart_recording valid]
  obtain ⟨supply, cfg, port, accs, minutes, -, -, -, wit, retr⟩ := recordingStarted_blocks s
  obtain ⟨flash, -, -, requests, -, failureRun, -, -⟩ := recordingStarted_arch s
  obtain ⟨tb, unset, entered, silent⟩ := recordingStarted_goes_on s
  obtain ⟨barred, ready, archive, -⟩ := recordingStarted_retention s
  obtain ⟨pages, bounded, reached, compareDue, unrecorded, last, resumed⟩ := recordingStarted_rebuilt valid
  have idle := recordingStarted_idle s
  have origins := recordingStarted_origins s
  have own := recordingStarted_own s
  have origin := fun o => recordingStarted_origin s (o := o)
  rw [← cfg] at origins
  generalize scanLeft s = u at *
  refine ⟨started, cfg, flash, requests, failureRun, ?_, ?_, fun o ho => (origin o ho).1, ?_, accs, minutes, tb, supply, unset,
    entered, fun other => ?_, ⟨u, rfl, idle⟩, barred, ready, archive, own, origins, fun o ho => (origin o ho).2,
    pages, bounded, reached, compareDue, unrecorded, last, fun r hr => ?_⟩
  · rw [port]
  · rw [wit]
  · rw [retr]
  · simp only [fstopLine, attnLine, silent other, Bool.false_and, and_self]
  · obtain ⟨ended, floor, v, sameCfg, rebuilt, secured, flags, made⟩ := resumed r hr
    rw [pendingCloses_eq] at made
    exact ⟨ended, floor, v, sameCfg, rebuilt, secured, flags, made⟩

end Sys2Proof.Machine
end

section
/-! The capacities of O42 by block, and the transmit queues within theirs (R122). -/

namespace Sys2Proof.Machine

/-! ## The capacities by block -/

/-- The RECORD, GAP and ANSWER queues hold at most 4, 2 and 4 telegrams (R122). -/
@[simp] def QueuesFit (p : Port) : Prop := p.recordQ.length ≤ 4 ∧ p.gapQ.length ≤ 2 ∧ p.answerQ.length ≤ 4

/-- At most 4 backfill jobs stand, each with a sequence left, and at most 7 marks (R142, R143, R147). -/
@[simp] def WitnessFits (w : Witness) : Prop :=
  w.jobs.length ≤ 4 ∧ w.marks.length ≤ 7 ∧ ∀ j ∈ w.jobs, j.next ≤ j.last

/-- The gap list holds at most two entries, of which the second is of kind HOLD, and none outside a catch-up (R105). -/
@[simp] def GapListFits (t : Timebase) : Prop :=
  t.gaps.length ≤ 2 ∧ (t.catchUp = false → t.gaps = [])
  ∧ (t.gaps.length = 2 → t.gaps.getLast?.map (·.kind) = some .hold)

/-- The peer offset table holds at most one entry for each station 1 to 31 (R109). -/
def PeersFit (l : List OffsetEntry) : Prop :=
  (l.map (·.station)).Nodup ∧ ∀ e ∈ l, 1 ≤ e.station ∧ e.station ≤ 31

/-- The terminals that have a retrieval job. -/
@[simp] def jobTerminals (s : State) : List Nat := s.retr.jobs.map (·.terminal)

/-- At most 2 terminals have a job, each one, and the read request of a job stands only while it does (R167, R170). -/
@[simp] def ReadsFit (s : State) : Prop :=
  (jobTerminals s).length ≤ 2 ∧ (jobTerminals s).Nodup
  ∧ ∀ q ∈ s.arch.requests, ∀ n, q.who = .job n → n ∈ jobTerminals s

/-- At most 4 answers wait, a commit in flight holding one for its result (R166, R183). -/
def AnswersFit (l : List PendingAnswer) (c : Commit) : Prop := l.length + (if c = .idle then 0 else 1) ≤ 4

/-- The capacities of all blocks. -/
structure Fits (s : State) : Prop where
  queues : QueuesFit s.port
  witness : WitnessFits s.wit
  gapList : GapListFits s.tb
  peers : PeersFit s.tb.peers
  reads : ReadsFit s
  answers : AnswersFit s.retr.answers s.supply.commit
  outbound : s.arch.outbound.length ≤ 16

theorem PeersFit.length {l : List OffsetEntry} (h : PeersFit l) : l.length ≤ 31 := by
  have among : l.map (·.station) ⊆ List.range' 1 31 := fun n hn => by
    obtain ⟨e, he, rfl⟩ := List.mem_map.1 hn
    have := h.2 e he
    exact List.mem_range'_1.2 (by omega)
  simpa using (List.subperm_of_subset h.1 among).length_le

theorem withinCapacities_iff (s : State) : WithinCapacities s ↔ Fits s := by
  constructor
  · intro w
    exact {
      queues := ⟨w.recordQueue, w.gapQueue, w.answerQueue⟩
      witness := ⟨w.backfillJobs, w.markTable, w.backfillRanges⟩
      gapList := ⟨w.gapList, w.gapListEmpty, w.gapListFull⟩
      peers := ⟨w.peerStations, w.peerNumbers⟩
      reads := ⟨by simpa [jobTerminals] using w.retrievalJobs, w.jobTerminals,
        fun q hq n hn => List.mem_map.2 (w.requesters q hq n hn)⟩
      answers := w.pendingAnswers
      outbound := w.outboundQueue }
  · rintro ⟨⟨recordQ, gapQ, answerQ⟩, ⟨jobs, marks, ranges⟩, ⟨gaps, empty, full⟩, peers, ⟨few, once, asked⟩, answers,
      outbound⟩
    exact {
      recordQueue := recordQ, gapQueue := gapQ, answerQueue := answerQ, backfillJobs := jobs, markTable := marks
      retrievalJobs := by simpa [jobTerminals] using few
      pendingAnswers := answers, outboundQueue := outbound, gapList := gaps, gapListEmpty := empty, gapListFull := full
      backfillRanges := ranges, jobTerminals := once
      requesters := fun q hq n hn => List.mem_map.1 (asked q hq n hn)
      peerTable := peers.length, peerStations := peers.1, peerNumbers := peers.2 }

/-- A state fits when each block does. -/
theorem Fits.next {s t : State} (h : Fits s) (queues : QueuesFit s.port → QueuesFit t.port)
    (witness : WitnessFits s.wit → WitnessFits t.wit) (gapList : GapListFits s.tb → GapListFits t.tb)
    (peers : PeersFit s.tb.peers → PeersFit t.tb.peers) (reads : ReadsFit s → ReadsFit t)
    (answers : AnswersFit s.retr.answers s.supply.commit → AnswersFit t.retr.answers t.supply.commit)
    (outbound : s.arch.outbound.length ≤ 16 → t.arch.outbound.length ≤ 16) : Fits t where
  queues := queues h.queues
  witness := witness h.witness
  gapList := gapList h.gapList
  peers := peers h.peers
  reads := reads h.reads
  answers := answers h.answers
  outbound := outbound h.outbound

theorem Fits.countUp {s : State} (h : Fits s) (k : Counter) (n : Nat) : Fits (countUp k n s) := by apply h.next <;> simp
theorem Fits.raiseCause {s : State} (h : Fits s) (c : Cause) : Fits (raiseCause c s) := by apply h.next <;> simp
theorem Fits.retentionTest {s : State} (h : Fits s) : Fits (retentionTest s) := by apply h.next <;> simp
theorem Fits.programFailed {s : State} (h : Fits s) : Fits (programFailed s) := by apply h.next <;> simp
theorem Fits.thaw {s : State} (h : Fits s) : Fits (thaw s) := by apply h.next <;> simp
theorem Fits.portOn {s : State} (h : Fits s) : Fits (portOn s) := by apply h.next <;> simp

/-! ## The transmit queues (R122) -/

theorem formGap_queues (p : Nat) (s : State) (h : QueuesFit s.port) : QueuesFit (formGap p s).port := by
  unfold formGap
  split
  · exact h
  · split
    · dsimp only
      split
      · rename_i room
        obtain ⟨recordQ, -, answerQ⟩ := h
        exact ⟨recordQ, by simp; omega, answerQ⟩
      · exact h
    · exact h

theorem testGaps_queues (s : State) (h : QueuesFit s.port) : QueuesFit (testGaps s).port :=
  formGap_queues 2 _ (formGap_queues 1 _ (formGap_queues 0 s h))

theorem programEnd_queues (good : Bool) (s : State) (h : QueuesFit s.port) : QueuesFit (programEnd good s).port := by
  unfold programEnd
  split
  · simpa [QueuesFit] using h
  · unfold partProgramEnd
    split
    · exact h
    · split
      · exact h
      · dsimp only
        split <;> exact testGaps_queues _ (by simpa [QueuesFit] using h)
  · exact h

theorem endCatchUp_queues (s : State) (h : QueuesFit s.port) : QueuesFit (endCatchUp s).port := by
  unfold endCatchUp
  split
  · dsimp only
    split
    · exact testGaps_queues _ h
    · exact h
  · exact h

theorem Fits.testGaps {s : State} (h : Fits s) : Fits (testGaps s) := by
  apply h.next
  case queues => exact testGaps_queues s
  all_goals simp

theorem transmitted_queues (q : TxQueue) (s : State) (h : QueuesFit s.port) : QueuesFit (transmitted q s).port := by
  obtain ⟨recordQ, gapQ, answerQ⟩ := h
  cases q with
  | time | mark | presence => exact ⟨recordQ, gapQ, answerQ⟩
  | answer => exact ⟨recordQ, gapQ, by simp [transmitted]; omega⟩
  | gap =>
    simp only [transmitted]
    split
    · rename_i l
      rw [l] at gapQ
      exact ⟨recordQ, Nat.le_of_succ_le gapQ, answerQ⟩
    · exact ⟨recordQ, gapQ, answerQ⟩
  | record =>
    simp only [transmitted]
    split
    · rename_i l
      rw [l] at recordQ
      split <;> exact ⟨Nat.le_of_succ_le recordQ, gapQ, answerQ⟩
    · exact ⟨recordQ, gapQ, answerQ⟩

end Sys2Proof.Machine
end

section
/-! What the acts of jobs and of the flash do to the reads that jobs wait for (R167, R170). -/

namespace Sys2Proof.Machine

/-- The jobs keep their terminals, and a new read request is asked for by a terminal that has a job. -/
structure ReadsKept (s t : State) : Prop where
  terminals : jobTerminals t = jobTerminals s
  requests : ∀ q ∈ t.arch.requests, q ∈ s.arch.requests ∨ ∀ n, q.who = .job n → n ∈ jobTerminals s

theorem ReadsKept.of_eq {s t : State} (jobs : jobTerminals t = jobTerminals s)
    (requests : t.arch.requests = s.arch.requests) : ReadsKept s t :=
  ⟨jobs, fun _ hq => .inl (requests ▸ hq)⟩

theorem ReadsKept.trans {s t u : State} (h : ReadsKept s t) (k : ReadsKept t u) : ReadsKept s u where
  terminals := k.terminals.trans h.terminals
  requests q hq := (k.requests q hq).elim (h.requests q) fun asked => .inr (h.terminals ▸ asked)

theorem ReadsKept.fit {s t : State} (k : ReadsKept s t) (h : ReadsFit s) : ReadsFit t := by
  obtain ⟨few, once, asked⟩ := h
  rw [ReadsFit, k.terminals]
  exact ⟨few, once, fun q hq => (k.requests q hq).elim (asked q) id⟩

/-- One more read is asked for, by no job or by that of a terminal that has one. -/
theorem addRequest_kept {r : Request} {s : State} (h : ∀ n, r.who = .job n → n ∈ jobTerminals s) :
    ReadsKept s (addRequest r s) where
  terminals := rfl
  requests q hq := (List.mem_append.1 hq).imp id fun new n => by rw [List.mem_singleton.1 new]; exact h n

theorem setJob_kept (j : Job) (s : State) : ReadsKept s (setJob j s) :=
  .of_eq (withJob_terminals j s.retr.jobs) rfl

theorem jobReady_kept (j : Job) (a : Answer) (skip : Bool) (s : State) : ReadsKept s (jobReady j a skip s) :=
  .of_eq (withJob_terminals { j with work := .ready a skip s.port.ticket } s.retr.jobs) (by simp)

theorem workJob_kept {j : Job} {s : State} (h : j.terminal ∈ jobTerminals s) : ReadsKept s (workJob j s) := by
  simp only [workJob]
  split
  · exact jobReady_kept ..
  · exact setJob_kept ..
  · exact jobReady_kept ..
  · rename_i n _
    split
    · have set := setJob_kept { j with next := n, work := .reading } s
      exact set.trans (addRequest_kept fun m asks => by cases asks; rw [set.terminals]; exact h)
    · exact setJob_kept ..

theorem startBackfill_kept (s : State) : ReadsKept s (startBackfill s) := by
  unfold startBackfill
  split
  · exact .of_eq (by simp) (by simp)
  · have working : ReadsKept s (s.setWit { s.wit with work := .reading }) := .of_eq (by simp) (by simp)
    exact working.trans (addRequest_kept nofun)

theorem advanceBackfill_kept (s : State) : ReadsKept s (advanceBackfill s) := by
  unfold advanceBackfill
  split
  · exact .of_eq (by simp) (by simp)
  · exact ReadsKept.trans (.of_eq (by simp) (by simp)) (startBackfill_kept _)

theorem jobResult_kept (n : Nat) (res : Option Rec) (s : State) : ReadsKept s (jobResult n res s) := by
  unfold jobResult
  split
  · exact .of_eq (by simp) (by simp)
  · rename_i j found
    have stands : j.terminal ∈ jobTerminals s := List.mem_map_of_mem (jobOf_mem s n j found).1
    split
    · split
      · exact jobReady_kept ..
      · exact workJob_kept stands
    · exact workJob_kept stands
    · exact jobReady_kept ..
    · exact jobReady_kept ..

theorem serveOne_kept (s : State) : ReadsKept s (serveOne s) := by
  unfold serveOne
  split
  · exact .of_eq (by simp) (by simp)
  · rename_i q rest waiting
    have taken : ReadsKept s (s.setArch { s.arch with requests := rest }) :=
      ⟨rfl, fun q hq => .inl (waiting ▸ List.mem_cons_of_mem _ hq)⟩
    dsimp only
    split
    · refine taken.trans ?_
      unfold backfillResult
      split
      · exact .of_eq (by simp) (by simp)
      · exact advanceBackfill_kept _
    · exact taken.trans (jobResult_kept ..)
    · exact taken

theorem serveReads_kept (n : Nat) : ∀ s, ReadsKept s (serveReads n s) := by
  induction n with
  | zero => exact fun s => .of_eq rfl rfl
  | succ n ih =>
    intro s
    rw [serveReads]
    split
    · exact .of_eq (by simp) (by simp)
    · exact (serveOne_kept s).trans (ih _)

theorem flashIdle_kept (s : State) : ReadsKept s (flashIdle s) := by
  unfold flashIdle
  split
  · exact .of_eq (by simp) (by simp)
  · dsimp only
    split
    · exact (serveReads_kept (readBound s) s).trans (.of_eq (by simp) (by simp))
    · exact serveReads_kept _ s

theorem foldl_workJob_kept (l : List Job) : ∀ s : State, (∀ j ∈ l, j.terminal ∈ jobTerminals s) →
    ReadsKept s (l.foldl (fun t j => workJob j t) s) := by
  induction l with
  | nil => exact fun s _ => .of_eq (by simp) (by simp)
  | cons j l ih =>
    intro s h
    have first := workJob_kept (h j (by simp))
    exact first.trans (ih _ fun i hi => by rw [first.terminals]; exact h i (by simp [hi]))

theorem wakeFollows_kept (origin : Nat) (s : State) : ReadsKept s (wakeFollows origin s) :=
  foldl_workJob_kept _ s fun _ hj => List.mem_map_of_mem (List.mem_of_mem_filter hj)

theorem floorJump_kept (place : Nat) (s : State) : ReadsKept s (floorJump place s) := by
  unfold floorJump
  split
  · exact .of_eq (by simp) (by simp)
  · split
    · refine ReadsKept.trans ?_ (wakeFollows_kept ..)
      exact .of_eq (by simp) (by simp)
    · exact .of_eq (by simp) (by simp)

theorem reportHeld_kept (o : Origin) (s : State) : ReadsKept s (reportHeld o s) := by
  unfold reportHeld
  split
  · exact floorJump_kept ..
  · exact wakeFollows_kept ..

theorem ReadsKept.retentionTest {s t : State} (k : ReadsKept s t) : ReadsKept s (retentionTest t) :=
  k.trans (.of_eq (by simp) (by simp))

theorem ReadsKept.testGaps {s t : State} (k : ReadsKept s t) : ReadsKept s (testGaps t) :=
  k.trans (.of_eq (by simp) (by simp))

theorem programEnd_kept (good : Bool) (s : State) : ReadsKept s (programEnd good s) := by
  unfold programEnd
  split
  · unfold ownProgramEnd
    split
    · exact .of_eq (by simp) (by simp)
    · dsimp only
      split
      · refine ReadsKept.retentionTest (ReadsKept.trans ?_ (wakeFollows_kept ..))
        exact .of_eq (by simp) (by simp)
      · exact .of_eq (by simp) (by simp)
  · unfold partProgramEnd
    split
    · exact .of_eq (by simp) (by simp)
    · split
      · exact .of_eq (by simp) (by simp)
      · dsimp only
        split
        · refine ReadsKept.testGaps (ReadsKept.trans ?_ (reportHeld_kept ..))
          exact .of_eq (by simp) (by simp)
        · refine ReadsKept.testGaps (ReadsKept.trans ?_ (floorJump_kept ..))
          exact .of_eq (by simp) (by simp)
  · exact .of_eq (by simp) (by simp)

/-- A job that leaves takes its terminal with it, and no request of it stands. -/
theorem removeJob_reads (n : Nat) (s : State) (h : ReadsFit s) :
    ReadsFit (removeJob n s) ∧ jobTerminals (removeJob n s) = (jobTerminals s).filter (· != n) := by
  obtain ⟨few, once, asked⟩ := h
  have left : jobTerminals (removeJob n s) = (jobTerminals s).filter (· != n) :=
    (List.filter_map (f := Job.terminal) (p := (· != n)) (l := s.retr.jobs)).symm
  refine ⟨⟨?_, ?_, fun q hq m asks => ?_⟩, left⟩
  · rw [left]
    exact (List.length_filter_le ..).trans few
  · rw [left]
    exact once.filter _
  · obtain ⟨r, hr, rfl⟩ := List.mem_map.1 hq
    rw [left]
    split at asks
    · cases asks
    · rename_i other
      exact List.mem_filter.2 ⟨asked r hr m asks, by simpa using fun e : m = n => other (e ▸ asks)⟩

/-- A job joins a list that holds at most one job, none of its terminal (R167). -/
theorem joinJob_reads {j : Job} {s : State} (h : ReadsFit s) (one : (jobTerminals s).length ≤ 1)
    (new : j.terminal ∉ jobTerminals s) : ReadsFit (s.setRetr { s.retr with jobs := s.retr.jobs ++ [j] }) := by
  obtain ⟨-, once, asked⟩ := h
  have joined : jobTerminals (s.setRetr { s.retr with jobs := s.retr.jobs ++ [j] }) = jobTerminals s ++ [j.terminal] :=
    List.map_append
  rw [ReadsFit, joined]
  refine ⟨by simpa [-jobTerminals] using one, List.nodup_append.2 ⟨once, by simp, ?_⟩, fun q hq n asks =>
    List.mem_append_left _ (asked q hq n asks)⟩
  exact fun a ha b hb e => new (List.mem_singleton.1 hb ▸ e ▸ ha)

theorem jobOf_isSome_iff (s : State) (n : Nat) : (jobOf s n).isSome = true ↔ n ∈ jobTerminals s := by
  simp [jobOf, jobTerminals]

end Sys2Proof.Machine
end

section
/-! The backfill jobs, the mark table, the gap list and the peer offset table within their capacities. -/

namespace Sys2Proof.Machine

/-! ## Backfill jobs and marks (R142, R143, R147) -/

theorem startBackfill_witness {s : State} (h : WitnessFits s.wit) : WitnessFits (startBackfill s).wit := by
  simpa [WitnessFits] using h

theorem advanceBackfill_witness {s : State} (h : WitnessFits s.wit) : WitnessFits (advanceBackfill s).wit := by
  unfold advanceBackfill
  split
  · exact h
  · rename_i j rest queue
    obtain ⟨few, marks, ranges⟩ := h
    rw [queue] at few ranges
    refine startBackfill_witness (s := s.setWit _) ⟨?_, marks, ?_⟩
    · dsimp only [State.setWit_wit]
      split
      · exact few
      · exact Nat.le_of_succ_le few
    · dsimp only [State.setWit_wit]
      split
      · rename_i left
        exact List.forall_mem_cons.2 ⟨left, (List.forall_mem_cons.1 ranges).2⟩
      · exact (List.forall_mem_cons.1 ranges).2

theorem serveOne_witness {s : State} (h : WitnessFits s.wit) : WitnessFits (serveOne s).wit := by
  unfold serveOne
  split
  · exact h
  · dsimp only
    split
    · unfold backfillResult
      split
      · exact h
      · exact advanceBackfill_witness h
    · simpa using h
    · exact h

theorem serveReads_witness (n : Nat) : ∀ {s : State}, WitnessFits s.wit → WitnessFits (serveReads n s).wit := by
  induction n with
  | zero => exact fun h => h
  | succ n ih =>
    intro s h
    rw [serveReads]
    split
    · exact h
    · exact ih (serveOne_witness h)

theorem flashIdle_witness {s : State} (h : WitnessFits s.wit) : WitnessFits (flashIdle s).wit := by
  unfold flashIdle
  split
  · exact h
  · dsimp only
    split
    · simpa using serveReads_witness _ h
    · exact serveReads_witness _ h

/-- The range of a GAP that is not ignored has a sequence left (R142). -/
theorem gapRange_left {first count latest : Nat} {r : Backfill} (h : gapRange first count latest = some r) :
    r.next ≤ r.last := by
  simp only [gapRange] at h
  split at h
  · cases h
  · cases h
    dsimp only
    omega

theorem markTable_length (m : WitnessMark) {l : List WitnessMark} (h : l.length ≤ 7) :
    (markTable m l).length ≤ 7 := by
  unfold markTable
  split
  · simpa using h
  · split
    · simp; omega
    · exact h

theorem takeMark_marks (sender : BitVec 5) (entries : List MarkEntry) {s : State} (h : s.wit.marks.length ≤ 7) :
    (takeMark sender entries s).wit.marks.length ≤ 7 := by
  have young : (youngMarks s).length ≤ 7 := (List.length_filter_le ..).trans h
  unfold takeMark
  split
  · split
    · unfold ownMark updateSecured
      dsimp only
      split <;> simpa using markTable_length _ young
    · exact h
  · exact h

/-! ## The gap list and the offsets (R105, R109) -/

theorem addGap_length (fromTime : Nat) (k : CloseKind) (l : List GapEntry) :
    (addGap fromTime k l).length ≤ l.length + 1 := by
  unfold addGap
  split
  · split
    · exact Nat.le_succ _
    · simp
  · simp

theorem addGap_last (fromTime : Nat) (k : CloseKind) (l : List GapEntry) :
    (addGap fromTime k l).getLast?.map (·.kind) = some k := by
  unfold addGap
  split
  · rename_i e last
    split
    · rename_i same
      rw [last, ← same]
      rfl
    · simp
  · rfl

/-- A gap list of one entry fits while a catch-up is in progress. -/
theorem GapListFits.of_one {t : Timebase} (gaps : t.gaps.length ≤ 1) (catchUp : t.catchUp = true) : GapListFits t :=
  ⟨gaps.trans (by decide), fun ended => by simp [catchUp] at ended, fun two => by omega⟩

theorem GapListFits.of_none {t : Timebase} (gaps : t.gaps = []) : GapListFits t :=
  ⟨by simp [gaps], fun _ => gaps, fun two => by simp [gaps] at two⟩

theorem beginCatchUp_gapList {s : State} (h : GapListFits s.tb) : GapListFits (beginCatchUp s).tb := by
  unfold beginCatchUp
  split
  · by_cases on : s.tb.catchUp = true
    · simpa [GapListFits, on] using h
    · exact .of_one (by simp [h.2.1 (by simpa using on)]) rfl
  · exact h

theorem endCatchUp_gapList {s : State} (h : GapListFits s.tb) : GapListFits (endCatchUp s).tb := by
  unfold endCatchUp
  split
  · dsimp only
    split <;> exact .of_none (by simp)
  · exact h

theorem resumeTimebase_gaps (resume : Option Nat) (t : Timebase) : (resumeTimebase resume t).gaps.length ≤ 1 := by
  unfold resumeTimebase
  dsimp only
  (repeat' split) <;> simp

theorem enterCatchUp_gapList (s : State) : GapListFits (enterCatchUp s).tb :=
  endCatchUp_gapList (.of_one (resumeTimebase_gaps ..) rfl)

theorem warmState_gapList {s : State} (h : GapListFits s.tb) : GapListFits (warmState s).tb := by
  unfold warmState
  split
  · simpa using h
  · have last := addGap_last s.tb.holdFrom .hold s.tb.gaps
    obtain ⟨two, -, full⟩ := h
    have length : (addGap s.tb.holdFrom .hold s.tb.gaps).length ≤ 2 := by
      by_cases one : s.tb.gaps.length ≤ 1
      · exact (addGap_length ..).trans (by omega)
      · obtain ⟨e, he, hold⟩ := Option.map_eq_some_iff.1 (full (by omega))
        simpa [addGap, he, hold] using two
    simpa [GapListFits] using ⟨length, fun _ => by simpa using last⟩

/-- Outside a catch-up the gap list is empty, so that a step adds its first entry. -/
theorem applyStep_gapList {s : State} (c : Int) (h : GapListFits s.tb) (ended : s.tb.catchUp = false) :
    GapListFits (applyStep c s).tb := by
  have none := h.2.1 ended
  unfold applyStep
  dsimp only
  split
  · exact .of_none (by simpa [reportStep] using none)
  · simp only [reportStep_frame, State.setTb_tb]
    split
    · unfold forwardStep
      split
      · exact .of_one (by simpa [shiftTime, none] using addGap_length _ _ []) rfl
      · exact .of_none none
    · unfold backwardStep
      split <;> exact .of_none none

theorem applyStep_lists (c : Int) (s : State) :
    (applyStep c s).retr.jobs = s.retr.jobs ∧ (applyStep c s).retr.answers = s.retr.answers := by
  unfold applyStep
  dsimp only
  (repeat' split) <;> simp

theorem storeOffset_peers {e : OffsetEntry} {l : List OffsetEntry} (h : PeersFit l) (lo : 1 ≤ e.station)
    (hi : e.station ≤ 31) : PeersFit (storeOffset e l) := by
  obtain ⟨once, numbers⟩ := h
  refine ⟨?_, fun x hx => ?_⟩
  · rw [storeOffset, List.map_append]
    refine List.nodup_append.2 ⟨(List.filter_sublist.map _).nodup once, by simp, fun a ha b hb => ?_⟩
    obtain ⟨x, hx, rfl⟩ := List.mem_map.1 ha
    rw [List.mem_singleton.1 hb]
    simpa using List.of_mem_filter hx
  · rcases List.mem_append.1 hx with old | new
    · exact numbers x (List.mem_of_mem_filter old)
    · rw [List.mem_singleton.1 new]
      exact ⟨lo, hi⟩

theorem shiftTime_peers {t : Timebase} (c : Int) (h : PeersFit t.peers) : PeersFit (shiftTime c t).peers := by
  obtain ⟨once, numbers⟩ := h
  have same : (shiftTime c t).peers.map (·.station) = t.peers.map (·.station) := by
    rw [shiftTime, List.map_map]
    rfl
  refine ⟨same ▸ once, fun e he => ?_⟩
  obtain ⟨x, hx, rfl⟩ := List.mem_map.1 he
  exact numbers x hx


theorem applyStep_peers {s : State} (c : Int) (h : PeersFit s.tb.peers) : PeersFit (applyStep c s).tb.peers := by
  have moved := shiftTime_peers c h
  unfold applyStep
  dsimp only
  split
  · exact h
  · simp only [reportStep_frame, State.setTb_tb]
    split
    · unfold forwardStep
      split <;> exact moved
    · unfold backwardStep
      split <;> exact moved

end Sys2Proof.Machine
end

section
/-! The outbound record queue within its 16 entries, also through the closings of a boundary (R156). -/

namespace Sys2Proof.Machine

/-- The outbound record queue holds at most 16 entries, of those not yet archived only the oldest has a number, and no
number stands twice. -/
structure OutboundFits (l : List OutEntry) : Prop where
  length : l.length ≤ 16
  younger : ∀ e ∈ (l.filter (fun e => e.state != .waitingPublish)).drop 1, e.seq = none ∧ e.state = .waitingArchive
  distinct : (l.filterMap (·.seq)).Nodup

theorem removeFirst_sublist {α : Type} (p : α → Bool) (l : List α) : (removeFirst p l).Sublist l := by
  induction l with
  | nil => exact .slnil
  | cons x l ih =>
    rw [removeFirst]
    split
    · exact List.sublist_cons_self x l
    · exact ih.cons_cons x

theorem removeFirst_length {α : Type} {p : α → Bool} {l : List α} (h : ∃ x ∈ l, p x = true) :
    (removeFirst p l).length + 1 = l.length := by
  induction l with
  | nil => simp at h
  | cons x l ih =>
    rw [removeFirst]
    split
    · rfl
    · rename_i other
      obtain ⟨y, hy, meets⟩ := h
      rcases List.mem_cons.1 hy with rfl | hy
      · exact absurd meets other
      · exact congrArg (· + 1) (ih ⟨y, hy, meets⟩)

theorem OutboundFits.sublist {l l' : List OutEntry} (h : OutboundFits l) (sub : l'.Sublist l) : OutboundFits l' where
  length := sub.length_le.trans h.length
  younger e he := h.younger e (((sub.filter _).drop 1).subset he)
  distinct := (sub.filterMap _).nodup h.distinct

/-- A record joins where there is room, without a number. -/
theorem OutboundFits.append {l : List OutEntry} (h : OutboundFits l) (room : l.length < 16) (kind : RecordKind)
    (start : Nat) (body : List Byte) : OutboundFits (l ++ [{ kind := kind, start := start, body := body }]) where
  length := by simpa using room
  younger e he := by
    rw [List.filter_append, List.drop_append] at he
    rcases List.mem_append.1 he with old | new
    · exact h.younger e old
    · have := List.mem_of_mem_drop new
      simp at this
      simp [this]
  distinct := by simpa using h.distinct

/-- At most one entry waits to be published with its telegram on the line, for only one has its number. -/
theorem countP_on_the_line {l : List OutEntry} (distinct : (l.filterMap (·.seq)).Nodup) (q : Option Nat) :
    l.countP (fun e => e.seq == q && e.seq.isSome) ≤ 1 := by
  cases q with
  | none =>
    have none : l.countP (fun e : OutEntry => e.seq == none && e.seq.isSome) = 0 :=
      List.countP_eq_zero.2 fun e _ => by cases e.seq <;> simp
    omega
  | some n =>
    have count : l.countP (fun e : OutEntry => e.seq == some n && e.seq.isSome) = (l.filterMap (·.seq)).count n := by
      rw [List.count_filterMap]
      exact List.countP_congr fun e _ => by cases e.seq <;> simp
    exact count ▸ List.nodup_iff_count_le_one.1 distinct n

/-- A full queue has an entry that may go: one that is archived and not on the line, or one that waits for the archive. -/
theorem OutboundFits.removable {s : State} (h : OutboundFits s.arch.outbound) (full : 16 ≤ s.arch.outbound.length) :
    (∃ e ∈ s.arch.outbound, removablePublish s e = true) ∨ ∃ e ∈ s.arch.outbound, e.state = .waitingArchive := by
  by_contra no
  simp only [not_or, not_exists, not_and, Bool.not_eq_true] at no
  obtain ⟨published, waiting⟩ := no
  have archived : s.arch.outbound.countP (fun e => e.state == .waitingPublish) ≤ 1 := by
    refine (List.countP_mono_left fun e he state => ?_).trans (countP_on_the_line h.distinct (seqOnLine s))
    have onLine := published e he
    simp only [removablePublish, state, Bool.true_and, Bool.not_eq_false', Bool.and_eq_true] at onLine
    obtain ⟨⟨-, same⟩, number⟩ := onLine
    simp [same, number]
  have others : (s.arch.outbound.filter (fun e => e.state != .waitingPublish)).length ≤ 1 := by
    by_contra more
    obtain ⟨e, he⟩ := List.exists_mem_of_length_pos
      (l := (s.arch.outbound.filter (fun e => e.state != .waitingPublish)).drop 1) (by simp; omega)
    exact waiting e (List.mem_of_mem_filter (List.mem_of_mem_drop he)) (h.younger e he).2
  have all := List.length_eq_countP_add_countP (fun e : OutEntry => e.state == .waitingPublish) (l := s.arch.outbound)
  have rest : s.arch.outbound.countP (fun e => decide ¬ (e.state == .waitingPublish) = true) ≤ 1 := by
    rw [List.countP_eq_length_filter]
    refine Eq.trans_le (congrArg List.length (List.filter_congr fun e _ => ?_)) others
    simp [bne, beq_eq_decide]
  omega


/-- What the appends need and keep: the RECORD queue, from which one may be withdrawn, and the outbound queue (R156). -/
def AppendsFit (s : State) : Prop := s.port.recordQ.length ≤ 4 ∧ OutboundFits s.arch.outbound

theorem makeRoom_outbound (s : State) : (makeRoom s).arch.outbound =
    match s.arch.outbound.find? (removablePublish s) with
    | some _ => removeFirst (removablePublish s) s.arch.outbound
    | none => removeFirst (fun e => e.state == .waitingArchive) s.arch.outbound := by
  unfold makeRoom
  cases s.arch.outbound.find? (removablePublish s) with
  | some e =>
    dsimp only
    split <;> simp
  | none =>
    dsimp only
    split
    · simp
    · rename_i none
      exact (removeFirst_none _ _ fun e he => Bool.eq_false_iff.2 (List.find?_eq_none.1 none e he)).symm

theorem makeRoom_recordQ (s : State) : (makeRoom s).port.recordQ.length ≤ s.port.recordQ.length := by
  unfold makeRoom
  split
  · dsimp only
    split
    · simpa using (removeFirst_sublist _ _).length_le
    · simp
  · split <;> simp

/-- A full queue has room for one record then. -/
theorem makeRoom_fits {s : State} (h : AppendsFit s) :
    AppendsFit (makeRoom s) ∧ (16 ≤ s.arch.outbound.length → (makeRoom s).arch.outbound.length < 16) := by
  obtain ⟨recordQ, outbound⟩ := h
  refine ⟨⟨(makeRoom_recordQ s).trans recordQ, ?_⟩, fun full => ?_⟩ <;> rw [makeRoom_outbound]
  · split <;> exact outbound.sublist (removeFirst_sublist ..)
  · have room := outbound.length
    split
    · rename_i e found
      have := removeFirst_length ⟨e, List.mem_of_find?_eq_some found, List.find?_some found⟩
      omega
    · rename_i none
      have waits : ∃ e ∈ s.arch.outbound, (e.state == OutState.waitingArchive) = true :=
        ((outbound.removable full).resolve_left fun ⟨e, he, may⟩ => List.find?_eq_none.1 none e he may).imp
          fun e ⟨he, state⟩ => ⟨he, by simp [state]⟩
      have := removeFirst_length waits
      omega

theorem appendRecord_fits {s : State} (h : AppendsFit s) (kind : RecordKind) (start : Nat) (body : List Byte) :
    AppendsFit (appendRecord kind start body s) := by
  unfold appendRecord
  dsimp only
  split
  · rename_i full
    obtain ⟨⟨recordQ, outbound⟩, room⟩ := makeRoom_fits h
    exact ⟨recordQ, outbound.append (room full) kind start body⟩
  · rename_i room
    exact ⟨h.1, h.2.append (Nat.lt_of_not_le room) kind start body⟩

/-- Whether the appends fit is told from the two queues. -/
theorem AppendsFit.congr {s t : State} (h : AppendsFit s)
    (queues : t.port.recordQ = s.port.recordQ ∧ t.arch.outbound = s.arch.outbound) : AppendsFit t := by
  rw [AppendsFit, queues.1, queues.2]
  exact h

theorem closeHalfHour_appends {s : State} (h : AppendsFit s) (boundary : Nat) : AppendsFit (closeHalfHour boundary s) :=
  appendRecord_fits (h.congr (by simp)) _ _ _

theorem closeDay_appends {s : State} (h : AppendsFit s) (boundary : Nat) : AppendsFit (closeDay boundary s) := by
  unfold closeDay
  refine AppendsFit.congr (appendRecord_fits ?_ _ _ _) ⟨rfl, rfl⟩
  exact h.congr (by simp)

theorem foldl_appendYearSlot_fits (c : Settings) (year : Nat) (l : List YearRow) : ∀ {s : State}, AppendsFit s →
    AppendsFit (l.foldl (appendYearSlot c year) s) := by
  induction l with
  | nil => exact fun h => h
  | cons r l ih => exact fun h => ih (appendRecord_fits h _ _ _)

theorem closeYear_appends {s : State} (h : AppendsFit s) (boundary : Nat) : AppendsFit (closeYear boundary s) := by
  have records : AppendsFit (appendYearRecords (yearOf boundary - 1) s) :=
    foldl_appendYearSlot_fits _ _ _ (appendRecord_fits h _ _ _)
  exact records.congr (by simp [closeYear, restartYear, witnessYearClose])

theorem AppendsFit.when {c : Prop} [Decidable c] {f : State → State} {s : State} (h : AppendsFit s)
    (hf : AppendsFit (f s)) : AppendsFit (if c then f s else s) := by
  split
  · exact hf
  · exact h

theorem closing_appends {s : State} (h : AppendsFit s) (minute : Nat) : AppendsFit (closing minute s) := by
  have stage : AppendsFit (minuteStage minute (compareResume (halfHourStart minute) s)) :=
    h.congr (by simp)
  have half := stage.when (c := (minute + 60) % 1800 = 0) (closeHalfHour_appends stage (minute + 60))
  have day := half.when (c := (minute + 60) % 86400 = 0) (closeDay_appends half (minute + 60))
  exact day.when (closeYear_appends day (minute + 60))

theorem missingYearSlots_appends {s : State} (h : AppendsFit s) (recs : List Rec) (year : Nat) :
    AppendsFit (missingYearSlots recs year s) :=
  (foldl_appendYearSlot_fits _ _ _ h).congr ⟨rfl, rfl⟩

theorem pendingCloses_appends {s : State} (h : AppendsFit s) (recs : List Rec) (resume : Nat) :
    AppendsFit (pendingCloses recs resume s) := by
  have day := h.when (c := resume % 86400 = 0 ∧ dayClosed recs (dayStart (resume - 1800)) = false
    ∧ yearClosed recs (yearOf (resume - 1800)) = false) (closeDay_appends h resume)
  unfold pendingCloses
  dsimp only
  split
  · split
    · exact missingYearSlots_appends day _ _
    · exact closeYear_appends day _
  · exact day

theorem SequenceOrder.outboundFits {s : State} (o : SequenceOrder s) (length : s.arch.outbound.length ≤ 16) :
    OutboundFits s.arch.outbound := ⟨length, o.younger, o.distinct⟩

theorem transmitted_outbound (q : TxQueue) (s : State) :
    (transmitted q s).arch.outbound.length ≤ s.arch.outbound.length := by
  unfold transmitted
  dsimp only
  (repeat' split) <;> simp [gapSent, releaseSent, (removeFirst_sublist _ _).length_le]

theorem modifyFirst_length {α : Type} (p : α → Bool) (f : α → α) (l : List α) :
    (modifyFirst p f l).length = l.length := by
  induction l with
  | nil => rfl
  | cons x l ih =>
    rw [modifyFirst]
    split
    · rfl
    · exact congrArg (· + 1) ih

/-- Contents and length of the outbound queue are kept by a flash-idle event. -/
theorem flashIdle_outbound (s : State) : (flashIdle s).arch.outbound.length = s.arch.outbound.length := by
  simpa using congrArg List.length (flashIdle_contents s)

theorem ownProgramEnd_outbound (good : Bool) (s : State) :
    (programEnd good s).arch.outbound.length = s.arch.outbound.length := by
  unfold programEnd
  split
  · unfold ownProgramEnd
    split
    · simp
    · dsimp only
      split <;> simp [modifyFirst_length]
  · simp
  · rfl

end Sys2Proof.Machine
end

section
/-! Each act keeps the capacities of every block. -/

namespace Sys2Proof.Machine

section
variable {s : State} (h : Fits s)
include h

theorem Fits.flashIdle : Fits (flashIdle s) := by
  apply h.next
  case witness => exact flashIdle_witness
  case reads => exact (flashIdle_kept s).fit
  case outbound => exact fun l => (flashIdle_outbound s).trans_le l
  all_goals simp

theorem Fits.wakeFollows (origin : Nat) : Fits (wakeFollows origin s) := by
  apply h.next
  case reads => exact (wakeFollows_kept origin s).fit
  all_goals simp

theorem Fits.floorJump (place : Nat) : Fits (floorJump place s) := by
  apply h.next
  case reads => exact (floorJump_kept place s).fit
  all_goals simp

theorem Fits.programEnd (good : Bool) : Fits (programEnd good s) := by
  apply h.next
  case queues => exact programEnd_queues good s
  case reads => exact (programEnd_kept good s).fit
  case outbound => exact fun l => (ownProgramEnd_outbound good s).trans_le l
  all_goals simp

theorem Fits.endCatchUp : Fits (endCatchUp s) := by
  apply h.next
  case queues => exact endCatchUp_queues s
  case gapList => exact endCatchUp_gapList
  all_goals simp

theorem Fits.closing (a : AppendsFit s) (minute : Nat) : Fits (closing minute s) := by
  apply h.next
  case queues => exact fun q => ⟨(closing_appends a minute).1, by simpa using q.2⟩
  case gapList => rw [closing_tb]; exact id
  case peers => rw [closing_tb]; exact id
  case outbound => exact fun _ => (closing_appends a minute).2.length
  all_goals simp

end

/-! ## The commands that are telegrams -/

theorem deliver_fits {f : State → State} {s : State} (h : Fits s) (hf : Fits (f s)) (sender : BitVec 5)
    (permitted : Bool) : Fits (deliver sender permitted f s) := by
  rcases deliver_cases sender permitted f s with ⟨-, e⟩ | ⟨-, -, e⟩ | ⟨-, -, -, e⟩ | ⟨-, -, e⟩ <;> rw [e]
  · exact h
  · exact h.countUp ..
  · exact (h.countUp ..).raiseCause _
  · exact hf

theorem Fits.setOrigin {s : State} (h : Fits s) (o : Origin) : Fits (setOrigin o s) := by apply h.next <;> simp

/-- An answer joins a list that holds fewer than 4. -/
theorem Fits.addAnswer {s : State} (h : Fits s) (room : answersHeld s < 4) (n : Nat) (tag : BitVec 8) (b : PendingBody) :
    Fits (addAnswer n tag b s) := by
  apply h.next
  case answers => exact fun _ => (answersHeld_addAnswer n tag b s).trans_le room
  all_goals simp

theorem query_fits {act : State → State} {s : State} (h : Fits s) (hf : answersHeld s < 4 → Fits (act s))
    (head : QueryHead) (permitted taken : Bool) : Fits (query head permitted taken act s) := by
  refine deliver_fits h ?_ head.terminal permitted
  split
  · exact h
  · split
    · exact h
    · rename_i room
      split
      · exact hf (Nat.lt_of_not_le room)
      · exact h.addAnswer (Nat.lt_of_not_le room) ..

section
variable {s : State} (h : Fits s)
include h

theorem Fits.enterCatchUp : Fits (enterCatchUp s) := by
  apply h.next
  case queues => exact fun q => endCatchUp_queues _ (by simpa using q)
  case gapList => exact fun _ => enterCatchUp_gapList s
  all_goals simp

theorem Fits.adopt (time : Nat) : Fits (adopt time s) := by
  unfold Machine.adopt
  refine (Fits.enterCatchUp ?_).flashIdle
  apply h.next <;> simp

theorem Fits.takeTime (sender : BitVec 5) (seconds : BitVec 32) (ticks : BitVec 16) (reference : Bool) :
    Fits (takeTime sender seconds ticks reference s) := by
  unfold Machine.takeTime
  dsimp only
  split
  · exact h
  · split
    · unfold collectTime
      split
      · split
        · exact h.adopt _
        · exact h
      · apply h.next <;> simp
      · exact h
    · split
      · unfold takeOffset
        dsimp only
        split
        · rename_i recorder
          have station : sender.toNat ≠ 0 := fun zero => by simp [stationKind, zero] at recorder
          apply h.next
          case peers => exact fun p =>
            storeOffset_peers p (Nat.pos_of_ne_zero station) (Nat.le_of_lt_succ sender.isLt)
          all_goals simp
        · split
          · apply h.next <;> simp
          · exact h
        · exact h
      · exact h

theorem Fits.takeRecord (sender : BitVec 5) (head : RecordHead) (body : List Byte) :
    Fits (takeRecord sender head body s) := by
  unfold Machine.takeRecord
  split
  · split
    · unfold witnessRecord
      dsimp only
      split
      · unfold expectedRecord
        split
        · exact ((h.setOrigin _).setOrigin _).testGaps.flashIdle
        · exact ((h.setOrigin _).countUp ..).testGaps
      · exact (h.setOrigin _).testGaps
    · exact h
  · exact h

theorem Fits.takeMark (sender : BitVec 5) (entries : List MarkEntry) : Fits (takeMark sender entries s) := by
  apply h.next
  case witness => exact fun ⟨jobs, marks, ranges⟩ =>
    ⟨by simpa using jobs, takeMark_marks sender entries marks, by simpa using ranges⟩
  all_goals simp

theorem Fits.startBackfill : Fits (startBackfill s) := by
  apply h.next
  case witness => exact startBackfill_witness
  case reads => exact (startBackfill_kept s).fit
  all_goals simp

theorem Fits.takeGap (target : BitVec 8) (first : BitVec 32) (count : BitVec 8) :
    Fits (takeGap target first count s) := by
  unfold Machine.takeGap
  split
  · split
    · rename_i r range
      split
      · exact h
      · split
        · rename_i room
          have joined : Fits (s.setWit { s.wit with jobs := s.wit.jobs ++ [r] }) := by
            apply h.next
            case witness => exact fun ⟨_, marks, ranges⟩ => ⟨by simpa using room, marks, fun j hj => by
              rcases List.mem_append.1 hj with old | new
              · exact ranges j old
              · exact List.mem_singleton.1 new ▸ gapRange_left range⟩
            all_goals simp
          unfold joinBackfill
          dsimp only
          split
          · exact joined.startBackfill.flashIdle
          · exact joined
        · exact h
    · exact h
  · exact h

theorem Fits.heardPresence (sender : BitVec 5) : Fits (heardPresence sender s) := by
  have terminals : jobTerminals (Machine.heardPresence sender s) = jobTerminals s := by
    simp only [jobTerminals, Machine.heardPresence, State.setRetr_retr, List.map_map]
    exact List.map_congr_left fun j _ => by dsimp only [Function.comp]; split <;> rfl
  apply h.next
  case reads => exact (ReadsKept.of_eq terminals rfl).fit
  all_goals simp

theorem Fits.witnessPresence (sender : BitVec 5) (p : PresencePayload) : Fits (witnessPresence sender p s) := by
  unfold Machine.witnessPresence
  split
  · split
    · exact ((h.setOrigin _).floorJump _).testGaps.flashIdle
    · exact h
  · exact h

theorem Fits.removeJob (n : Nat) : Fits (removeJob n s) := by
  apply h.next
  case reads => exact fun r => (removeJob_reads n s r).1
  all_goals simp

theorem Fits.workJob {j : Job} (stands : j.terminal ∈ jobTerminals s) : Fits (workJob j s) := by
  apply h.next
  case reads => exact (workJob_kept stands).fit
  all_goals simp

theorem Fits.startJob {j : Job} (one : (jobTerminals s).length ≤ 1) (new : j.terminal ∉ jobTerminals s) :
    Fits (startJob j s) := by
  have joined : Fits (s.setRetr { s.retr with jobs := s.retr.jobs ++ [j] }) := by
    apply h.next
    case reads => exact fun r => joinJob_reads r one new
    all_goals simp
  exact (joined.workJob (by simp [jobTerminals])).flashIdle

/-- The job of a terminal is replaced, and one of a new terminal joins at most one other (R167). -/
theorem Fits.admitJob (room : answersHeld s < 4) (j : Job) : Fits (admitJob j s) := by
  unfold Machine.admitJob
  split
  · exact h.addAnswer room ..
  · split
    · rename_i stands
      rw [jobOf_isSome_iff] at stands
      have left := (removeJob_reads j.terminal s h.reads).2
      refine (h.removeJob _).startJob ?_ ?_ <;> rw [left]
      · have fewer := List.length_filter_lt_length_iff_exists (p := (· != j.terminal)) |>.2 ⟨_, stands, by simp⟩
        have := h.reads.1
        omega
      · simp
    · rename_i none
      split
      · exact h.addAnswer room ..
      · rename_i few
        exact h.startJob (by simpa [jobTerminals] using Nat.le_of_lt_succ (Nat.lt_of_not_le few))
          (mt (jobOf_isSome_iff ..).2 none)

theorem Fits.clearAttention (room : answersHeld s < 4) (head : QueryHead) (causes : BitVec 16) :
    Fits (clearAttention head causes s) := by
  have cleared : Fits (s.setRetr { s.retr with flags := clearFlags s.retr.flags causes }) := by apply h.next <;> simp
  exact cleared.addAnswer room ..

theorem Fits.configBlock (room : answersHeld s < 4) (head : QueryHead) (offset : BitVec 16) (data : List Byte) :
    Fits (configBlock head offset data s) := by
  unfold Machine.configBlock
  split
  · exact h.addAnswer room ..
  · split
    · have written : Fits (setStaging (overwrite s.supply.staging offset.toNat data) s) := by apply h.next <;> simp
      exact written.addAnswer room ..
    · exact h.addAnswer room ..

/-- A commit holds the place of its answer from its start (R183). -/
theorem Fits.configCommit (room : answersHeld s < 4) (head : QueryHead) (length check : BitVec 16) :
    Fits (configCommit head length check s) := by
  unfold Machine.configCommit
  split
  · exact h.addAnswer room ..
  · rename_i idle
    split
    · exact h.addAnswer room ..
    · split
      · exact h.addAnswer room ..
      · apply h.next
        case answers => simpa [AnswersFit, startCommit, answersHeld, not_not.1 idle] using fun _ => Nat.succ_le_of_lt room
        all_goals simp

/-! ## The commit, the flash and the supply -/

theorem Fits.finishCommit (r : ConfigResult) : Fits (finishCommit r s) := by
  unfold Machine.finishCommit
  split
  · rename_i terminal tag inFlight
    apply h.next
    case answers => exact fun a => by simpa [AnswersFit, Machine.addAnswer, inFlight] using a
    all_goals simp
  · apply h.next <;> simp

theorem Fits.cutFlash (good : Bool) : Fits (cutFlash good s) := by
  unfold Machine.cutFlash
  split
  · exact h
  · exact h.programEnd good
  · apply h.next <;> simp
  · apply h.next <;> simp
  · apply h.next <;> simp

theorem Fits.cutSupply : Fits (cutSupply s) := by
  apply h.next
  case answers =>
    intro a
    simp only [Machine.cutSupply, AnswersFit, State.setSupply_retr, State.setSupply_supply] at a ⊢
    split at a <;> simp <;> omega
  all_goals simp

/-- What a supply failure and RESET do first. -/
theorem Fits.cutOff (good : Bool) : Fits (portOff (Machine.cutSupply (Machine.cutFlash good s))) := by
  apply (h.cutFlash good).cutSupply.next <;> simp

theorem Fits.dropSilentJobs : Fits (dropSilentJobs s) := by
  have each (l : List Nat) : ∀ {u : State}, Fits u → Fits (l.foldl (fun t n => Machine.removeJob n t) u) := by
    induction l with
    | nil => exact fun hu => hu
    | cons n l ih => exact fun hu => ih (hu.removeJob n)
  exact each _ h

theorem Fits.dropAged : Fits (dropAged s) := by
  apply h.next
  case witness => exact fun ⟨jobs, marks, ranges⟩ => ⟨jobs, (List.length_filter_le ..).trans marks, ranges⟩
  all_goals simp

theorem Fits.transmitted (q : TxQueue) : Fits (transmitted q s) := by
  apply h.next
  case queues => exact transmitted_queues q s
  case outbound => exact (transmitted_outbound q s).trans
  all_goals simp

theorem Fits.warmState : Fits (warmState s) := by
  apply h.next
  case gapList => exact warmState_gapList
  all_goals simp

/-! ## Placing (R122) -/

theorem Fits.placeRelease (room : s.port.recordQ.length < 4) (e : OutEntry) : Fits (placeRelease e s) := by
  apply h.next
  case queues => exact fun ⟨_, gapQ, answerQ⟩ =>
    ⟨by simpa [Machine.placeRelease] using room, by simpa using gapQ, by simpa using answerQ⟩
  case outbound => simp [Machine.placeRelease, modifyFirst_length]
  all_goals simp

theorem Fits.advanceBackfill : Fits (advanceBackfill s) := by
  apply h.next
  case witness => exact advanceBackfill_witness
  case reads => exact (advanceBackfill_kept s).fit
  all_goals simp

theorem Fits.placeBackfill (room : s.port.recordQ.length < 4) (r : Rec) : Fits (placeBackfill r s) := by
  have placed : Fits (s.setPort { s.port with recordQ := s.port.recordQ ++ [⟨r, true⟩] }) := by
    apply h.next
    case queues => exact fun ⟨_, gapQ, answerQ⟩ => ⟨by simpa using room, gapQ, answerQ⟩
    all_goals simp
  exact placed.advanceBackfill.flashIdle

theorem Fits.placeGap (room : s.port.gapQ.length < 2) (o : Origin) (g : Gap) : Fits (placeGap o g s) := by
  apply h.next
  case queues => exact fun ⟨recordQ, _, answerQ⟩ =>
    ⟨by simpa using recordQ, by simpa [Machine.placeGap] using room, by simpa using answerQ⟩
  all_goals simp

theorem Fits.placeAnswer (room : s.port.answerQ.length < 4) (t : AnswerTel) : Fits (placeAnswer t s) := by
  apply h.next
  case queues => exact fun ⟨recordQ, gapQ, _⟩ => ⟨recordQ, gapQ, by simpa [Machine.placeAnswer] using room⟩
  all_goals simp

theorem Fits.afterPlaced {j : Job} (stands : j.terminal ∈ jobTerminals s) (a : Answer) (skip : Bool) :
    Fits (afterPlaced j a skip s) := by
  unfold Machine.afterPlaced
  split
  · exact h.removeJob _
  · exact h.workJob stands
  · exact h.workJob stands

/-! ## Time -/

theorem Fits.roundAction (c : Int) (reference : Bool) (ended : s.tb.catchUp = false) :
    Fits (roundAction c reference s) := by
  have corrected (d : Int) (t : Timebase) (gaps : t.gaps = s.tb.gaps) (peers : t.peers = s.tb.peers) :
      Fits (s.setTb (correct d t)) := by
    apply h.next
    case gapList => exact fun g => .of_none (gaps.trans (g.2.1 ended))
    case peers => exact fun p => shiftTime_peers d (peers ▸ p)
    all_goals simp
  have stepped : Fits (applyStep c s) := by
    obtain ⟨jobs, answers⟩ := applyStep_lists c s
    apply h.next
    case gapList => exact fun g => applyStep_gapList c g ended
    case peers => exact applyStep_peers c
    case reads => simp [jobs]
    case answers => simp [answers]
    all_goals simp
  unfold Machine.roundAction
  dsimp only
  split
  · exact corrected _ _ rfl rfl
  · split
    · exact corrected _ _ rfl rfl
    · split
      · exact stepped
      · split
        · exact stepped
        · exact corrected _ _ rfl rfl

theorem Fits.agreementRound (ended : s.tb.catchUp = false) : Fits (agreementRound s) := by
  unfold Machine.agreementRound
  split
  · exact h.roundAction _ _ ended
  · apply h.next <;> simp

theorem Fits.tick : Fits (tick s) := by
  have counted (t : Timebase) (p : Nat) : (countPlant s.cfg.own t p).gaps = t.gaps
      ∧ (countPlant s.cfg.own t p).catchUp = t.catchUp ∧ (countPlant s.cfg.own t p).peers = t.peers := by
    unfold countPlant
    dsimp only
    (repeat' split) <;> exact ⟨rfl, rfl, rfl⟩
  have begun {u : State} (hu : Fits u) : Fits (beginCatchUp (Machine.thaw u)) := by
    apply hu.thaw.next
    case gapList => exact beginCatchUp_gapList
    all_goals simp
  unfold Machine.tick
  dsimp only
  split
  · rename_i p _
    obtain ⟨gaps, catchUp, peers⟩ := counted s.tb p
    apply begun
    apply h.next
    case gapList => simp [gaps, catchUp]
    case peers => simp [peers]
    all_goals simp
  · exact begun (by apply h.next <;> simp)

end

end Sys2Proof.Machine
end

section
/-! O42, EveryStepKeepsTheCapacities: the cold start, every command, and the tick. -/

namespace Sys2Proof.Machine

/-! ## The cold start (R179, R180) -/

theorem coldRam_fits (cfg : Settings) (s : State) : Fits (coldRam cfg s) where
  queues := by simp [coldRam, State.reset, QueuesFit]
  witness := by simp [coldRam, State.reset, WitnessFits]
  gapList := .of_none (by simp only [coldRam, coldTimebase]; split <;> rfl)
  peers := by simp only [coldRam, coldTimebase]; split <;> simp [PeersFit]
  reads := by simp [coldRam, State.reset, ReadsFit, jobTerminals]
  answers := by simp [coldRam, State.reset, AnswersFit]
  outbound := by simp [coldRam]

theorem scanRecords_appends {s : State} (h : AppendsFit s) (recs : List Rec) : AppendsFit (scanRecords recs s) := by
  unfold scanRecords
  dsimp only
  split
  · refine AppendsFit.congr (pendingCloses_appends ?_ _ _) ⟨rfl, rfl⟩
    exact h.congr (by simp)
  · exact h

theorem Fits.scan {s : State} (h : Fits s) (empty : s.arch.outbound = []) : Fits (scan s) := by
  have formed : Fits (formRows (s.setSupply { s.supply with station := some .scan })) := by
    apply h.next
    case witness => exact fun _ => by simp [WitnessFits, formRows]
    all_goals simp
  have read : Fits (scanFlash (formRows (s.setSupply { s.supply with station := some .scan }))) := by
    apply formed.next <;> simp
  have fits : AppendsFit (scanFlash (formRows (s.setSupply { s.supply with station := some .scan }))) :=
    ⟨read.queues.1, by simp [empty]; exact ⟨by simp, by simp, by simp⟩⟩
  unfold Machine.scan
  dsimp only
  generalize scanFlash (formRows (s.setSupply { s.supply with station := some .scan })) = u at read fits
  have scanned : Fits (scanRecords (ownRecords u) u) := by
    apply read.next
    case queues => exact fun q => ⟨(scanRecords_appends fits _).1, by simpa using q.2⟩
    case outbound => exact fun _ => (scanRecords_appends fits _).2.length
    all_goals simp
  apply scanned.retentionTest.next <;> simp

theorem coldStart_fits (svc : Bool) (s : State) : Fits (coldStart svc s) := by
  have ram := coldRam_fits (loadedSettings (storedImage s)) s
  unfold coldStart
  dsimp only
  split
  · exact Fits.portOn (by apply ram.next <;> simp)
  · split
    · refine Fits.flashIdle ?_
      unfold endScan
      split
      · exact (ram.scan rfl).enterCatchUp
      · apply (ram.scan rfl).next <;> simp
    · exact Fits.portOn (by apply ram.next <;> simp)

/-! ## Every command -/

/-- The state that a command answers is within its capacities. -/
def NextFits (o : Host.Outcome State Fault Refusal) : Prop := ∀ t, o = .next t → Fits t

@[simp] theorem nextFits_next (t : State) : NextFits (.next t) ↔ Fits t :=
  ⟨fun h => h t rfl, by rintro h _ ⟨⟩; exact h⟩

/-- A command with two outcomes. -/
theorem nextFits_ite {c : Prop} [Decidable c] {t s : State} (h : Fits s) (ht : c → Fits t) :
    NextFits (if c then .next t else .next s) := by
  split
  · exact (nextFits_next t).2 (ht ‹_›)
  · exact (nextFits_next s).2 h

/-- Every telegram and query keeps the capacities. -/
theorem exec_telegram_fits (c : Instr) {s : State} (h : Fits s) (telegram : c.sender ≠ none) : NextFits (exec c s) := by
  cases c with
  | receiveReading => exact (nextFits_next _).2 (deliver_fits h (by apply h.next <;> simp) _ _)
  | receiveTime => exact (nextFits_next _).2 (deliver_fits h (h.takeTime ..) _ _)
  | receiveRecord => exact (nextFits_next _).2 (deliver_fits h (h.takeRecord ..) _ _)
  | receiveMark => exact (nextFits_next _).2 (deliver_fits h (h.takeMark ..) _ _)
  | receiveGap => exact (nextFits_next _).2 (deliver_fits h (h.takeGap ..) _ _)
  | receivePresence => exact (nextFits_next _).2 (deliver_fits h ((h.heardPresence _).witnessPresence ..) _ _)
  | read => exact (nextFits_next _).2 (query_fits h (fun room => h.admitJob room _) ..)
  | readYear => exact (nextFits_next _).2 (query_fits h (fun room => h.admitJob room _) ..)
  | condition => exact (nextFits_next _).2 (query_fits h (fun room => h.addAnswer room ..) ..)
  | clearAttention => exact (nextFits_next _).2 (query_fits h (fun room => h.clearAttention room ..) ..)
  | configBlock => exact (nextFits_next _).2 (query_fits h (fun room => h.configBlock room ..) ..)
  | configCommit => exact (nextFits_next _).2 (query_fits h (fun room => h.configCommit room ..) ..)
  | _ => exact absurd rfl telegram

theorem exec_fits (c : Instr) {s : State} (h : Fits s) (o : OutboundFits s.arch.outbound) : NextFits (exec c s) := by
  by_cases telegram : c.sender = none
  swap
  · exact exec_telegram_fits c h telegram
  have same : NextFits (.next s) := (nextFits_next s).2 h
  cases c with
  | establishmentWindowEnd =>
    simp only [exec, execEstablishmentWindowEnd]
    split
    · exact nextFits_ite h fun _ => h.adopt _
    · exact same
  | receiveError => exact nextFits_ite h fun _ => h.countUp ..
  | stationClash => exact nextFits_ite h fun _ => (h.countUp ..).raiseCause _
  | commitFlashComplete good =>
    simp only [exec, execCommitFlashComplete]
    split
    · rw [nextFits_next]
      split
      · apply h.next <;> simp
      · exact Fits.finishCommit (by apply h.next <;> simp) _
    · rename_i page _
      have programmed : Fits (programImagePage page good s) := by apply h.next <;> simp
      rw [nextFits_next]
      split
      · split
        · apply programmed.next <;> simp
        · exact programmed.finishCommit _
      · exact Fits.finishCommit (by apply programmed.next <;> simp) _
    · exact same
  | busIdle => exact nextFits_ite h fun _ => by apply h.next <;> simp
  | arbitrationLost =>
    simp only [exec, execArbitrationLost]
    split
    · rw [nextFits_next]
      apply h.next
      case queues => exact id
      all_goals simp
    · exact same
  | transmitComplete =>
    simp only [exec, execTransmitComplete]
    split
    · have ended : Fits (s.setPort { s.port with onLine := none, errorRun := 0 }) := by
        apply h.next
        case queues => exact id
        all_goals simp
      exact (nextFits_next _).2 (ended.transmitted _)
    · exact same
  | transmitError =>
    simp only [exec, execTransmitError]
    split
    · have ended : Fits (s.setPort { s.port.lineEnded with errorRun := s.port.errorRun + 1 }) := by
        apply h.next
        case queues => exact id
        all_goals simp
      rw [nextFits_next]
      split
      · apply ended.next <;> simp
      · exact ended
    · exact same
  | silentEnd => exact nextFits_ite h fun _ => by apply h.next <;> simp
  | timeSend => exact nextFits_ite h fun _ => by apply h.next <;> simp
  | presenceSend =>
    simp only [exec, execPresenceSend]
    split
    · exact nextFits_ite h fun _ => by apply h.next <;> simp
    · exact same
  | agreementRound =>
    refine nextFits_ite h fun ⟨_, _, _, ended⟩ => Fits.agreementRound ?_ ended
    apply h.next <;> simp
  | minuteBoundary =>
    simp only [exec, execMinuteBoundary]
    split
    · exact same
    · exact nextFits_ite h fun _ => (h.closing ⟨h.queues.1, o⟩ _).flashIdle.endCatchUp
  | programComplete good =>
    simp only [exec, execProgramComplete]
    split
    · exact (nextFits_next _).2 (h.programEnd good).flashIdle
    · exact same
  | eraseComplete good =>
    simp only [exec, execEraseComplete]
    split
    · have ended : Fits (eraseEnd good s) := by apply h.next <;> simp
      exact (nextFits_next _).2 ended.flashIdle
    · exact same
  | recordRelease =>
    simp only [exec, execRecordRelease]
    split
    · exact same
    · exact nextFits_ite h fun ⟨_, room, _⟩ => h.placeRelease room _
  | backfillPlace =>
    simp only [exec, execBackfillPlace]
    split
    · exact nextFits_ite h fun ⟨_, room, _⟩ => h.placeBackfill room _
    · exact same
  | gapPlace =>
    simp only [exec, execGapPlace]
    split
    · split
      · exact nextFits_ite h fun ⟨_, room, _⟩ => h.placeGap room ..
      · exact same
    · exact same
  | pendingAnswerPlace =>
    simp only [exec, execPendingAnswerPlace]
    split
    · exact same
    · rename_i a rest answers
      have taken : Fits (s.setRetr { s.retr with answers := rest }) := by
        apply h.next
        case answers =>
          rw [answers]
          exact (Nat.add_le_add_right (Nat.le_succ _) _).trans
        all_goals simp
      exact nextFits_ite h fun ⟨_, room, _⟩ => taken.placeAnswer room _
  | jobAnswerPlace =>
    simp only [exec, execJobAnswerPlace]
    split
    · exact same
    · rename_i j found
      split
      · refine nextFits_ite h fun ⟨_, room, _⟩ => ((h.placeAnswer room _).afterPlaced ?_ ..).flashIdle
        exact List.mem_map_of_mem (jobOf_mem s _ j found).1
      · exact same
  | gapExpiry =>
    simp only [exec, execGapExpiry]
    split
    · exact nextFits_ite h fun _ => (h.setOrigin _).testGaps
    · exact same
  | markEntryExpiry =>
    simp only [exec, execMarkEntryExpiry]
    split
    · exact same
    · rw [nextFits_next]
      apply h.next
      case witness => exact fun ⟨jobs, marks, ranges⟩ =>
      ⟨jobs, (List.length_filter_le ..).trans marks, ranges⟩
      all_goals simp
  | witnessLagHoldoffEnd => exact nextFits_ite h fun _ => (by
      apply h.next
      case witness => exact id
      all_goals simp)
  | jobSilenceExpiry =>
    simp only [exec, execJobSilenceExpiry]
    split
    · exact same
    · exact nextFits_ite h fun _ => h.removeJob _
  | supplyFail good =>
    simp only [exec, execSupplyFail]
    split
    · exact same
    · exact same
    · rw [nextFits_next]
      apply (h.cutOff good).next
      case gapList => exact id
      case peers => exact id
      all_goals simp
  | supplySenseRise =>
    simp only [exec, execSupplySenseRise]
    split
    · exact same
    · exact (nextFits_next _).2 (by apply h.next <;> simp)
  | supplySenseBounce => exact nextFits_ite h fun _ => by apply h.next <;> simp
  | supplyReturn =>
    simp only [exec, execSupplyReturn]
    split
    · split
      · exact (nextFits_next _).2 h.warmState.dropSilentJobs.dropAged.retentionTest.flashIdle.endCatchUp
      · exact (nextFits_next _).2 (by apply h.next <;> simp)
    · exact same
  | resetAssert good =>
    simp only [exec, execResetAssert]
    split
    · exact same
    · exact (nextFits_next _).2 (by
        apply (h.cutOff good).next <;> simp)
  | resetRelease => exact nextFits_ite h fun _ => by apply h.next <;> simp
  | coldStart => exact nextFits_ite h fun _ => coldStart_fits ..
  | backupCellRanOut => exact nextFits_ite h fun _ => by apply h.next <;> simp
  | _ => exact absurd telegram (by simp [Instr.sender])

/-- Settles O42: the tick, and the command at the front of the queue, keep the capacities of every block. -/
theorem everyStepKeepsTheCapacities : Obligations.EveryStepKeepsTheCapacities := by
  intro s t within order answer
  rw [withinCapacities_iff] at within ⊢
  unfold step at answer
  split at answer
  · rename_i c rest _
    have fits : Fits (s.setPending rest) := ⟨within.queues, within.witness, within.gapList, within.peers, within.reads,
      within.answers, within.outbound⟩
    exact exec_fits c fits (order.outboundFits within.outbound) t answer
  · cases answer
    exact within.tick

end Sys2Proof.Machine
end

section
/-! Supply events in HOLD and in reset (O55), TIME telegrams sent and received (O19, O16), and the tick (O2). -/

namespace Sys2Proof.Machine

/-! ## Supply events in HOLD and in reset (R177, R179) -/

theorem awaitsSupply_iff {s : State} :
    awaitsSupply s = true ↔ s.supply.station = none ∨ s.supply.station = some .hold := by
  simp [awaitsSupply]

/-- Settles O55: each of the three events changes what its definition writes, and nothing else. -/
theorem supplyEventsWhileThePartWaits : Obligations.SupplyEventsWhileThePartWaits := by
  refine ⟨fun s => ⟨fun low => ?_, fun waits high => ?_⟩, fun s waits => ?_⟩
  · simp [exec, execSupplySenseRise, low]
  · simp [exec, execSupplySenseBounce, awaitsSupply_iff.2 waits, high]
  · simp [exec, execBackupCellRanOut, awaitsSupply_iff.2 waits]

/-! ## TIME telegrams sent and received (R107, R109) -/

theorem timeKnown_iff {s : State} : timeKnown s = true ↔ s.tb.state ≠ .unset := by
  simp [timeKnown]

/-- While an entry is on the line a newer telegram is held aside (R122). -/
theorem OneQueue.place_aside {α : Type} (x : α) {q : OneQueue α} (h : q.entry ≠ none) :
    q.place true x = { q with aside := some x } := by
  simp [OneQueue.place, Option.isSome_iff_ne_none.2 h]

/-- A queue without an entry takes the telegram whatever is on the line (R122). -/
theorem OneQueue.place_empty {α : Type} (x : α) (onLine : Bool) {q : OneQueue α} (h : q.entry = none) :
    q.place onLine x = { entry := some x, aside := none } := by
  simp [OneQueue.place, h]

/-- Settles O19: the TIME queue places the telegram as every one-entry queue does. -/
theorem timeSendPlacesATimeTelegram : Obligations.TimeSendPlacesATimeTelegram := by
  intro s due here known s1
  have sent : exec .timeSend s =
      .next (s1.setPort { s.port with timeQ := s.port.timeQ.place (isOnLine s.port .time) false }) :=
    if_pos ⟨due, running_iff.2 here, timeKnown_iff.2 known⟩
  rw [sent]
  refine ⟨?_, fun onLine entry => ?_⟩
  · rintro (free | empty)
    · rw [free, OneQueue.place_free]
    · rw [OneQueue.place_empty _ _ empty]
  · rw [onLine, OneQueue.place_aside _ entry]

theorem exec_receiveTime_hears {s : State} {sender : BitVec 5} (hears : Hears s sender) (seconds : BitVec 32)
    (ticks : BitVec 16) (reference : Bool) :
    exec (.receiveTime sender seconds ticks reference) s = .next (takeTime sender seconds ticks reference s) :=
  congrArg _ (deliver_hears hears _)

/-- A TIME past the end of plant time is not taken (R109, R115). -/
theorem takeTime_late {seconds : BitVec 32} {ticks : BitVec 16}
    (late : Config.plantTimeEnd < seconds.toNat * 1024 + ticks.toNat)
    (sender : BitVec 5) (reference : Bool) (s : State) : takeTime sender seconds ticks reference s = s :=
  if_pos late

theorem takeTime_unset {seconds : BitVec 32} {ticks : BitVec 16} {s : State}
    (inTime : seconds.toNat * 1024 + ticks.toNat ≤ Config.plantTimeEnd) (unset : s.supply.station = some .timeUnset)
    (sender : BitVec 5) (reference : Bool) : takeTime sender seconds ticks reference s =
      collectTime sender.toNat (seconds.toNat * 1024 + ticks.toNat) reference s :=
  (if_neg (Nat.not_lt.2 inTime)).trans (if_pos unset)

theorem CatchingUpOrRecording.not_timeUnset {s : State} (h : CatchingUpOrRecording s) :
    s.supply.station ≠ some .timeUnset := by
  rcases h with e | e <;> simp [e]

theorem takeTime_known {seconds : BitVec 32} {ticks : BitVec 16} {s : State}
    (inTime : seconds.toNat * 1024 + ticks.toNat ≤ Config.plantTimeEnd) (here : CatchingUpOrRecording s)
    (known : s.tb.state ≠ .unset) (sender : BitVec 5) (reference : Bool) : takeTime sender seconds ticks reference s =
      takeOffset sender.toNat (seconds.toNat * 1024 + ticks.toNat) reference s :=
  (if_neg (Nat.not_lt.2 inTime)).trans ((if_neg here.not_timeUnset).trans
    (if_pos ⟨running_iff.2 here, timeKnown_iff.2 known⟩))

theorem takeTime_elsewhere {s : State} (set : s.supply.station ≠ some .timeUnset)
    (deaf : ¬ CatchingUpOrRecording s ∨ s.tb.state = .unset) (sender : BitVec 5) (seconds : BitVec 32)
    (ticks : BitVec 16) (reference : Bool) : takeTime sender seconds ticks reference s = s := by
  have off : ¬ (running s = true ∧ timeKnown s = true) := by
    rw [running_iff, timeKnown_iff]
    tauto
  simp [takeTime, set, off]

/-- Settles O16: by the kind of the sender. -/
theorem timeTelegramStoresItsOffset : Obligations.TimeTelegramStoresItsOffset := by
  refine ⟨fun sender seconds ticks reference s hears ignored => ?_,
    fun sender seconds ticks reference s own hears here known plant inTime => ?_⟩
  · rw [exec_receiveTime_hears hears]
    rcases ignored with late | ⟨set, deaf⟩
    · rw [takeTime_late late]
    · rw [takeTime_elsewhere set deaf]
  · rw [exec_receiveTime_hears hears, takeTime_known inTime here known]
    refine ⟨fun recorder => ?_, fun terminal flagged => ?_, fun terminal clear => ?_, ?_⟩
    · simp [takeOffset, recorder, storeOffset, plant]
    · simp [takeOffset, terminal, flagged, plant]
    · simp [takeOffset, terminal, clear]
    · rintro (source | absent)
      · simp [takeOffset, source]
      · simp [takeOffset, absent]

/-! ## The tick (R101, R102, R106 to R108) -/

/-- Plant time at its upper end stays there (R101). -/
theorem countPlant_end {p : Nat} (h : Config.plantTimeEnd ≤ p) (own : Nat) (t : Timebase) :
    countPlant own t p = { t with dues := {} } := if_pos h

/-- A tick that passes no whole second makes nothing due. -/
theorem countPlant_between {p : Nat} (h : p < Config.plantTimeEnd) (between : (p + 1) % 1024 ≠ 0) (own : Nat)
    (t : Timebase) :
    countPlant own t p = { t with plant := some (p + 1), dues := {} } :=
  (if_neg (Nat.not_le.2 h)).trans (if_neg between)

/-- A whole second passed makes its actions due, unless they were taken before a correction put it back (R108). -/
theorem countPlant_second {p : Nat} (h : p < Config.plantTimeEnd) (whole : (p + 1) % 1024 = 0) (own : Nat)
    (t : Timebase) :
    countPlant own t p = { t with
      plant := some (p + 1), taken := none
      dues := if t.taken = some ((p + 1) / 1024) then {} else duesOf own ((p + 1) / 1024) } := by
  refine (if_neg (Nat.not_le.2 h)).trans ((if_pos whole).trans ?_)
  by_cases again : t.taken = some ((p + 1) / 1024)
  · exact (if_pos again).trans (by simp [again])
  · exact (if_neg again).trans (by simp [again])

/-- The timebase with one tick counted, before a freeze ends and a catch-up begins. -/
def counted (s : State) : Timebase :=
  match s.tb.plant with
  | some p => countPlant s.cfg.own s.tb p
  | none => { s.tb with dues := elapsedDues (s.setElapsed (s.elapsed + 1)) }

theorem counted_of_plant {s : State} {p : Nat} (h : s.tb.plant = some p) :
    counted s = countPlant s.cfg.own s.tb p := by
  simp [counted, h]

/-- Without a plant time PRESENCE falls due each minute since the port became ACTIVE (R145). -/
theorem elapsedDues_eq (s : State) : elapsedDues s = {
    presence := decide (s.port.state ≠ .off ∧ 0 < s.elapsed - s.port.activeSince
      ∧ (s.elapsed - s.port.activeSince) % 61440 = 0) } := by
  refine congrArg (fun b => ({ presence := b } : Dues)) (Bool.eq_iff_iff.2 ?_)
  simp [receives, since, Config.ticksPerMinute, and_assoc]

theorem tick_eq (s : State) : tick s = beginCatchUp (thaw ((s.setElapsed (s.elapsed + 1)).setTb (counted s))) := by
  cases plant : s.tb.plant <;> simp [tick, counted, plant]

theorem minuteDue_iff_exists {t : Timebase} :
    minuteDue t = true ↔ ∃ p c, t.plant = some p ∧ t.closed = some c ∧ (c + 60) * 1024 ≤ p := by
  unfold minuteDue
  split
  · rename_i p c hp hc
    simp [hp, hc]
  · rename_i no
    simpa using fun p hp c hc => (no p c hp hc).elim

theorem twoDue_iff_exists {t : Timebase} :
    twoDue t = true ↔ ∃ p c, t.plant = some p ∧ t.closed = some c ∧ (c + 120) * 1024 ≤ p := by
  unfold twoDue
  split
  · rename_i p c hp hc
    simp [hp, hc]
  · rename_i no
    simpa using fun p hp c hc => (no p c hp hc).elim

theorem inReset_eq_false_iff {s : State} : inReset s = false ↔ s.supply.station ≠ none := by
  simp [inReset, Option.isSome_iff_ne_none]

/-- What ends a freeze at a tick (R102): a minute is due, outside HOLD and reset. -/
def Thaws (s : State) : Prop :=
  s.tb.state = .frozen ∧ minuteDue s.tb = true ∧ s.supply.station ≠ none ∧ s.supply.station ≠ some .hold

theorem thaw_eq (s : State) : ∃ state, thaw s = s.setTb { s.tb with state := state }
    ∧ (Thaws s → state = .running) ∧ (¬ Thaws s → state = s.tb.state) := by
  by_cases h : Thaws s
  · obtain ⟨frozen, due, station, hold⟩ := h
    exact ⟨.running, if_pos ⟨frozen, due, hold, inReset_eq_false_iff.2 station⟩, fun _ => rfl,
      fun no => absurd ⟨frozen, due, station, hold⟩ no⟩
  · refine ⟨s.tb.state, if_neg ?_, fun yes => absurd yes h, fun _ => rfl⟩
    exact fun ⟨frozen, due, hold, reset⟩ => h ⟨frozen, due, inReset_eq_false_iff.1 reset, hold⟩

theorem beginCatchUp_eq (s : State) : ∃ catchUp, beginCatchUp s = s.setTb { s.tb with catchUp := catchUp }
    ∧ (catchUp = true ↔ s.tb.catchUp = true
        ∨ (CatchingUpOrRecording s ∧ s.tb.state = .running ∧ twoDue s.tb = true)) := by
  by_cases h : running s = true ∧ s.tb.state = .running ∧ twoDue s.tb = true
  · exact ⟨true, if_pos h, by simp [← running_iff, h]⟩
  · exact ⟨s.tb.catchUp, if_neg h, by simp [← running_iff, h]⟩

theorem counted_plant (s : State) :
    (counted s).plant = s.tb.plant.map (fun p => if p < Config.plantTimeEnd then p + 1 else p) := by
  cases plant : s.tb.plant with
  | none => simp [counted, plant]
  | some p =>
    rw [counted_of_plant plant]
    by_cases h : p < Config.plantTimeEnd
    · by_cases whole : (p + 1) % 1024 = 0
      · simp [countPlant_second h whole, h]
      · simp [countPlant_between h whole, h]
    · simp [countPlant_end (Nat.le_of_not_lt h), plant, h]

/-- A tick that passes no whole second leaves the second that a correction put back (R108). -/
theorem counted_taken {s : State}
    (no : ∀ p, s.tb.plant = some p → Config.plantTimeEnd ≤ p ∨ (p + 1) % 1024 ≠ 0) :
    (counted s).taken = s.tb.taken := by
  cases plant : s.tb.plant with
  | none => simp [counted, plant]
  | some p =>
    rw [counted_of_plant plant]
    by_cases h : p < Config.plantTimeEnd
    · rw [countPlant_between h ((no p plant).resolve_left (Nat.not_le.2 h))]
    · rw [countPlant_end (Nat.le_of_not_lt h)]

/-- No action falls due at the end of plant time, between whole seconds, and at one taken before (R108). -/
theorem counted_dues_none {s : State} {p : Nat} (plant : s.tb.plant = some p)
    (no : Config.plantTimeEnd ≤ p ∨ (p + 1) % 1024 ≠ 0 ∨ s.tb.taken = some ((p + 1) / 1024)) :
    (counted s).dues = {} := by
  rw [counted_of_plant plant]
  by_cases h : p < Config.plantTimeEnd
  · by_cases whole : (p + 1) % 1024 = 0
    · have again := (no.resolve_left (Nat.not_le.2 h)).resolve_left (not_not.2 whole)
      simp [countPlant_second h whole, again]
    · rw [countPlant_between h whole]
  · rw [countPlant_end (Nat.le_of_not_lt h)]

/-- Counting changes plant time, the dues and the taken second only. -/
theorem counted_frame (s : State) : counted s = { s.tb with
    plant := (counted s).plant, dues := (counted s).dues, taken := (counted s).taken } := by
  unfold counted
  split
  · unfold countPlant
    dsimp only
    (repeat' split) <;> rfl
  · rfl

/-- Settles O2: one tick is counted, a freeze ends, a catch-up begins. -/
theorem emptyQueueStepCountsOneTick : Obligations.EmptyQueueStepCountsOneTick := by
  intro s empty
  obtain ⟨state, thawed, runs, stays⟩ := thaw_eq ((s.setElapsed (s.elapsed + 1)).setTb (counted s))
  obtain ⟨catchUp, begun, begins⟩ := beginCatchUp_eq (thaw ((s.setElapsed (s.elapsed + 1)).setTb (counted s)))
  rw [thawed] at begun begins
  have stepped : step s = .next ((s.setElapsed (s.elapsed + 1)).setTb
      { counted s with state := state, catchUp := catchUp }) := by
    unfold step
    rw [empty]
    exact congrArg _ ((tick_eq s).trans (thawed ▸ begun))
  have frame := counted_frame s
  have closed : (counted s).closed = s.tb.closed := by rw [frame]
  have before : (counted s).state = s.tb.state := by rw [frame]
  have caught : (counted s).catchUp = s.tb.catchUp := by rw [frame]
  simp only [Thaws, CatchingUpOrRecording, minuteDue_iff_exists, twoDue_iff_exists, State.setTb_tb, State.setTb_supply,
    State.setElapsed_supply, closed, before, caught] at runs stays begins
  refine ⟨_, stepped, counted_plant s, by rw [frame], ⟨runs, stays, begins⟩, ?_, counted_taken,
    fun p plant => ⟨fun h whole again => ?_, counted_dues_none plant⟩, fun none => ?_⟩
  · rintro ⟨p, plant, h, whole⟩
    rw [counted_of_plant plant, countPlant_second h whole]
  · simp [counted_of_plant plant, countPlant_second h whole, again, duesOf, beq_eq_decide]
  · simp only [counted, none]
    exact elapsedDues_eq (s.setElapsed (s.elapsed + 1))

end Sys2Proof.Machine
end

section
/-! The middle of a list, and CATCH_UP entered while the port is on. -/

namespace Sys2Proof.Machine

/-! ## The middle of a list (R111, R115) -/

theorem insertSorted_eq (x : Int) (l : List Int) : insertSorted x l = l.orderedInsert (· ≤ ·) x := by
  induction l with
  | nil => rfl
  | cons y r ih => rw [insertSorted, ih, List.orderedInsert_cons]

theorem sortInts_eq (l : List Int) : sortInts l = l.insertionSort (· ≤ ·) := by
  induction l with
  | nil => rfl
  | cons x r ih => rw [sortInts, ih, insertSorted_eq, List.insertionSort_cons]

/-- The entry at place i of an ascending list: at most i entries lie below it, and more than i do not exceed it. -/
theorem countP_at_place {l : List Int} (ascending : l.Pairwise (· ≤ ·)) {i : Nat} (h : i < l.length) :
    l.countP (fun x => decide (x < l[i])) ≤ i ∧ i + 1 ≤ l.countP (fun x => decide (x ≤ l[i])) := by
  have below : ∀ x ∈ l.take (i + 1), x ≤ l[i] := fun x hx => by
    obtain ⟨j, hj, rfl⟩ := List.mem_take_iff_getElem.1 hx
    rcases Nat.lt_or_eq_of_le (Nat.le_of_lt_succ (Nat.lt_of_lt_of_le hj (Nat.min_le_left ..))) with less | rfl
    · exact List.pairwise_iff_getElem.1 ascending j i _ h less
    · exact le_refl _
  have above : ∀ x ∈ l.drop i, l[i] ≤ x := fun x hx => by
    obtain ⟨j, hj, rfl⟩ := List.mem_drop_iff_getElem.1 hx
    rcases Nat.eq_zero_or_pos j with rfl | more
    · exact le_refl _
    · exact List.pairwise_iff_getElem.1 ascending i (i + j) h _ (by omega)
  generalize l[i] = m at below above
  constructor
  · have none : (l.drop i).countP (fun x => decide (x < m)) = 0 :=
      List.countP_eq_zero.2 fun x hx => by simpa using above x hx
    have few : (l.take i).countP (fun x => decide (x < m)) ≤ i :=
      (List.countP_le_length ..).trans (List.length_take_le ..)
    rw [← List.take_append_drop i l, List.countP_append, none]
    exact few
  · have all : (l.take (i + 1)).countP (fun x => decide (x ≤ m)) = i + 1 := by
      rw [List.countP_eq_length.2 fun x hx => by simpa using below x hx]
      simpa using h
    rw [← all]
    exact (List.take_sublist (i + 1) l).countP_le

/-- The lower middle of a list that is not empty is one of its entries, with fewer than half of them below it, and at
least half of them not above it. -/
theorem lowerMiddle_spec {l : List Int} (h : l ≠ []) : ∃ m, lowerMiddle l = some m ∧ m ∈ l
    ∧ l.countP (fun x => decide (x < m)) < (l.length + 1) / 2
    ∧ (l.length + 1) / 2 ≤ l.countP (fun x => decide (x ≤ m)) := by
  have sorted : (sortInts l).Pairwise (· ≤ ·) := by
    rw [sortInts_eq]
    exact List.pairwise_insertionSort ..
  have perm : (sortInts l).Perm l := by
    rw [sortInts_eq]
    exact List.perm_insertionSort ..
  have some := List.length_pos_iff.2 h
  have place : (l.length + 1) / 2 - 1 < (sortInts l).length := by
    rw [perm.length_eq]
    omega
  obtain ⟨less, most⟩ := countP_at_place sorted place
  rw [perm.countP_eq] at less most
  exact ⟨_, List.getElem?_eq_getElem place, perm.mem_iff.1 (List.getElem_mem place), by omega, by omega⟩

/-! ## CATCH_UP entered while the port is on (R115, R116) -/

/-- The supply unit and the timebase at the end of a catch-up are told from themselves. -/
theorem endCatchUp_congr {s t : State} (supply : s.supply = t.supply) (tb : s.tb = t.tb) :
    (endCatchUp s).supply = (endCatchUp t).supply ∧ (endCatchUp s).tb = (endCatchUp t).tb := by
  by_cases ended : t.tb.catchUp = true ∧ minuteDue t.tb = false
  · by_cases here : t.supply.station = some .catchUp
    · simp [endCatchUp, tb, supply, ended, here, enterRecording]
    · simp [endCatchUp, tb, supply, ended, here]
  · rw [endCatchUp_goes_on ended, endCatchUp_goes_on (tb ▸ ended)]
    exact ⟨supply, tb⟩

/-- What CATCH_UP is entered with does not depend on the port. -/
theorem enterCatchUp_setPort (p : Port) (s : State) :
    (enterCatchUp s).supply = (enterCatchUp (s.setPort p)).supply
    ∧ (enterCatchUp s).tb = (enterCatchUp (s.setPort p)).tb :=
  endCatchUp_congr (by simp) (by simp)

/-- T_c and the gap list follow the resume point also when the port is on (R116). -/
theorem enterCatchUp_enters_on {s : State} {p : Nat} (hp : s.tb.plant = some p) :
    EntersCatchUp s.year.resume p (enterCatchUp s) := by
  obtain ⟨supply, tb⟩ := enterCatchUp_setPort { s.port with state := .off } s
  exact EntersCatchUp.congr (enterCatchUp_enters (s := s.setPort { s.port with state := .off }) rfl hp) supply tb

theorem resumeTimebase_state (resume : Option Nat) (t : Timebase) : (resumeTimebase resume t).state ≠ .unset := by
  unfold resumeTimebase
  dsimp only
  (repeat' split) <;> nofun

theorem enterCatchUp_known (s : State) : (enterCatchUp s).tb.state ≠ .unset := by
  simpa [enterCatchUp] using resumeTimebase_state s.year.resume s.tb

theorem endCatchUp_here {s : State} (h : CatchingUpOrRecording s) : CatchingUpOrRecording (endCatchUp s) := by
  unfold endCatchUp
  split
  · dsimp only
    split
    · exact .inr (by simp [enterRecording])
    · exact h
  · exact h

theorem enterCatchUp_here (s : State) : CatchingUpOrRecording (enterCatchUp s) :=
  endCatchUp_here (.inl (by simp))

end Sys2Proof.Machine
end

section
/-! A time adopted in TIME_UNSET, from a reference (O17) or from the establishment window (O18). -/

namespace Sys2Proof.Machine

/-! ## A time is adopted (R115) -/

/-- Two states with the same blocks are the same. -/
theorem State.eq_of_blocks {s t : State}
    (h : t.supply = s.supply ∧ t.cfg = s.cfg ∧ t.port = s.port ∧ t.accs = s.accs ∧ t.minutes = s.minutes
      ∧ t.line = s.line ∧ t.avg = s.avg ∧ t.year = s.year ∧ t.tb = s.tb ∧ t.wit = s.wit ∧ t.arch = s.arch
      ∧ t.retr = s.retr ∧ t.elapsed = s.elapsed ∧ t.draws = s.draws ∧ t.pending = s.pending) : t = s := by
  cases s
  cases t
  simpa only [State.mk.injEq] using h

/-- What every adopted time p gives the part: the validity flag, nothing collected, and CATCH_UP entered by the resume
point; the flash then has its idle event. -/
structure Adopted (p : Nat) (s t : State) : Prop where
  plant : t.tb.plant = some p
  known : t.tb.state ≠ .unset
  clockValid : t.supply.clockValid = true
  stored : t.tb.stored = []
  window : t.tb.window = none
  stepCount : t.tb.stepCount = 0
  here : CatchingUpOrRecording t
  enters : EntersCatchUp s.year.resume p t
  flash : t.arch.flash = s.arch.flash
  latest : t.arch.latest = s.arch.latest
  idle : ∃ u, t = flashIdle u ∧ u.arch = s.arch
  frame : t = (((((s.setSupply t.supply).setTb t.tb).setPort t.port).setWit t.wit).setArch t.arch).setRetr t.retr

/-- The state with which CATCH_UP is entered when a time is adopted. -/
def adopting (time : Nat) (s : State) : State :=
  (s.setTb { s.tb with
    plant := some (min Config.plantTimeEnd time), state := .running, stored := [], window := none
    stepCount := 0 }).setSupply { s.supply with clockValid := true }

theorem adopt_eq (time : Nat) (s : State) : adopt time s = flashIdle (enterCatchUp (adopting time s)) := rfl

theorem adopt_adopted (time : Nat) (s : State) : Adopted (min Config.plantTimeEnd time) s (adopt time s) where
  plant := by simp [adopt]
  known := by simpa [adopt_eq] using enterCatchUp_known (adopting time s)
  clockValid := by simp [adopt]
  stored := by simp [adopt]
  window := by simp [adopt]
  stepCount := by simp [adopt]
  here := by simpa [adopt_eq, CatchingUpOrRecording] using enterCatchUp_here (adopting time s)
  enters := (enterCatchUp_enters_on (s := adopting time s) rfl).congr (by simp [adopt_eq]) (by simp [adopt_eq])
  flash := by simp
  latest := by simp
  idle := ⟨_, rfl, by simp⟩
  frame := State.eq_of_blocks (by simp)

theorem collectTime_reference {s : State} {sender : Nat} (terminal : stationKind s.cfg sender = .terminal) (time : Nat) :
    collectTime sender time true s = adopt (time + 2) s := by
  simp [collectTime, terminal]

/-- Settles O17: the time a reference gives is adopted. -/
theorem referenceTimeIsAdopted : Obligations.ReferenceTimeIsAdopted := by
  intro sender seconds ticks s hears unset terminal inTime
  have adopted := adopt_adopted (seconds.toNat * 1024 + ticks.toNat + 2) s
  rw [Nat.min_eq_right inTime] at adopted
  refine ⟨_, ?_, adopted.plant, adopted.known, adopted.clockValid, adopted.stored, adopted.window, adopted.stepCount,
    adopted.here, adopted.enters, adopted.flash, adopted.latest, adopted.idle, adopted.frame⟩
  rw [exec_receiveTime_hears hears, takeTime_unset (Nat.le_of_add_right_le inTime) unset, collectTime_reference terminal]

/-! ## The establishment window (R115) -/

/-- The middle of the present times of the senders. -/
theorem presentTime_middle {s : State} (collected : s.tb.stored ≠ []) :
    let times := s.tb.stored.map (fun x => x.time + (s.elapsed - x.at_))
    ∃ m : Nat, lowerMiddle (s.tb.stored.map (presentTime s)) = some (m : Int) ∧ m ∈ times
      ∧ times.countP (fun x => decide (x < m)) < (times.length + 1) / 2
      ∧ (times.length + 1) / 2 ≤ times.countP (fun x => decide (x ≤ m)) := by
  intro times
  have cast : s.tb.stored.map (presentTime s) = times.map Int.ofNat := by
    rw [List.map_map]
    exact List.map_congr_left fun x _ => by simp [presentTime, since]
  obtain ⟨m, middle, member, below, upTo⟩ :=
    lowerMiddle_spec (l := s.tb.stored.map (presentTime s)) (by simpa using collected)
  rw [cast] at member below upTo
  obtain ⟨n, hn, rfl⟩ := List.mem_map.1 member
  refine ⟨n, middle, hn, ?_, ?_⟩
  · simpa [List.countP_map, Function.comp_def] using below
  · simpa [List.countP_map, Function.comp_def] using upTo

/-- Settles O18: the times of RECORDERs are collected, and at the end of the window their middle is adopted. -/
theorem establishmentWindowAdoptsTheMiddle : Obligations.EstablishmentWindowAdoptsTheMiddle := by
  refine ⟨fun sender seconds ticks reference s hears unset => ⟨fun inTime recorder => ?_, fun ignored => ?_⟩,
    fun s w unset window passed collected => ?_⟩
  · refine ⟨s.tb.window.getD s.elapsed, fun none => by simp [none], fun x first => by simp [first], ?_⟩
    rw [exec_receiveTime_hears hears, takeTime_unset inTime unset]
    simp [collectTime, recorder]
  · rw [exec_receiveTime_hears hears]
    by_cases late : Config.plantTimeEnd < seconds.toNat * 1024 + ticks.toNat
    · rw [takeTime_late late]
    · rw [takeTime_unset (Nat.not_lt.1 late) unset]
      rcases ignored.resolve_left late with source | absent | ⟨terminal, clear⟩
      · simp [collectTime, source]
      · simp [collectTime, absent]
      · simp [collectTime, terminal, clear]
  · obtain ⟨m, middle, member, below, upTo⟩ := presentTime_middle collected
    have adopted := adopt_adopted m s
    refine ⟨adopt m s, m, ?_, member, by omega, by omega, adopted.plant, adopted.known, adopted.clockValid,
      adopted.stored, adopted.window, adopted.here, adopted.enters, adopted.flash, adopted.idle, adopted.frame⟩
    have ended : 20 * Config.ticksPerSecond ≤ since s w := Nat.le_sub_of_add_le (by rw [Nat.add_comm]; exact passed)
    simp [exec, execEstablishmentWindowEnd, window, middle, unset, ended]

end Sys2Proof.Machine
end

section
/-! Agreement rounds: the target, corrections and steps (R109 to R114). -/

namespace Sys2Proof.Machine

/-! ## The target of a round (R109, R111) -/

theorem freshEntry_iff {p : Nat} {e : OffsetEntry} :
    freshEntry p e = true ↔ e.receipt ≤ (p : Int) ∧ (p : Int) ≤ e.receipt + 61440 := by
  simp [freshEntry, Config.ticksPerMinute]

/-- A fresh reference offset is the target of a reference round (R111). -/
theorem roundTarget_reference {t : Timebase} {p : Nat} (hp : t.plant = some p) {e : OffsetEntry}
    (reference : t.reference = some e) (fresh : freshEntry p e = true) :
    roundTarget t = some (e.offset, true) := by
  simp [roundTarget, hp, reference, Option.filter, fresh]

theorem reference_not_fresh {t : Timebase} {p : Nat}
    (stale : ∀ e, t.reference = some e → ¬ freshEntry p e = true) :
    t.reference.filter (freshEntry p) = none := by
  cases reference : t.reference with
  | none => rfl
  | some e => simpa [Option.filter] using stale e reference

/-- Without one the target is the lower middle of the fresh peer offsets and 0 (R111). -/
theorem roundTarget_peer {t : Timebase} {p : Nat} (hp : t.plant = some p)
    (stale : ∀ e, t.reference = some e → ¬ freshEntry p e = true)
    (peers : ∃ e ∈ t.peers, freshEntry p e = true) :
    roundTarget t = (lowerMiddle (0 :: (t.peers.filter (freshEntry p)).map (·.offset))).map (fun x => (x, false)) := by
  simp only [roundTarget, hp, Option.getD_some, reference_not_fresh stale]
  split
  · rename_i empty
    obtain ⟨e, he, fresh⟩ := peers
    simpa [List.map_eq_nil_iff.1 empty] using List.mem_filter.2 ⟨he, fresh⟩
  · rfl

theorem roundTarget_nothing {t : Timebase} {p : Nat} (hp : t.plant = some p)
    (stale : ∀ e, (t.reference = some e ∨ e ∈ t.peers) → ¬ freshEntry p e = true) :
    roundTarget t = none := by
  have none : t.peers.filter (freshEntry p) = [] := List.filter_eq_nil_iff.2 fun e he => stale e (.inr he)
  simp [roundTarget, hp, reference_not_fresh fun e he => stale e (.inl he), none]

/-! ## Corrections (R108, R110, R111) -/

/-- Plant time p corrected by d ticks, whatever becomes of the step count. -/
theorem correct_corrects {s : State} {p : Nat} (hp : s.tb.plant = some p) (d : Int) (count : Nat) (negative : Bool) :
    CorrectedBy s (s.setTb (correct d { s.tb with stepCount := count, stepNegative := negative })) p d := by
  refine ⟨⟨rfl, rfl, rfl⟩, ⟨rfl, rfl, rfl⟩, rfl, rfl, rfl, rfl, ?_⟩
  simp [correct, hp, secondsOf, Config.ticksPerSecond]

/-! ## Steps (R112 to R114) -/

/-- The timebase moved by a step of d ticks. -/
def stepMoved (d : Int) (s : State) : Timebase := shiftTime d { s.tb with stepCount := 0 }

/-- A step applied or refused is counted and raises CLOCK (R112). -/
theorem applyStep_reports (d : Int) (s : State) : ∃ u, applyStep d s = reportStep u
    ∧ u.retr = s.retr ∧ u.year = s.year ∧ u.tb.stepCount = 0 ∧ u.tb.taken = s.tb.taken := by
  unfold applyStep
  dsimp only
  split
  · exact ⟨_, rfl, rfl, rfl, rfl, rfl⟩
  · refine ⟨_, rfl, ?_, ?_, ?_, ?_⟩
    · split <;> simp
    · split <;> simp
    · simp only [State.setTb_tb, forwardStep, backwardStep]
      (repeat' split) <;> rfl
    · simp only [State.setTb_tb, forwardStep, backwardStep]
      (repeat' split) <;> rfl

theorem gapsWith_eq (fromTime : Nat) (k : CloseKind) (l : List GapEntry) :
    gapsWith fromTime k l = addGap fromTime k l := by
  unfold gapsWith addGap
  cases last : l.getLast? with
  | none => simpa using last
  | some e => simp

/-- Setting the samples aside parts them (R113). -/
theorem setSamplesAside_parts {s t : State} (accs : t.accs = (setSamplesAside s).accs)
    (minutes : t.minutes = (setSamplesAside s).minutes) : SamplesParted s t := by
  rw [SamplesParted, accs, minutes]
  cases aside : s.minutes.setAside with
  | some l =>
    have same : setSamplesAside s = s := by simp [setSamplesAside, aside]
    rw [same]
    exact ⟨by rw [Option.getD_some, ← aside], fun _ => rfl, nofun⟩
  | none =>
    have parted : setSamplesAside s = restartAccs (s.setMinutes { s.minutes with setAside := some s.accs }) := by
      simp [setSamplesAside, aside]
    rw [parted]
    exact ⟨by simp, fun no => absurd rfl no, fun _ => restartAccs_spec (s.setMinutes _)⟩

section
variable {s : State} {p : Nat} (hp : s.tb.plant = some p) {d : Int}
include hp

theorem stepRefused_iff : stepRefused { s.tb with stepCount := 0 } d = true ↔
    88473600 < d.natAbs ∨ (p : Int) + d < 0 ∨ (Config.plantTimeEnd : Int) < p + d := by
  simp [stepRefused, hp, Config.ticksPerDay, or_assoc]

theorem stepMoved_plant : (stepMoved d s).plant = some ((p : Int) + d).toNat := by
  simp [stepMoved, shiftTime, hp]

/-- A step that is not refused moves plant time and the offsets (R112). -/
theorem applyStep_taken (day : d.natAbs ≤ 88473600) (low : 0 ≤ (p : Int) + d)
    (high : (p : Int) + d ≤ Config.plantTimeEnd) : applyStep d s = reportStep
      ((if 0 ≤ d ∧ minuteDue (stepMoved d s) = true then setSamplesAside s else s).setTb
        (if 0 ≤ d then forwardStep (stepMoved d s) else backwardStep (stepMoved d s))) := by
  refine if_neg fun refused => ?_
  rcases (stepRefused_iff hp).1 refused with far | early | late
  · exact absurd day (Nat.not_le.2 far)
  · exact absurd low (Int.not_le.2 early)
  · exact absurd high (Int.not_le.2 late)

/-- Whether a minute is due after a step, T_c being c. -/
theorem stepMoved_due {c : Nat} (hc : s.tb.closed = some c) (low : 0 ≤ (p : Int) + d) :
    minuteDue (stepMoved d s) = true ↔ ((c : Int) + 60) * 1024 ≤ p + d := by
  rw [minuteDue_iff (stepMoved_plant hp) (show (stepMoved d s).closed = some c from hc)]
  omega

/-- Whether plant time is before T_c after a step, T_c being c. -/
theorem stepMoved_before {c : Nat} (hc : s.tb.closed = some c) (low : 0 ≤ (p : Int) + d) :
    (stepMoved d s).plant.getD 0 < (stepMoved d s).closed.getD 0 * Config.ticksPerSecond
      ↔ (p : Int) + d < (c : Int) * 1024 := by
  rw [stepMoved_plant hp, show (stepMoved d s).closed = some c from hc, Option.getD_some, Option.getD_some,
    Config.ticksPerSecond]
  omega

theorem applyStep_refused (refused : 88473600 < d.natAbs ∨ (p : Int) + d < 0 ∨ (Config.plantTimeEnd : Int) < p + d) :
    applyStep d s = reportStep (s.setTb { s.tb with stepCount := 0 }) :=
  if_pos ((stepRefused_iff hp).2 refused)

/-- What a step does to the catch-up, the timebase state and the samples, by its direction (R113, R114). -/
theorem applyStep_goes_on (moves : d ≠ 0) (day : d.natAbs ≤ 88473600) (low : 0 ≤ (p : Int) + d)
    (high : (p : Int) + d ≤ Config.plantTimeEnd) {c : Nat} (hc : s.tb.closed = some c) :
    let t := applyStep d s
    (0 < d → ((c : Int) + 60) * 1024 ≤ p + d →
      t.tb.state = .running ∧ t.tb.catchUp = true ∧ t.tb.gaps = gapsWith (c + 60) .timegap s.tb.gaps
        ∧ SamplesParted s t)
    ∧ (0 < d → (p : Int) + d < ((c : Int) + 60) * 1024 → SameClosing s t)
    ∧ (d < 0 ∨ (p : Int) + d < ((c : Int) + 60) * 1024 → t.accs = s.accs ∧ t.minutes = s.minutes)
    ∧ (d < 0 → (p : Int) + d < (c : Int) * 1024 →
      t.tb.state = .frozen ∧ t.tb.gaps = s.tb.gaps ∧ t.tb.catchUp = s.tb.catchUp)
    ∧ (d < 0 → (c : Int) * 1024 ≤ p + d → SameClosing s t) := by
  intro t
  have taken : t = _ := applyStep_taken hp day low high
  have isDue := stepMoved_due hp hc low
  have isBefore := stepMoved_before hp hc low
  rcases Int.lt_or_gt_of_ne moves with back | forth
  · rw [if_neg fun h => absurd h.1 (Int.not_le.2 back), if_neg (Int.not_le.2 back)] at taken
    refine ⟨fun h => absurd h (Int.lt_asymm back), fun h => absurd h (Int.lt_asymm back), fun _ => ?_,
      fun _ before => ?_, fun _ after => ?_⟩
    · rw [taken]
      exact ⟨rfl, rfl⟩
    · rw [taken, backwardStep, if_pos (isBefore.2 before)]
      exact ⟨rfl, rfl, rfl⟩
    · rw [taken, backwardStep, if_neg (mt isBefore.1 (Int.not_lt.2 after))]
      exact ⟨rfl, rfl, rfl⟩
  · rw [if_pos (Int.le_of_lt forth), forwardStep] at taken
    refine ⟨fun _ due => ?_, fun _ early => ?_, fun early => ?_, fun h => absurd h (Int.lt_asymm forth),
      fun h => absurd h (Int.lt_asymm forth)⟩
    · rw [if_pos ⟨Int.le_of_lt forth, isDue.2 due⟩, if_pos (isDue.2 due)] at taken
      refine ⟨by rw [taken]; rfl, by rw [taken]; rfl, ?_,
        setSamplesAside_parts (by rw [taken]; rfl) (by rw [taken]; rfl)⟩
      rw [taken, gapsWith_eq]
      simp [stepMoved, shiftTime, hc]
    · have notDue := mt isDue.1 (Int.not_le.2 early)
      rw [if_neg fun h => notDue h.2, if_neg notDue] at taken
      rw [taken]
      exact ⟨rfl, rfl, rfl⟩
    · have notDue := mt isDue.1 (Int.not_le.2 (early.resolve_left (Int.lt_asymm forth)))
      rw [if_neg fun h => notDue h.2] at taken
      rw [taken]
      exact ⟨rfl, rfl⟩

theorem applyStep_moves (day : d.natAbs ≤ 88473600) (low : 0 ≤ (p : Int) + d)
    (high : (p : Int) + d ≤ Config.plantTimeEnd) : MovedBy s (applyStep d s) d := by
  rw [applyStep_taken hp day low high, forwardStep, backwardStep]
  (repeat' split) <;> exact ⟨rfl, rfl, rfl⟩

theorem applyStep_stepsOrRefuses (moves : d ≠ 0) : SteppedOrRefused s (applyStep d s) p d := by
  obtain ⟨u, reported, retr, year, count, taken⟩ := applyStep_reports d s
  refine ⟨?_, ?_, ?_, ?_, fun refused => ?_, fun day low high =>
    ⟨applyStep_moves hp day low high, fun c hc => applyStep_goes_on hp moves day low high hc⟩⟩
  · rw [reported, ← retr]
    rfl
  · rw [reported, ← year]
    rfl
  · simpa [reported] using count
  · simpa [reported] using taken
  · rw [applyStep_refused hp refused]
    exact ⟨hp, rfl, rfl, ⟨rfl, rfl, rfl⟩, rfl, rfl⟩

end

end Sys2Proof.Machine
end

section
/-! O20, AgreementRoundActsByMagnitude: the round and its target's magnitude. -/

namespace Sys2Proof.Machine

theorem roundAction_small {c : Int} (small : c.natAbs ≤ 256) (reference : Bool) (s : State) :
    roundAction c reference s = s.setTb (correct c { s.tb with stepCount := 0 }) := if_pos small

theorem roundAction_middling {c : Int} (more : 256 < c.natAbs) (most : c.natAbs ≤ 2047) (reference : Bool) (s : State) :
    roundAction c reference s = s.setTb (correct (quarter c) { s.tb with stepCount := 0 }) :=
  (if_neg (Nat.not_le.2 more)).trans (if_pos most)

theorem roundAction_reference {c : Int} (large : 2048 ≤ c.natAbs) (s : State) : roundAction c true s = applyStep c s :=
  (if_neg (by omega)).trans ((if_neg (by omega)).trans (if_pos rfl))

theorem roundAction_third {c : Int} {s : State} (large : 2048 ≤ c.natAbs) (third : 3 ≤ countedSteps s.tb c) :
    roundAction c false s = applyStep c s :=
  (if_neg (by omega)).trans ((if_neg (by omega)).trans ((if_neg nofun).trans (if_pos third)))

theorem roundAction_counted {c : Int} {s : State} (large : 2048 ≤ c.natAbs) (before : countedSteps s.tb c < 3) :
    roundAction c false s = s.setTb (correct (quarter c) { s.tb with
      stepCount := countedSteps s.tb c, stepNegative := decide (c < 0) }) :=
  (if_neg (by omega)).trans ((if_neg (by omega)).trans ((if_neg nofun).trans (if_neg (Nat.not_le.2 before))))

/-- What a round may change: of the timebase plant time, offsets, state, gap list, catch-up, step count and the second put
back, and what a step reports and sets aside. -/
structure RoundFrame (s t : State) : Prop where
  blocks : t = ((((s.setTb t.tb).setRetr t.retr).setYear t.year).setAccs t.accs).setMinutes t.minutes
  timebase : t.tb = { s.tb with
    plant := t.tb.plant, peers := t.tb.peers, reference := t.tb.reference, state := t.tb.state, gaps := t.tb.gaps
    catchUp := t.tb.catchUp, stepCount := t.tb.stepCount, stepNegative := t.tb.stepNegative, taken := t.tb.taken }

theorem applyStep_tb (c : Int) (s : State) : (applyStep c s).tb = { s.tb with
    plant := (applyStep c s).tb.plant, peers := (applyStep c s).tb.peers, reference := (applyStep c s).tb.reference
    state := (applyStep c s).tb.state, gaps := (applyStep c s).tb.gaps, catchUp := (applyStep c s).tb.catchUp
    stepCount := (applyStep c s).tb.stepCount } := by
  simp only [applyStep, forwardStep, backwardStep]
  (repeat' split) <;> rfl

theorem roundAction_round (c : Int) (reference : Bool) (s : State) : RoundFrame s (roundAction c reference s) where
  blocks := State.eq_of_blocks (by simp)
  timebase := by
    unfold roundAction
    dsimp only
    split
    · rfl
    · split
      · rfl
      · split
        · rw [applyStep_tb]
        · split
          · rw [applyStep_tb]
          · rfl

/-- The state in which a round begins: it is due no more. -/
def roundTaken (s : State) : State := s.setTb { s.tb with dues := { s.tb.dues with round := false } }

theorem exec_agreementRound {s : State} (due : s.tb.dues.round = true) (here : s.supply.station = some .recording)
    (known : s.tb.state ≠ .unset) (ended : s.tb.catchUp = false) :
    exec .agreementRound s = .next (agreementRound (roundTaken s)) :=
  if_pos ⟨due, here, timeKnown_iff.2 known, ended⟩

theorem agreementRound_target {s : State} {c : Int} {reference : Bool} (h : roundTarget s.tb = some (c, reference)) :
    agreementRound s = roundAction c reference s := by
  simp [agreementRound, h]

/-- What a reference round does with its target. -/
theorem roundAction_of_reference {s : State} {p : Nat} (hp : s.tb.plant = some p) (c : Int) :
    let t := roundAction c true s
    t.tb.stepCount = 0
    ∧ (c.natAbs ≤ 256 → CorrectedBy s t p c)
    ∧ (256 < c.natAbs → c.natAbs ≤ 2047 → CorrectedBy s t p (quarter c))
    ∧ (2048 ≤ c.natAbs → SteppedOrRefused s t p c) := by
  have stepped (large : 2048 ≤ c.natAbs) : SteppedOrRefused s (roundAction c true s) p c := by
    rw [roundAction_reference large]
    exact applyStep_stepsOrRefuses hp (by omega)
  refine ⟨?_, fun small => ?_, fun more most => ?_, stepped⟩
  · by_cases small : c.natAbs ≤ 256
    · rw [roundAction_small small]
      rfl
    · by_cases most : c.natAbs ≤ 2047
      · rw [roundAction_middling (Nat.lt_of_not_le small) most]
        rfl
      · obtain ⟨-, -, count, -⟩ := stepped (Nat.lt_of_not_le most)
        exact count
  · rw [roundAction_small small]
    exact correct_corrects hp c 0 _
  · rw [roundAction_middling more most]
    exact correct_corrects hp (quarter c) 0 _

/-- What a peer round does with its target. -/
theorem roundAction_of_peer {s : State} {p : Nat} (hp : s.tb.plant = some p) (c : Int) :
    let t := roundAction c false s
    (c.natAbs ≤ 256 → CorrectedBy s t p c ∧ t.tb.stepCount = 0)
    ∧ (256 < c.natAbs → c.natAbs ≤ 2047 → CorrectedBy s t p (quarter c) ∧ t.tb.stepCount = 0)
    ∧ (2048 ≤ c.natAbs →
        (countedSteps s.tb c < 3 → CorrectedBy s t p (quarter c) ∧ t.tb.stepCount = countedSteps s.tb c
          ∧ t.tb.stepNegative = decide (c < 0))
        ∧ (3 ≤ countedSteps s.tb c → SteppedOrRefused s t p c)) := by
  refine ⟨fun small => ?_, fun more most => ?_, fun large => ⟨fun before => ?_, fun third => ?_⟩⟩
  · rw [roundAction_small small]
    exact ⟨correct_corrects hp c 0 _, rfl⟩
  · rw [roundAction_middling more most]
    exact ⟨correct_corrects hp (quarter c) 0 _, rfl⟩
  · rw [roundAction_counted large before]
    exact ⟨correct_corrects hp (quarter c) _ _, rfl, rfl⟩
  · rw [roundAction_third large third]
    exact applyStep_stepsOrRefuses hp (by omega)

/-- Settles O20: the target of a round, and what it does by its magnitude. -/
theorem agreementRoundActsByMagnitude : Obligations.AgreementRoundActsByMagnitude := by
  intro s p due here known ended plant fresh frame quarter
  have round := exec_agreementRound due here known ended
  have taken : (roundTaken s).tb.plant = some p := plant
  have framed (c : Int) (reference : Bool) : frame (roundAction c reference (roundTaken s)) := by
    obtain ⟨blocks, timebase⟩ := roundAction_round c reference (roundTaken s)
    exact ⟨blocks, timebase⟩
  have stale (h : ∀ e, s.tb.reference = some e → ¬ fresh e) :
      ∀ e, (roundTaken s).tb.reference = some e → ¬ freshEntry p e = true :=
    fun e he => mt freshEntry_iff.1 (h e he)
  refine ⟨fun e reference isFresh => ?_, fun old ⟨e, he, isFresh⟩ => ?_, fun old => ?_⟩
  · rw [round, agreementRound_target (roundTarget_reference taken reference (freshEntry_iff.2 isFresh))]
    exact ⟨_, rfl, framed e.offset true, roundAction_of_reference taken e.offset⟩
  · intro l
    obtain ⟨m, middle, member, below, upTo⟩ := lowerMiddle_spec (l := l) (List.cons_ne_nil _ _)
    have target : roundTarget (roundTaken s).tb = some (m, false) := by
      rw [roundTarget_peer taken (stale old) ⟨e, he, freshEntry_iff.2 isFresh⟩]
      exact congrArg _ middle
    rw [round, agreementRound_target target]
    exact ⟨_, m, rfl, framed m false, member, below, upTo, roundAction_of_peer taken m⟩
  · have target : roundTarget (roundTaken s).tb = none :=
      roundTarget_nothing taken fun e he => mt freshEntry_iff.1 (old e he)
    rw [round, agreementRound, target]
    rfl

end Sys2Proof.Machine
end

section
/-! The layouts of the telegrams, and the offer at bus-idle (O24). -/

namespace Sys2Proof.Machine

/-! ## The payloads that the part sends of its own (7.7.2, 7.7.3) -/

/-- Packed fields are held at their offsets from the start. -/
theorem packed_layout (l : List (Nat × Nat)) (rest : List Byte) : HoldsFields (packed l rest) (fieldsFrom 0 l) :=
  packed_holds l rest []

theorem timePayload_layout (ticks : Nat) (reference : Bool) : (timePayload ticks reference).length = 7
    ∧ HoldsFields (timePayload ticks reference)
      [(0, 4, ticks / 1024), (4, 2, ticks % 1024), (6, 1, reference.toNat)] := by
  have form : timePayload ticks reference
      = packed [(4, ticks / 1024), (2, ticks % 1024), (1, reference.toNat)] [] := by
    simp [timePayload, packed, secondsOf, Config.ticksPerSecond]
  rw [form]
  exact ⟨packed_length _, packed_layout _ _⟩

theorem RecordKind.code_eq (k : RecordKind) :
    k.code = [RecordKind.halfHour, .day, .yearGeneral, .yearSlot].idxOf k + 1 := by
  cases k <;> rfl

/-- The fields of a RECORD telegram before the record's body. -/
def recordFields (t : RecordTel) : List (Nat × Nat) :=
  [(1, [RecordKind.halfHour, .day, .yearGeneral, .yearSlot].idxOf t.record.kind + 1), (1, t.record.origin),
   (4, t.record.seq), (4, t.record.start), (1, t.backfill.toNat), (1, t.record.body.length)]

theorem recordPayload_layout (t : RecordTel) :
    HoldsFields (recordPayload t) (headerFields t.record ++ [(10, 1, t.backfill.toNat), (11, 1, t.record.body.length)])
    ∧ (recordPayload t).drop 12 = t.record.body := by
  have form : recordPayload t = packed (recordFields t) t.record.body := by
    simp [recordPayload, recordHeader, recordFields, packed, RecordKind.code_eq]
  rw [form]
  exact ⟨packed_layout (recordFields t) _, drop_packed (recordFields t) _⟩

/-- The 9 bytes of an entry of a SECURED_MARK. -/
def markEntryBytes (m : MarkOut) : List Byte := beBytes 1 m.origin ++ beBytes 4 m.held ++ beBytes 4 m.oldest

theorem markEntryBytes_length (m : MarkOut) : (markEntryBytes m).length = 9 := by simp [markEntryBytes]

theorem markPayload_layout (l : List MarkOut) : (markPayload l).length = 1 + 9 * l.length
    ∧ HoldsFields (markPayload l) [(0, 1, l.length)]
    ∧ ∀ i m, l[i]? = some m →
      HoldsFields ((markPayload l).drop (1 + 9 * i)) [(0, 1, m.origin), (1, 4, m.held), (5, 4, m.oldest)] := by
  have form : markPayload l = packed [(1, l.length)] (l.flatMap markEntryBytes) := by
    simp only [markPayload, packed, List.foldr]
    rfl
  rw [form]
  refine ⟨?_, packed_layout _ _, fun i m hm => ?_⟩
  · simp [packed, length_flatMap_of_size markEntryBytes_length]
  · obtain ⟨after, entry⟩ := drop_flatMap markEntryBytes_length [] hm
    have rest := drop_packed [(1, l.length)] (l.flatMap markEntryBytes)
    simp only [List.map_cons, List.map_nil, List.sum_cons, List.sum_nil, Nat.add_zero] at rest
    rw [List.append_nil] at entry
    rw [← List.drop_drop, rest, entry, markEntryBytes, List.append_assoc, List.append_assoc]
    exact packed_holds [(1, m.origin), (4, m.held), (4, m.oldest)] after []

theorem gapPayload_layout (g : GapTel) : (gapPayload g).length = 6
    ∧ HoldsFields (gapPayload g) [(0, 1, g.target), (1, 4, g.first), (5, 1, g.count)] := by
  have form : gapPayload g = packed [(1, g.target), (4, g.first), (1, g.count)] [] := by simp [gapPayload, packed]
  rw [form]
  exact ⟨packed_length _, packed_layout _ _⟩

theorem presencePayload_layout (p : PresenceTel) : (presencePayload p).length = 18
    ∧ HoldsFields (presencePayload p) [(0, 1, 1), (1, 1, p.line),
      (2, 1, [Station.unconfigured, .commission, .scan, .timeUnset, .catchUp, .recording, .hold].idxOf p.station),
      (3, 4, p.latest), (7, 4, p.floor), (11, 4, p.secured),
      (15, 1, [TimeState.unset, .running, .frozen].idxOf p.timeState), (16, 2, p.flags.toNat)] := by
  have form : presencePayload p = packed [(1, 1), (1, p.line),
      (1, [Station.unconfigured, .commission, .scan, .timeUnset, .catchUp, .recording, .hold].idxOf p.station),
      (4, p.latest), (4, p.floor), (4, p.secured),
      (1, [TimeState.unset, .running, .frozen].idxOf p.timeState), (2, p.flags.toNat)] [] := by
    simp [presencePayload, packed, Station.code_eq, TimeState.code_eq]
  rw [form]
  exact ⟨packed_length _, packed_layout _ _⟩

/-- The bytes of a frame that its check covers. -/
def frameCovered (cls own : Nat) (payload : List Byte) : List Byte :=
  packed [(1, 32 * cls + own), (1, payload.length)] payload

theorem frameCovered_length (cls own : Nat) (payload : List Byte) :
    (frameCovered cls own payload).length = 2 + payload.length := by
  simp [frameCovered, packed]
  omega

theorem frameBytes_eq (cls own : Nat) (payload : List Byte) : frameBytes cls own payload =
    frameCovered cls own payload ++ beBytes 2 (crc16 (frameCovered cls own payload)).toNat := by
  simp [frameBytes, frameCovered, packed]

theorem frameBytes_layout (cls own : Nat) (payload : List Byte) :
    let b := frameBytes cls own payload
    b.length = payload.length + 4
    ∧ HoldsFields b [(0, 1, 32 * cls + own), (1, 1, payload.length),
        (2 + payload.length, 2, (crc16 (b.take (2 + payload.length))).toNat)]
    ∧ slice b 2 payload.length = payload := by
  intro b
  have form : b = _ := frameBytes_eq cls own payload
  have length := frameCovered_length cls own payload
  have covered : b.take (2 + payload.length) = frameCovered cls own payload := by
    rw [form, ← length, List.take_left]
  have long : b = packed [(1, 32 * cls + own), (1, payload.length)]
      (payload ++ beBytes 2 (crc16 (frameCovered cls own payload)).toNat) := by
    rw [form]
    simp [frameCovered, packed]
  refine ⟨?_, fun x hx => ?_, ?_⟩
  · rw [form, List.length_append, length, beBytes_length]
    omega
  · rcases List.mem_append.1 (show x ∈ [(0, 1, 32 * cls + own), (1, 1, payload.length)] ++ _ from hx) with head | check
    · rw [long]
      exact packed_layout [(1, 32 * cls + own), (1, payload.length)] _ x head
    · obtain rfl := List.mem_singleton.1 check
      have last := field_at (frameCovered cls own payload) [] 2 (crc16 (frameCovered cls own payload)).toNat
      rw [List.append_nil, length, ← form] at last
      rw [covered]
      exact last
  · have rest : b.drop 2 = payload ++ beBytes 2 (crc16 (frameCovered cls own payload)).toNat := by
      rw [long]
      exact drop_packed [(1, 32 * cls + own), (1, payload.length)] _
    rw [slice, rest, List.take_left]

theorem telegramLayouts : TelegramLayouts :=
  ⟨timePayload_layout, recordPayload_layout, markPayload_layout, gapPayload_layout, presencePayload_layout,
    frameBytes_layout⟩

/-! ## The offer (R123) -/

/-- The transmit queues in the order in which they are offered. -/
def queueOrder : List TxQueue := [.time, .record, .mark, .gap, .answer, .presence]

theorem mem_queueOrder (q : TxQueue) : q ∈ queueOrder := by cases q <;> decide

theorem queueOrder_ascending : queueOrder.Pairwise (fun p q => p.classCode < q.classCode) := by decide

theorem offer_eq_none_iff {s : State} : offer s = none ↔ ∀ q, headPayload s q = none := by
  have all : offer s = none ↔ ∀ q ∈ queueOrder, (headPayload s q).map _ = none := List.findSome?_eq_none_iff
  simpa [mem_queueOrder] using all

/-- What is offered is the head of a queue, and every queue of a lower number is empty. -/
theorem offer_eq_some {s : State} {l : OnLine} (h : offer s = some l) :
    (∃ pay, headPayload s l.queue = some pay ∧ l.bytes = frameBytes l.queue.classCode s.cfg.own pay)
    ∧ ∀ q : TxQueue, q.classCode < l.queue.classCode → headPayload s q = none := by
  obtain ⟨before, p, after, order, found, empty⟩ := List.findSome?_eq_some_iff.1 h
  obtain ⟨pay, head, rfl⟩ := Option.map_eq_some_iff.1 found
  refine ⟨⟨pay, head, rfl⟩, fun q lower => ?_⟩
  have ascending := queueOrder_ascending
  have member := mem_queueOrder q
  rw [show queueOrder = before ++ p :: after from order] at ascending member
  rcases List.mem_append.1 member with earlier | later
  · simpa using empty q earlier
  · have least := (List.pairwise_append.1 ascending).2.1
    rcases List.mem_cons.1 later with rfl | further
    · exact absurd lower (Nat.lt_irrefl _)
    · exact absurd (List.rel_of_pairwise_cons least further) (Nat.lt_asymm lower)

/-- Settles O24: the offer is the head of the lowest-numbered queue, in the layout of its class. -/
theorem busIdleOffersTheLowestQueue : Obligations.BusIdleOffersTheLowestQueue := by
  refine ⟨telegramLayouts, rfl, fun s active free => ?_⟩
  intro payload
  have heads : payload = headPayload s := funext fun q => by cases q <;> rfl
  rw [heads]
  exact ⟨offer s, if_pos ⟨active, free⟩, offer_eq_none_iff, fun l => offer_eq_some⟩

end Sys2Proof.Machine
end

section
/-! What GAPs a test of the conditions forms, and what the end of a catch-up keeps of the witness unit and the port (R106,
R141). -/

namespace Sys2Proof.Machine

/-! ## The GAPs that a test forms (R141) -/

/-- An origin of t is one of s, or its GAP has just been formed. -/
def OldOrFormed (s : State) (o : Origin) : Prop := o ∈ s.wit.origins ∨ ∀ g n, o.gap = some g → g.phase ≠ .sent n

/-- What tests of the GAP conditions may lead to: GAPs join the queue or wait, and no origin loses its GAP or changes
otherwise. -/
structure GapsFormed (s t : State) : Prop where
  witness : t.wit = { s.wit with origins := t.wit.origins }
  port : t.port = { s.port with gapQ := t.port.gapQ, ticket := t.port.ticket }
  queue : ∃ new, t.port.gapQ = s.port.gapQ ++ new
  formed : ∀ o ∈ t.wit.origins, OldOrFormed s o
  places : t.wit.origins.map (·.place) = s.wit.origins.map (·.place)
  others : (s.wit.origins.map (·.place)).Nodup →
    t.wit.origins.map (fun o => { o with gap := none }) = s.wit.origins.map (fun o => { o with gap := none })
  kept : (s.wit.origins.map (·.place)).Nodup → ∀ o ∈ s.wit.origins, o.gap ≠ none → o ∈ t.wit.origins

theorem GapsFormed.refl (s : State) : GapsFormed s s where
  witness := rfl
  port := rfl
  queue := ⟨[], by simp⟩
  formed _ ho := .inl ho
  places := rfl
  others _ := rfl
  kept _ _ ho _ := ho

theorem GapsFormed.trans {s t u : State} (h : GapsFormed s t) (k : GapsFormed t u) : GapsFormed s u where
  witness := by
    rw [k.witness, h.witness]
  port := by
    rw [k.port, h.port]
  queue := by
    obtain ⟨x, hx⟩ := h.queue
    obtain ⟨y, hy⟩ := k.queue
    exact ⟨x ++ y, by rw [hy, hx, List.append_assoc]⟩
  formed o ho := (k.formed o ho).elim (h.formed o) .inr
  places := k.places.trans h.places
  others n := (k.others (h.places ▸ n)).trans (h.others n)
  kept n o ho gap := k.kept (h.places ▸ n) o (h.kept n o ho gap) gap

/-- A GAP formed for an origin that has none, queued or waiting. -/
theorem GapsFormed.of_setOrigin {s t : State} {o : Origin} (ho : o ∈ s.wit.origins) (free : o.gap = none) {g : Gap}
    (unsent : ∀ n, g.phase ≠ .sent n) {queue new : List GapTel} (appended : queue = s.port.gapQ ++ new) (ticket : Nat)
    (form : t = (setOrigin { o with gap := some g } s).setPort { s.port with gapQ := queue, ticket := ticket }) :
    GapsFormed s t where
  witness := by
    rw [form]
    rfl
  port := by
    rw [form]
    rfl
  queue := by
    rw [form]
    exact ⟨new, appended⟩
  formed x hx := by
    rw [form] at hx
    obtain ⟨y, hy, rfl⟩ := List.mem_map.1 hx
    split
    · exact .inr fun g' n e => by cases e; exact unsent n
    · exact .inl hy
  places := by
    rw [form]
    exact places_setOrigin _
  others n := by
    rw [form]
    refine (List.map_map ..).trans (List.map_congr_left fun y hy => ?_)
    dsimp only [Function.comp]
    split
    · rename_i same
      rw [List.inj_on_of_nodup_map n hy ho same]
    · rfl
  kept n x hx gap := by
    rw [form]
    refine mem_setOrigin_of_ne hx fun same => gap ?_
    rw [List.inj_on_of_nodup_map n hx ho same]
    exact free

theorem gapWanted_free {s : State} {o : Origin} (h : gapWanted s o = true) : o.gap = none := by
  simp only [gapWanted, Bool.and_eq_true, Option.isNone_iff_eq_none] at h
  obtain ⟨⟨-, free⟩, -⟩ := h
  exact free

theorem formGap_formed (p : Nat) (s : State) : GapsFormed s (formGap p s) := by
  rcases formGap_cases p s with ⟨same, -⟩ | ⟨o, ho, wanted, ⟨-, -, placed⟩ | ⟨-, waits⟩⟩
  · rw [same]
    exact .refl s
  · refine .of_setOrigin (originAt_mem ho) (gapWanted_free wanted) ?_ rfl s.port.ticket placed
    nofun
  · refine .of_setOrigin (originAt_mem ho) (gapWanted_free wanted) ?_ (List.append_nil _).symm (s.port.ticket + 1) waits
    nofun

theorem testGaps_formed (s : State) : GapsFormed s (testGaps s) :=
  ((formGap_formed 0 s).trans (formGap_formed 1 _)).trans (formGap_formed 2 _)

/-! ## The end of a catch-up (R105, R106) -/

/-- What GAPs were formed from is told from the witness unit and the port. -/
theorem GapsFormed.of_units {s t u : State} (h : GapsFormed s t) (wit : u.wit = s.wit) (port : u.port = s.port) :
    GapsFormed u t := by
  obtain ⟨witness, ports, queue, formed, places, others, kept⟩ := h
  constructor <;> simpa only [OldOrFormed, wit, port]

/-- The end of a catch-up, if there is one, tests the GAP conditions on entering RECORDING. -/
theorem endCatchUp_formed (s : State) : GapsFormed s (endCatchUp s) := by
  unfold endCatchUp
  split
  · dsimp only
    split
    · exact (testGaps_formed _).of_units rfl rfl
    · exact (GapsFormed.refl _).of_units rfl rfl
  · exact .refl s

/-- Without RECORDING no condition has been tested. -/
theorem endCatchUp_untested {s : State} (h : (endCatchUp s).supply.station ≠ some .recording) :
    (endCatchUp s).wit = s.wit ∧ (endCatchUp s).port = s.port := by
  unfold endCatchUp at h ⊢
  split
  · dsimp only
    split
    · rename_i ended here
      rw [if_pos ended, if_pos here] at h
      exact absurd (by simp [enterRecording]) h
    · exact ⟨rfl, rfl⟩
  · exact ⟨rfl, rfl⟩

end Sys2Proof.Machine
end

section
/-! What a warm return drops, and what it leaves for the flash's first idle event (R117, R126, R147, R150, R162, R170,
R178). -/

namespace Sys2Proof.Machine

/-! ## The silent jobs of a hold (R170) -/

/-- A job of terminal n that has heard nothing for 5 minutes. -/
def silentTerminal (s : State) (n : Nat) : Bool :=
  s.retr.jobs.any (fun j => j.terminal == n && decide (307200 ≤ s.elapsed - j.heardAt))

/-- A read of a job that is gone has nobody left to answer. -/
def orphaned (gone : Nat → Bool) (q : Request) : Request :=
  match q.who with
  | .job n => if gone n then { q with who := .nobody } else q
  | _ => q

theorem orphaned_removeJob (n : Nat) (l : List Nat) (q : Request) :
    orphaned l.contains (if q.who = .job n then { q with who := .nobody } else q) = orphaned (n :: l).contains q := by
  obtain ⟨who, area, seq⟩ := q
  cases who with
  | backfill => rfl
  | nobody => rfl
  | job m =>
    by_cases same : m = n
    · simp [orphaned, same]
    · simp [orphaned, same]

theorem orphaned_none (q : Request) : orphaned (List.contains []) q = q := by
  obtain ⟨who, area, seq⟩ := q
  cases who <;> rfl

theorem foldl_removeJob (l : List Nat) : ∀ s : State, l.foldl (fun t n => removeJob n t) s =
    (s.setRetr { s.retr with jobs := s.retr.jobs.filter (fun j => !l.contains j.terminal) }).setArch
      { s.arch with requests := s.arch.requests.map (orphaned l.contains) } := by
  induction l with
  | nil =>
    intro s
    have jobs : s.retr.jobs.filter (fun j => !([] : List Nat).contains j.terminal) = s.retr.jobs :=
      List.filter_eq_self.2 fun _ _ => rfl
    have requests : s.arch.requests.map (orphaned (List.contains [])) = s.arch.requests :=
      (List.map_congr_left fun q _ => orphaned_none q).trans (List.map_id _)
    rw [jobs, requests]
    rfl
  | cons n l ih =>
    intro s
    have jobs : (s.retr.jobs.filter (fun j => j.terminal != n)).filter (fun j => !l.contains j.terminal)
        = s.retr.jobs.filter (fun j => !(n :: l).contains j.terminal) := by
      rw [List.filter_filter]
      refine List.filter_congr fun j _ => ?_
      simp [Bool.and_comm, bne, beq_eq_decide]
    have requests : (s.arch.requests.map fun q => if q.who = .job n then { q with who := .nobody } else q).map
        (orphaned l.contains) = s.arch.requests.map (orphaned (n :: l).contains) := by
      rw [List.map_map]
      exact List.map_congr_left fun q _ => orphaned_removeJob n l q
    rw [List.foldl_cons, ih, ← jobs, ← requests]
    rfl

theorem jobSilent_iff {s : State} {j : Job} : jobSilent s j = true ↔ 307200 ≤ s.elapsed - j.heardAt :=
  decide_eq_true_iff

theorem dropSilentJobs_eq (s : State) : dropSilentJobs s =
    (s.setRetr { s.retr with jobs := s.retr.jobs.filter (fun j => !silentTerminal s j.terminal) }).setArch
      { s.arch with requests := s.arch.requests.map (orphaned (silentTerminal s)) } := by
  have gone : ((s.retr.jobs.filter (jobSilent s)).map (·.terminal)).contains = silentTerminal s := by
    funext n
    rw [Bool.eq_iff_iff]
    simp only [silentTerminal, List.contains_iff_mem, List.mem_map, List.mem_filter, jobSilent_iff, List.any_eq_true,
      Bool.and_eq_true, beq_iff_eq, decide_eq_true_eq]
    exact exists_congr fun j => by tauto
  rw [dropSilentJobs, foldl_removeJob, gone]

/-! ## The marks and GAPs that aged through a hold (R147, R150) -/

/-- The GAP of an origin was transmitted 10 s ago or earlier. -/
def SentLongAgo (s : State) (o : Origin) : Prop :=
  ∃ g n, o.gap = some g ∧ g.phase = .sent n ∧ n + 10240 ≤ s.elapsed

theorem gapExpired_iff {s : State} {o : Origin} : gapExpired s o = true ↔ SentLongAgo s o := by
  obtain ⟨place, station, held, oldest, staged, known, floor, gap⟩ := o
  rcases gap with _ | ⟨first, count, ticket | _ | n⟩
  · simp [gapExpired, gapSentAt, SentLongAgo]
  · simp [gapExpired, gapSentAt, SentLongAgo]
  · simp [gapExpired, gapSentAt, SentLongAgo]
  · refine Iff.trans (b := 10240 ≤ s.elapsed - n) decide_eq_true_iff ?_
    simp [SentLongAgo]
    omega

/-- An origin after a warm return, whose aged GAP is gone. -/
def gapDropped (s : State) (o : Origin) : Origin := if gapExpired s o then { o with gap := none } else o

theorem gapDropped_old {s : State} {o : Origin} (h : SentLongAgo s o) : gapDropped s o = { o with gap := none } :=
  if_pos (gapExpired_iff.2 h)

theorem gapDropped_young {s : State} {o : Origin} (h : ¬ SentLongAgo s o) : gapDropped s o = o :=
  if_neg (mt gapExpired_iff.1 h)

theorem gapDropped_none (s : State) (o : Origin) : { gapDropped s o with gap := none } = { o with gap := none } := by
  unfold gapDropped
  split <;> rfl

theorem gapDropped_place (s : State) (o : Origin) : (gapDropped s o).place = o.place := by
  unfold gapDropped
  split <;> rfl

/-! ## What a warm return leaves before the flash has its idle event (R117, R126, R162, R178) -/

theorem warmState_supply (s : State) : (warmState s).supply = if s.supply.heldFrom = some .timeUnset
    then { s.supply with station := some .timeUnset, heldFrom := none }
    else { s.supply with station := some .catchUp, heldFrom := none, output := true } := by
  unfold warmState
  split <;> simp

theorem warmState_port (s : State) :
    (warmState s).port = { s.port with state := .active, errorRun := 0, activeSince := s.elapsed } := by
  unfold warmState
  split <;> simp [portActive]

theorem warmState_unset {s : State} (h : s.supply.heldFrom = some .timeUnset) : (warmState s).tb = s.tb := by
  simp [warmState, h]

/-- From CATCH_UP or RECORDING the hold joins the gap list, and a freeze ends when a minute is due. -/
theorem warmState_timebase {s : State} (h : s.supply.heldFrom ≠ some .timeUnset) :
    let t := warmState s
    t.tb = { s.tb with gaps := gapsWith s.tb.holdFrom .hold s.tb.gaps, catchUp := true, state := t.tb.state }
    ∧ (s.tb.state = .frozen → minuteDue s.tb = true → t.tb.state = .running)
    ∧ (s.tb.state ≠ .frozen ∨ minuteDue s.tb = false → t.tb.state = s.tb.state) := by
  have form : warmState s = thaw ((portActive (s.setSupply
      { s.supply with station := some .catchUp, heldFrom := none, output := true })).setTb
      { s.tb with gaps := addGap s.tb.holdFrom .hold s.tb.gaps, catchUp := true }) := if_neg h
  obtain ⟨state, thawed, runs, stays⟩ := thaw_eq ((portActive (s.setSupply
      { s.supply with station := some .catchUp, heldFrom := none, output := true })).setTb
      { s.tb with gaps := addGap s.tb.holdFrom .hold s.tb.gaps, catchUp := true })
  intro t
  have same : t = _ := form.trans thawed
  rw [same, gapsWith_eq]
  refine ⟨rfl, fun frozen due => runs ⟨frozen, due, nofun, nofun⟩, fun no => stays fun ⟨frozen, due, _⟩ => ?_⟩
  rcases no with known | early
  · exact known frozen
  · exact absurd due (by simpa [minuteDue] using early)

/-- The part with what aged through the hold gone. -/
def agedDropped (s : State) : State := dropAged (dropSilentJobs (warmState s))

/-- The part when the flash has its first idle event after a warm return. -/
def warmed (s : State) : State := retentionTest (agedDropped s)

/-- The part after a warm return. -/
def warmReturned (s : State) : State := endCatchUp (flashIdle (warmed s))

/-- What has aged is told in the state before the return, for the return takes no time. -/
theorem warmState_aging (s : State) : silentTerminal (warmState s) = silentTerminal s
    ∧ youngMarks (warmState s) = youngMarks s ∧ gapDropped (warmState s) = gapDropped s := by
  have clock : since (warmState s) = since s := funext fun n => by simp [since]
  have wit : (warmState s).wit = s.wit := by simp
  refine ⟨?_, ?_, ?_⟩
  · funext n
    simp [silentTerminal]
  · unfold youngMarks
    rw [clock, wit]
  · unfold gapDropped gapExpired
    rw [clock]

theorem dropAged_wit (s : State) : (dropAged s).wit =
    { s.wit with marks := youngMarks s, origins := s.wit.origins.map (gapDropped s) } := rfl

theorem agedDropped_wit (s : State) : (agedDropped s).wit =
    { s.wit with marks := youngMarks s, origins := s.wit.origins.map (gapDropped s) } := by
  obtain ⟨-, young, dropped⟩ := warmState_aging s
  have same : youngMarks (dropSilentJobs (warmState s)) = youngMarks (warmState s)
      ∧ gapDropped (dropSilentJobs (warmState s)) = gapDropped (warmState s) := by
    rw [dropSilentJobs_eq]
    exact ⟨rfl, rfl⟩
  rw [agedDropped, dropAged_wit, same.1, same.2, young, dropped]
  simp

theorem agedDropped_retr (s : State) : (agedDropped s).retr =
    { s.retr with jobs := s.retr.jobs.filter (fun j => !silentTerminal s j.terminal) } := by
  obtain ⟨silent, -, -⟩ := warmState_aging s
  rw [agedDropped, dropSilentJobs_eq, silent]
  simp

theorem agedDropped_arch (s : State) : (agedDropped s).arch =
    { s.arch with requests := s.arch.requests.map (orphaned (silentTerminal s)) } := by
  obtain ⟨silent, -, -⟩ := warmState_aging s
  rw [agedDropped, dropSilentJobs_eq, silent]
  simp

/-- Whether the own erase is barred is not changed by a return. -/
theorem agedDropped_barred (s : State) : OwnEraseBarred (agedDropped s) ↔ OwnEraseBarred s := by
  have year : (agedDropped s).year = s.year := by simp [agedDropped]
  have cfg : (agedDropped s).cfg = s.cfg := by simp [agedDropped]
  simp only [OwnEraseBarred, Retained, agedDropped_arch, year, cfg]

/-- The retention test raises ARCHIVE exactly when it leaves READY (R162). -/
theorem retentionTest_flags (s : State) :
    (s.arch.state = .ready ∧ OwnEraseBarred s → (retentionTest s).retr.flags = s.retr.flags ||| 0x40#9)
    ∧ (¬ (s.arch.state = .ready ∧ OwnEraseBarred s) → (retentionTest s).retr.flags = s.retr.flags) := by
  obtain ⟨full, readyAgain, same⟩ := retentionTest_tested s
  refine ⟨fun ⟨ready, barred⟩ => by rw [full ready barred]; rfl, fun no => ?_⟩
  by_cases barred : OwnEraseBarred s
  · rw [same]
    cases state : s.arch.state with
    | ready => exact absurd ⟨state, barred⟩ no
    | ringFull => exact .inr (.inr ⟨rfl, barred⟩)
    | fault => exact .inl rfl
  · cases state : s.arch.state with
    | ready => rw [same (.inr (.inl ⟨state, barred⟩))]
    | ringFull =>
      rw [readyAgain state barred]
      rfl
    | fault => rw [same (.inl state)]

theorem warmed_wit (s : State) : (warmed s).wit =
    { s.wit with marks := youngMarks s, origins := s.wit.origins.map (gapDropped s) } := by
  rw [← agedDropped_wit]
  simp [warmed]

theorem warmed_retr (s : State) : (warmed s).retr = { s.retr with
    flags := (warmed s).retr.flags, jobs := s.retr.jobs.filter (fun j => !silentTerminal s j.terminal) } := by
  obtain ⟨flags, retr⟩ := retentionTest_retr (agedDropped s)
  rw [warmed, retr, agedDropped_retr]

theorem warmed_arch (s : State) : (warmed s).arch = { s.arch with
    state := (warmed s).arch.state, requests := s.arch.requests.map (orphaned (silentTerminal s)) } := by
  have same := retentionTest_arch (agedDropped s)
  rw [agedDropped_arch] at same
  have := congrArg (fun a : Archive => { a with state := (warmed s).arch.state }) same
  exact this.symm

theorem warmed_flags (s : State) :
    (s.arch.state = .ready ∧ OwnEraseBarred s → (warmed s).retr.flags = s.retr.flags ||| 0x40#9)
    ∧ (¬ (s.arch.state = .ready ∧ OwnEraseBarred s) → (warmed s).retr.flags = s.retr.flags) := by
  have flags := retentionTest_flags (agedDropped s)
  simpa only [warmed, agedDropped_barred, agedDropped_arch, agedDropped_retr] using flags

theorem warmed_state (s : State) : (warmed s).arch.state =
    if s.arch.state = .fault then .fault else if ownEraseForbidden s then .ringFull else .ready := by
  have forbidden : ownEraseForbidden (agedDropped s) = ownEraseForbidden s := by
    rw [Bool.eq_iff_iff, ownEraseForbidden_iff, ownEraseForbidden_iff, agedDropped_barred]
  rw [warmed, retentionTest_state, forbidden, agedDropped_arch]

theorem warmed_units (s : State) : (warmed s).supply = (warmState s).supply ∧ (warmed s).port = (warmState s).port
    ∧ (warmed s).tb = (warmState s).tb ∧ (warmed s).cfg = s.cfg ∧ (warmed s).year = s.year
    ∧ (warmed s).elapsed = s.elapsed := by
  simp [warmed, agedDropped]

end Sys2Proof.Machine
end

section
/-! A warm return as a whole, to the end of the catch-up, with what aged through the hold gone. -/

namespace Sys2Proof.Machine

/-! ## After the flash's first idle event (R106, R117, R165) -/

/-- A flash-idle event changes of the port nothing but the ticket count. -/
theorem flashIdle_port (s : State) : (flashIdle s).port = { s.port with ticket := (flashIdle s).port.ticket } := by
  have fields := flashIdle_fields s
  generalize (flashIdle s).port = p at fields
  cases p
  simp only at fields
  simp [fields]

/-- Outside CATCH_UP and RECORDING no state becomes either at the end of a catch-up. -/
theorem endCatchUp_supply {s : State} (h : s.supply.station ≠ some .catchUp) : (endCatchUp s).supply = s.supply := by
  unfold endCatchUp
  split
  · dsimp only
    split
    · rename_i here
      exact absurd here h
    · rfl
  · rfl

theorem endCatchUp_output {s : State} (h : s.supply.output = true) : (endCatchUp s).supply.output = true := by
  unfold endCatchUp
  split
  · dsimp only
    split
    · simp [enterRecording]
    · exact h
  · exact h

/-- The end of a catch-up changes of the timebase the gap list, the catch-up and the sampled minute. -/
theorem endCatchUp_tb (s : State) : (endCatchUp s).tb = { s.tb with
    gaps := (endCatchUp s).tb.gaps, catchUp := (endCatchUp s).tb.catchUp, sampled := (endCatchUp s).tb.sampled } := by
  unfold endCatchUp
  split
  · dsimp only
    split
    · simp [enterRecording]
    · rfl
  · rfl

theorem warmReturned_wit (s : State) :
    (warmReturned s).wit = { (flashIdle (warmed s)).wit with origins := (warmReturned s).wit.origins } :=
  (endCatchUp_formed _).witness

theorem warmReturned_port (s : State) : (warmReturned s).port = { s.port with
    state := .active, errorRun := 0, activeSince := s.elapsed, gapQ := (warmReturned s).port.gapQ
    ticket := (warmReturned s).port.ticket } := by
  obtain ⟨-, port, -⟩ := warmed_units s
  rw [warmReturned, (endCatchUp_formed _).port, flashIdle_port, port, warmState_port]

theorem warmReturned_gapQ (s : State) : (∃ new, (warmReturned s).port.gapQ = s.port.gapQ ++ new)
    ∧ ((warmReturned s).supply.station ≠ some .recording → (warmReturned s).port.gapQ = s.port.gapQ) := by
  obtain ⟨-, port, -⟩ := warmed_units s
  have kept : (flashIdle (warmed s)).port.gapQ = s.port.gapQ := by simp [port]
  refine ⟨?_, fun other => ?_⟩
  · rw [← kept]
    exact (endCatchUp_formed _).queue
  · rw [← kept, warmReturned, (endCatchUp_untested other).2]

/-! ## What has aged is gone (R147, R150, R170) -/

section
variable (s : State)

theorem warmReturned_marks : (warmReturned s).wit.marks =
    s.wit.marks.filter (fun m => decide (s.elapsed - m.at_ < 614400)) := by
  have kept : (warmReturned s).wit.marks = (warmed s).wit.marks := by simp [warmReturned]
  exact kept.trans (congrArg Witness.marks (warmed_wit s))

/-- The origins that the flash's idle event finds. -/
theorem flashIdle_warmed_origins : (flashIdle (warmed s)).wit.origins = s.wit.origins.map (gapDropped s) := by
  have wit := warmed_wit s
  simp [wit]

theorem warmed_places : (flashIdle (warmed s)).wit.origins.map (·.place) = s.wit.origins.map (·.place) := by
  rw [flashIdle_warmed_origins, List.map_map]
  exact List.map_congr_left fun o _ => gapDropped_place s o

theorem warmReturned_others (n : (s.wit.origins.map (·.place)).Nodup) :
    (warmReturned s).wit.origins.map (fun o => { o with gap := none })
      = s.wit.origins.map (fun o => { o with gap := none }) := by
  refine ((endCatchUp_formed _).others (warmed_places s ▸ n)).trans ?_
  rw [flashIdle_warmed_origins, List.map_map]
  exact List.map_congr_left fun o _ => gapDropped_none s o

theorem warmReturned_keeps_gap (n : (s.wit.origins.map (·.place)).Nodup) {o : Origin} (ho : o ∈ s.wit.origins)
    (gap : o.gap ≠ none) (young : ¬ SentLongAgo s o) : o ∈ (warmReturned s).wit.origins := by
  refine (endCatchUp_formed _).kept (warmed_places s ▸ n) o ?_ gap
  rw [flashIdle_warmed_origins]
  exact List.mem_map.2 ⟨o, ho, gapDropped_young young⟩

theorem warmReturned_drops_gap {o : Origin} (ho : o ∈ s.wit.origins) (old : SentLongAgo s o)
    (other : (warmReturned s).supply.station ≠ some .recording) :
    { o with gap := none } ∈ (warmReturned s).wit.origins := by
  rw [warmReturned, (endCatchUp_untested other).1, flashIdle_warmed_origins]
  exact List.mem_map.2 ⟨o, ho, gapDropped_old old⟩

theorem warmReturned_no_old_gap {o : Origin} (ho : o ∈ (warmReturned s).wit.origins) {g : Gap} {n : Nat}
    (gap : o.gap = some g) (sent : g.phase = .sent n) : s.elapsed < n + 10240 := by
  rcases (endCatchUp_formed _).formed o ho with old | formed
  · rw [flashIdle_warmed_origins] at old
    obtain ⟨x, -, rfl⟩ := List.mem_map.1 old
    by_cases long : SentLongAgo s x
    · rw [gapDropped_old long] at gap
      cases gap
    · rw [gapDropped_young long] at gap
      by_contra late
      exact long ⟨g, n, gap, sent, Nat.le_of_not_lt late⟩
  · exact absurd sent (formed g n gap)

theorem warmReturned_terminals : jobTerminals (warmReturned s) =
    (s.retr.jobs.filter (fun j => !silentTerminal s j.terminal)).map (·.terminal) := by
  have retr := warmed_retr s
  have jobs : jobTerminals (warmReturned s) = jobTerminals (flashIdle (warmed s)) := by
    simp [jobTerminals, warmReturned]
  rw [jobs, (flashIdle_kept _).terminals, jobTerminals, retr]

theorem silentTerminal_iff {n : Nat} :
    silentTerminal s n = true ↔ ∃ j ∈ s.retr.jobs, j.terminal = n ∧ 307200 ≤ s.elapsed - j.heardAt := by
  simp [silentTerminal]

theorem mem_warmReturned_terminals {n : Nat} : n ∈ jobTerminals (warmReturned s) ↔
    (∃ j ∈ s.retr.jobs, j.terminal = n) ∧ silentTerminal s n = false := by
  rw [warmReturned_terminals]
  simp only [List.mem_map, List.mem_filter, Bool.not_eq_eq_eq_not, Bool.not_true]
  constructor
  · rintro ⟨j, ⟨hj, heard⟩, rfl⟩
    exact ⟨⟨j, hj, rfl⟩, heard⟩
  · rintro ⟨⟨j, hj, rfl⟩, heard⟩
    exact ⟨j, ⟨hj, heard⟩, rfl⟩

theorem warmReturned_archive : (warmReturned s).arch.state = (warmed s).arch.state
    ∧ flagSet (warmReturned s) .archive = flagSet (warmed s) .archive := by
  simp [warmReturned, flagSet]

/-- What has aged through the hold goes at the return. -/
theorem warmReturned_agedGone : AgedGone s (warmReturned s) := by
  have state := warmed_state s
  have forbidden := ownEraseForbidden_iff s
  have job {i : Job} (hi : i ∈ (warmReturned s).retr.jobs) := (mem_warmReturned_terminals s).1 (List.mem_map_of_mem hi)
  refine ⟨warmReturned_marks s, fun n => ⟨warmReturned_others s n, fun o ho =>
    ⟨warmReturned_keeps_gap s n ho, warmReturned_drops_gap s ho⟩⟩, fun o ho g n => warmReturned_no_old_gap s ho,
    fun j hj silent i hi same => ?_, fun j hj heard => ?_, fun i hi => ?_, ?_, fun ready => ⟨?_, fun barred => ?_⟩,
    fun full => ?_, fun fault => ?_⟩
  · obtain ⟨-, heard⟩ := job hi
    rw [same, (silentTerminal_iff s).2 ⟨j, hj, rfl, silent⟩] at heard
    cases heard
  · have stays : j.terminal ∈ jobTerminals (warmReturned s) := by
      refine (mem_warmReturned_terminals s).2 ⟨⟨j, hj, rfl⟩, Bool.eq_false_iff.2 fun silent => ?_⟩
      obtain ⟨i, hi, same, long⟩ := (silentTerminal_iff s).1 silent
      exact absurd (heard i hi same) (Nat.not_lt.2 long)
    exact List.mem_map.1 stays
  · obtain ⟨⟨j, hj, same⟩, -⟩ := job hi
    exact ⟨j, hj, same.symm⟩
  · have answers : (warmed s).retr.answers = s.retr.answers := by rw [warmed_retr]
    simp [warmReturned, answers]
  · rw [(warmReturned_archive s).1, state, ← forbidden]
    simp [ready]
  · rw [(warmReturned_archive s).2]
    refine flagSet_archive_of_ringFull (by rw [agedDropped_arch]; exact ready) ?_
    rw [← warmed, state]
    simp [ready, forbidden.2 barred]
  · rw [(warmReturned_archive s).1, state, ← forbidden]
    simp [full]
  · rw [(warmReturned_archive s).1, state]
    simp [fault]

end

end Sys2Proof.Machine
end

section
/-! O56, SupplyReturnIsWarmOrCold: the supply return. -/

namespace Sys2Proof.Machine

theorem supplyBack_iff {s : State} :
    supplyBack s = true ↔ s.supply.sense = true ∧ 153600 ≤ 1000 * (s.elapsed - s.supply.goodSince) := by
  rw [supplyBack, Bool.and_eq_true]
  exact and_congr_right fun _ => decide_eq_true_iff

theorem exec_supplyReturn_warm {s : State} (hold : s.supply.station = some .hold) (back : supplyBack s = true)
    (warm : warmReturn s.supply = true) : exec .supplyReturn s = .next (warmReturned s) :=
  (if_pos ⟨hold, back⟩).trans (if_pos warm)

theorem exec_supplyReturn_cold {s : State} (hold : s.supply.station = some .hold) (back : supplyBack s = true)
    (cold : warmReturn s.supply = false) :
    exec .supplyReturn s = .next (s.setSupply { s.supply with station := none, heldFrom := none }) :=
  (if_pos ⟨hold, back⟩).trans (if_neg (by simp [cold]))

theorem exec_supplyReturn_early {s : State} (early : supplyBack s = false) : exec .supplyReturn s = .next s :=
  if_neg (by simp [early])

/-- The erase that the supply-fail event abandoned is reissued, where it may start. -/
theorem warmReturned_reissues {s : State} {a : Area} {k : Nat} (abandoned : s.arch.abandoned = some (a, k))
    (idle : s.arch.op = .idle) (start : EraseMayStart (warmed s) a k) :
    (warmReturned s).arch.op = .erasing a k ∧ (warmReturned s).arch.abandoned = none := by
  have arch := warmed_arch s
  have works : operationsOn (warmed s) = true := by
    obtain ⟨supply, -⟩ := warmed_units s
    rw [operationsOn, supply, warmState_supply]
    split <;> rfl
  have reissued := flashIdle_reissues (warmed s) a k (by rw [arch]; exact abandoned) (by rw [arch]; exact idle) works
    start
  simpa [warmReturned] using reissued

theorem warmReturned_kept (s : State) : (warmReturned s).line = s.line ∧ (warmReturned s).accs = s.accs
    ∧ (warmReturned s).minutes = s.minutes ∧ (warmReturned s).year = s.year ∧ (warmReturned s).avg = s.avg
    ∧ (warmReturned s).arch.flash = s.arch.flash := by
  simp [warmReturned, warmed, agedDropped]

/-- A requester that is a job of a silent terminal is gone, in the words of the statement. -/
theorem orphaned_eq (gone : Nat → Bool) : orphaned gone = fun q => match q.who with
    | .job n => if gone n then { q with who := .nobody } else q
    | _ => q := rfl

theorem gapDropped_eq (s : State) : gapDropped s = fun o => match o.gap with
    | some ⟨_, _, .sent n⟩ => if n + 10240 ≤ s.elapsed then { o with gap := none } else o
    | _ => o := by
  funext o
  obtain ⟨place, station, held, oldest, staged, known, floor, gap⟩ := o
  rcases gap with _ | ⟨first, count, ticket | _ | n⟩
  · rfl
  · rfl
  · rfl
  · by_cases long : n + 10240 ≤ s.elapsed
    · rw [gapDropped_old ⟨_, n, rfl, rfl, long⟩]
      exact (if_pos long).symm
    · rw [gapDropped_young fun ⟨_, m, e, sent, late⟩ => by cases e; cases sent; exact long late]
      exact (if_neg long).symm

/-- The state in which a catch-up may end at once. -/
theorem flashIdle_warmed_units (s : State) : (flashIdle (warmed s)).supply = (warmState s).supply
    ∧ (flashIdle (warmed s)).tb = (warmState s).tb := by
  obtain ⟨supply, -, tb, -⟩ := warmed_units s
  simp [supply, tb]

theorem warmReturned_state (s : State) : (warmReturned s).tb.state = (warmState s).tb.state := by
  obtain ⟨-, -, tb, -⟩ := warmed_units s
  simp [warmReturned, tb]

/-! ### From CATCH_UP or RECORDING -/

section
variable {s : State} (held : s.supply.heldFrom ≠ some .timeUnset)
include held

theorem warmReturned_tb : (warmReturned s).tb = { s.tb with
    gaps := (warmReturned s).tb.gaps, catchUp := (warmReturned s).tb.catchUp, state := (warmReturned s).tb.state
    sampled := (warmReturned s).tb.sampled } := by
  have ended := endCatchUp_tb (flashIdle (warmed s))
  obtain ⟨kept, -⟩ := warmState_timebase held
  rw [(flashIdle_warmed_units s).2, kept] at ended
  rw [warmReturned, ended]

theorem warmed_running : (warmState s).supply.station = some .catchUp ∧ (warmState s).supply.output = true := by
  rw [warmState_supply, if_neg held]
  exact ⟨rfl, rfl⟩

theorem warmReturned_here : CatchingUpOrRecording (warmReturned s) ∧ (warmReturned s).supply.output = true := by
  obtain ⟨station, output⟩ := warmed_running held
  have supply := (flashIdle_warmed_units s).1
  exact ⟨endCatchUp_here (.inl (by rw [supply, station])), endCatchUp_output (by rw [supply, output])⟩

/-- With a minute due the catch-up goes on, and without one it ends at once (R106, R117). -/
theorem warmReturned_goes_on {p c : Nat} (plant : s.tb.plant = some p) (closed : s.tb.closed = some c) :
    let t := warmReturned s
    ((c + 60) * 1024 ≤ p → t.supply.station = some .catchUp ∧ t.tb.catchUp = true
      ∧ t.tb.gaps = gapsWith s.tb.holdFrom .hold s.tb.gaps ∧ t.tb.sampled = s.tb.sampled
      ∧ (s.tb.state = .frozen → t.tb.state = .running))
    ∧ (p < (c + 60) * 1024 → CaughtUp c p t ∧ t.tb.state = s.tb.state) := by
  obtain ⟨kept, runs, stays⟩ := warmState_timebase held
  obtain ⟨supply, tb⟩ := flashIdle_warmed_units s
  obtain ⟨station, -⟩ := warmed_running held
  have warmPlant : (flashIdle (warmed s)).tb.plant = some p := by rw [tb, kept]; exact plant
  have warmClosed : (flashIdle (warmed s)).tb.closed = some c := by rw [tb, kept]; exact closed
  have warmDue := minuteDue_iff warmPlant warmClosed
  have wasDue := minuteDue_iff plant closed
  refine ⟨fun due => ?_, fun early => ?_⟩
  · have goesOn : warmReturned s = flashIdle (warmed s) :=
      endCatchUp_goes_on fun ⟨_, notDue⟩ => by
        rw [warmDue.2 due] at notDue
        cases notDue
    rw [goesOn, supply, tb]
    refine ⟨station, ?_, ?_, ?_, fun frozen => runs frozen (wasDue.2 due)⟩ <;> rw [kept]
  · have notDue : minuteDue (flashIdle (warmed s)).tb = false := Bool.eq_false_iff.2 (mt warmDue.1 (Nat.not_le.2 early))
    have catchUp : (flashIdle (warmed s)).tb.catchUp = true := by rw [tb, kept]
    refine ⟨endCatchUp_catchUp ⟨catchUp, notDue⟩ (by rw [supply, station]) warmPlant warmClosed, ?_⟩
    rw [warmReturned_state]
    exact stays (.inr (Bool.eq_false_iff.2 (mt wasDue.1 (Nat.not_le.2 early))))

end

/-! ### From TIME_UNSET -/

theorem warmReturned_unset {s : State} (held : s.supply.heldFrom = some .timeUnset) :
    (warmReturned s).supply = { s.supply with station := some .timeUnset, heldFrom := none }
    ∧ (s.tb.catchUp = false → (warmReturned s).tb = s.tb) := by
  obtain ⟨supply, tb⟩ := flashIdle_warmed_units s
  rw [warmState_supply, if_pos held] at supply
  rw [warmState_unset held] at tb
  refine ⟨?_, fun ended => ?_⟩
  · rw [warmReturned, endCatchUp_supply (by rw [supply]; nofun), supply]
  · rw [warmReturned, endCatchUp_goes_on, tb]
    rw [tb, ended]
    exact fun ⟨catchUp, _⟩ => nomatch catchUp

/-- Settles O56: the warm return block by block, and the returns that are none or not warm. -/
theorem supplyReturnIsWarmOrCold : Obligations.SupplyReturnIsWarmOrCold := by
  refine ⟨fun s hold sense good intact released => ?_, fun s hold => ⟨fun early => ?_, fun sense good cold => ?_⟩⟩
  · intro silent frame
    have back := supplyBack_iff.2 ⟨sense, good⟩
    obtain ⟨line, accs, minutes, year, avg, flash⟩ := warmReturned_kept s
    have framed : frame (warmReturned s) := by
      obtain ⟨queue, untested⟩ := warmReturned_gapQ s
      obtain ⟨supply, port, -, cfg, sameYear, -⟩ := warmed_units s
      obtain ⟨raised, unraised⟩ := warmed_flags s
      refine ⟨State.eq_of_blocks (by simp [warmReturned, warmed, agedDropped]), warmReturned_port s, queue, untested,
        warmed s, by simp [warmReturned], by simp [warmReturned], warmReturned_wit s, ?_, cfg, sameYear, ?_, ?_,
        warmed_retr s, raised, unraised, ?_, fun a k => warmReturned_reissues⟩
      · rw [supply, warmState_supply]
      · rw [port, warmState_port]
      · rw [warmed_wit, gapDropped_eq]
        rfl
      · rw [(warmReturned_archive s).1]
        exact warmed_arch s
    refine ⟨fun held => ?_, fun held => ?_⟩
    · have notUnset : s.supply.heldFrom ≠ some .timeUnset := by rcases held with h | h <;> simp [h]
      have warm : warmReturn s.supply = true := by rcases held with h | h <;> simp [warmReturn, intact, released, h]
      obtain ⟨here, output⟩ := warmReturned_here notUnset
      obtain ⟨-, -, stays⟩ := warmState_timebase notUnset
      have cfg : (warmReturned s).cfg = s.cfg := by simp [warmReturned, warmed, agedDropped]
      obtain ⟨-, attention, -⟩ := lines_follow (warmReturned s)
      rw [cfg] at attention
      refine ⟨_, exec_supplyReturn_warm hold back warm, here, output, by simp [fstopLine, output, line],
        attention.trans (and_iff_right output), line, accs, minutes, year, avg, warmReturned_tb notUnset, fun known => ?_,
        flash, warmReturned_agedGone s, framed, fun p c plant closed => warmReturned_goes_on notUnset plant closed⟩
      rw [warmReturned_state]
      exact stays (.inl known)
    · have warm : warmReturn s.supply = true := by simp [warmReturn, intact, released, held]
      obtain ⟨supply, tb⟩ := warmReturned_unset held
      refine ⟨_, exec_supplyReturn_warm hold back warm, by rw [supply], fun off => ?_, year, line, accs, minutes, avg,
        flash, supply, tb, warmReturned_agedGone s, framed⟩
      simp [fstopLine, attnLine, supply, off]
  · refine exec_supplyReturn_early (Bool.eq_false_iff.2 fun back => ?_)
    obtain ⟨sense, good⟩ := supplyBack_iff.1 back
    rcases early with low | short
    · rw [sense] at low
      cases low
    · exact absurd good (Nat.not_le.2 short)
  · refine exec_supplyReturn_cold hold (supplyBack_iff.2 ⟨sense, good⟩) ?_
    rcases cold with h | h | h | h | h <;> simp [warmReturn, h]

end Sys2Proof.Machine
end

section
/-! What the port receives (O22, O23), the queries that are not taken (O48), and the kept properties after reset (O45). -/

namespace Sys2Proof.Machine

/-! ## Receive errors and clashes (R127, R128) -/

/-- A frame that R127 discards: its end mark is missing, its length or its check is wrong. -/
theorem frameIsError_iff (frame : List Byte) (endMark : Bool) : frameIsError frame endMark = true ↔
    endMark = false ∨ 240 < field frame 1 1 ∨ frame.length ≠ field frame 1 1 + 4
      ∨ permittedLength (field frame 0 1 / 32) (slice frame 2 (field frame 1 1)) = false
      ∨ field frame (2 + field frame 1 1) 2 ≠ (crc16 (frame.take (2 + field frame 1 1))).toNat := by
  simp only [frameIsError, Bool.not_eq_true', Bool.and_eq_false_iff, decide_eq_false_iff_not, beq_eq_false_iff_ne,
    Nat.not_le]
  tauto

/-- Settles O22: a frame that R127 discards, in a port state that receives. -/
theorem receiveErrorIsCounted : Obligations.ReceiveErrorIsCounted := fun frame endMark s on bad =>
  if_pos ⟨by simp [receives, on], (frameIsError_iff frame endMark).2 bad⟩

/-- A telegram of the part's own number is a clash when its length is permitted, else a receive error (R127, R128). -/
theorem deliver_own {s : State} {sender : BitVec 5} (on : s.port.state ≠ .off) (own : sender.toNat = s.cfg.own)
    (permitted : Bool) (f : State → State) :
    deliver sender permitted f s = if permitted then clashEffect s else receiveErrorEffect s := by
  cases permitted <;> simp [deliver, receives, on, own]

theorem recordPermitted_iff (head : RecordHead) (body : List Byte) : recordPermitted head body = true ↔
    ∃ k, recordKindOf head.kind.toNat = some k ∧ bodyLengthOk k body = true := by
  unfold recordPermitted
  split <;> simp_all

/-- A RECORD whose length its kind does not permit, or of an unlisted kind. -/
theorem recordPermitted_eq_false_iff (head : RecordHead) (body : List Byte) : recordPermitted head body = false ↔
    ∀ k, recordKindOf head.kind.toNat = some k → bodyLengthOk k body = false := by
  simp [← Bool.not_eq_true, recordPermitted_iff]

/-- Settles O23: STATION_CLASH, the telegrams of other stations by their row, and the queries by their kind. -/
theorem stationClashIsCountedAndRaisesBus : Obligations.StationClashIsCountedAndRaisesBus := by
  intro s on clash bad
  have good {sender : BitVec 5} (own : sender.toNat = s.cfg.own) {permitted : Bool} (h : permitted = true)
      (f : State → State) : deliver sender permitted f s = clash := by
    rw [deliver_own on own, if_pos h]
    rfl
  have wrong {sender : BitVec 5} (own : sender.toNat = s.cfg.own) {permitted : Bool} (h : permitted = false)
      (f : State → State) : deliver sender permitted f s = bad := by
    rw [deliver_own on own, h]
    rfl
  refine ⟨fun _ => if_pos (by simp [receives, on]), fun sender own => ?_, fun head own => ?_⟩
  · refine ⟨fun _ _ _ _ => congrArg _ (good own rfl _), fun _ _ _ => congrArg _ (good own rfl _), fun head body => ?_,
      fun entries => ?_, fun _ _ _ => congrArg _ (good own rfl _), fun _ => congrArg _ (good own rfl _)⟩
    · exact ⟨fun h => congrArg _ (good own ((recordPermitted_iff head body).2 h) _),
        fun h => congrArg _ (wrong own ((recordPermitted_eq_false_iff head body).2 h) _)⟩
    · exact ⟨fun h => congrArg _ (good own (decide_eq_true h) _),
        fun h => congrArg _ (wrong own (decide_eq_false (Nat.not_le.2 h)) _)⟩
  · refine ⟨fun _ _ _ => congrArg _ (good own rfl _), fun _ _ => congrArg _ (good own rfl _),
      congrArg _ (good own rfl _), fun _ => congrArg _ (good own rfl _), fun offset data => ?_,
      fun _ _ => congrArg _ (good own rfl _)⟩
    refine ⟨fun low high => congrArg _ (good own ?_ _), fun h => congrArg _ (wrong own ?_ _)⟩
    · simp [low, high]
    · rw [Bool.and_eq_false_iff, decide_eq_false_iff_not, decide_eq_false_iff_not]
      omega

/-! ## Queries that are not taken (R129, R166) -/

/-- Settles O48: the queries refused in the station state, and those that find no room or name another recorder. -/
theorem untakenQueryIsRefusedOrDropped : Obligations.UntakenQueryIsRefusedOrDropped := by
  intro head origin first count year causes offset data length check s hears low high refused
  have permitted : (decide (1 ≤ data.length) && decide (data.length ≤ 200)) = true := by simp [low, high]
  have refuses (target : head.target.toNat = s.cfg.own) (room : answersHeld s < 4) (act : State → State) :
      query head true false act s = refused := query_taken ⟨hears, target, room⟩ false act
  refine ⟨fun target room unset recording => ?_, fun target room commission => ?_, fun no => ?_⟩
  · have untaken : takesReads s = false := by simp [takesReads, unset, recording]
    simp only [exec, execRead, execReadYear, execClearAttention, untaken, refuses target room, and_self]
  · have untaken : takesConfig s = false := by simp [takesConfig, commission]
    simp only [exec, execConfigBlock, execConfigCommit, untaken, permitted, refuses target room, and_self]
  · have dropped := query_dropped hears no
    simp only [exec, execRead, execReadYear, execClearAttention, execCondition, execConfigBlock, execConfigCommit,
      permitted, dropped, and_self]

/-! ## The state after reset -/

/-- Settles O45: after reset every queue and list is empty, no number is assigned, and no origin is witnessed. -/
theorem resetHasTheKeptProperties : Obligations.ResetHasTheKeptProperties := by
  refine ⟨reset_flash_wf, ?_, ?_, ?_⟩
  · constructor <;> simp [State.reset, answersHeld]
  · constructor <;> simp [State.reset, unarchived]
  · constructor <;> simp [State.reset]

end Sys2Proof.Machine
end

section
/-! The transmitter (O25, O26, O27), and PRESENCE and MARK placed (O34). -/

namespace Sys2Proof.Machine

/-! ## A transmission that ends without having gone out whole (R120, R122, R124, R125) -/

/-- Settles O25: the port as the end of the transmission leaves it. -/
theorem arbitrationLossKeepsTheTelegram : Obligations.ArbitrationLossKeepsTheTelegram := by
  intro s l onLine
  refine ⟨s.port.lineEnded, by simp only [exec, execArbitrationLost, onLine], rfl, rfl, rfl, rfl, rfl, rfl, ?_, ?_, ?_⟩
  all_goals split <;> rename_i aside <;> simp only [Port.lineEnded, OneQueue.settle_entry, aside]

/-- The state after a transmit error, before the port may enter SILENT. -/
def brokenOff (s : State) : State := s.setPort { s.port.lineEnded with errorRun := s.port.errorRun + 1 }

theorem exec_transmitError {s : State} {l : OnLine} (onLine : s.port.onLine = some l) :
    exec .transmitError s = .next (if 32 ≤ s.port.errorRun + 1 then enterSilent (brokenOff s) else brokenOff s) := by
  simp only [exec, execTransmitError, onLine]
  rfl

theorem flagSet_enterSilent (s : State) : flagSet (enterSilent s) .bus = true := by
  rw [enterSilent, flagSet_raiseCause]
  simp

/-- Settles O27: the error run below 32 and from 32 on, and the second of SILENT before and at its end. -/
theorem transmitErrorsLeadToOneSecondOfSilent : Obligations.TransmitErrorsLeadToOneSecondOfSilent := by
  refine ⟨fun s l onLine => ?_, fun s silent => ⟨fun ended => ?_, fun early => ?_⟩⟩
  · rw [exec_transmitError onLine]
    split
    · rename_i many
      exact ⟨_, rfl, rfl, rfl, rfl, rfl, rfl, rfl, fun few => absurd many (Nat.not_le.2 few),
        fun _ => ⟨rfl, rfl, flagSet_enterSilent _, rfl⟩⟩
    · rename_i few
      exact ⟨_, rfl, rfl, rfl, rfl, rfl, rfl, rfl, fun _ => ⟨rfl, rfl⟩, fun many => absurd many few⟩
  · exact if_pos ⟨silent, ended⟩
  · exact if_neg fun ⟨_, ended⟩ => absurd ended (Nat.not_le.2 early)

/-! ## A telegram sent whole (R122, R124, R141, R160) -/

/-- The line is free again, and the error run is 0. -/
def lineFreed (s : State) : State := s.setPort { s.port with onLine := none, errorRun := 0 }

theorem exec_transmitComplete {s : State} {l : OnLine} (onLine : s.port.onLine = some l) :
    exec .transmitComplete s = .next (transmitted l.queue (lineFreed s)) := by
  simp only [exec, execTransmitComplete, onLine]
  rfl

/-- A telegram sent whole changes the port, the witness unit and the archive controller only. -/
theorem transmitted_units (q : TxQueue) (s : State) : transmitted q s
    = ((s.setPort (transmitted q s).port).setWit (transmitted q s).wit).setArch (transmitted q s).arch :=
  State.eq_of_blocks (by simp)

theorem transmitted_gap {s : State} {g : GapTel} {rest : List GapTel} (queue : s.port.gapQ = g :: rest) :
    transmitted .gap s = gapSent g (s.setPort { s.port with gapQ := rest }) := by
  simp only [transmitted, queue]

theorem transmitted_record {s : State} {x : RecordTel} {rest : List RecordTel} (queue : s.port.recordQ = x :: rest) :
    transmitted .record s = if x.backfill then s.setPort { s.port with recordQ := rest }
      else releaseSent x.record.seq (s.setPort { s.port with recordQ := rest }) := by
  simp only [transmitted, queue]

/-- What the transmission of a GAP telegram at a time makes of an origin (R141). -/
def gapSentOf (g : GapTel) (now : Nat) (o : Origin) : Origin :=
  match o.gap with
  | some x =>
    if o.station = g.target ∧ x.first = g.first ∧ x.phase = .queued then
      { o with gap := some { x with phase := .sent now } }
    else o
  | none => o

theorem gapSent_origins (g : GapTel) (s : State) :
    (gapSent g s).wit.origins = s.wit.origins.map (gapSentOf g s.elapsed) := rfl

@[simp] theorem gapSentOf_station (g : GapTel) (now : Nat) (o : Origin) : (gapSentOf g now o).station = o.station := by
  unfold gapSentOf
  (repeat' split) <;> rfl

theorem gapSentOf_queued {g : GapTel} {now : Nat} {o : Origin} {x : Gap} (station : o.station = g.target)
    (gap : o.gap = some x) (first : x.first = g.first) (queued : x.phase = .queued) :
    gapSentOf g now o = { o with gap := some { x with phase := .sent now } } := by
  simp only [gapSentOf, gap, station, first, queued, and_self, if_true]

theorem gapSentOf_other {g : GapTel} {now : Nat} {o : Origin}
    (other : o.station ≠ g.target ∨ ∀ x, o.gap = some x → x.first ≠ g.first ∨ x.phase ≠ .queued) :
    gapSentOf g now o = o := by
  unfold gapSentOf
  split
  · rename_i x gap
    refine if_neg fun ⟨station, first, queued⟩ => ?_
    rcases other with h | h
    · exact h station
    · rcases h x gap with h | h
      · exact h first
      · exact h queued
  · rfl

theorem originOf_station {s : State} {n : Nat} {o : Origin} (h : originOf s n = some o) : o.station = n := by
  simpa using List.find?_some h

theorem originOf_mem {s : State} {n : Nat} {o : Origin} (h : originOf s n = some o) : o ∈ s.wit.origins :=
  List.mem_of_find?_eq_some h

/-- A change of every origin that keeps its station is one of the origin of each station. -/
theorem originOf_map {s t : State} {f : Origin → Origin} (origins : t.wit.origins = s.wit.origins.map f)
    (station : ∀ o, (f o).station = o.station) (n : Nat) : originOf t n = (originOf s n).map f := by
  rw [originOf, origins, List.find?_map]
  simp only [Function.comp_def, station]
  rfl

/-- The entry of an own record sent leaves the outbound record queue (R160). -/
theorem releaseSent_outbound (q : Nat) (s : State) :
    let released (e : OutEntry) : Prop := e.state = .waitingPublish ∧ e.placed = true ∧ e.seq = some q
    (∀ older e younger, s.arch.outbound = older ++ e :: younger → released e → (∀ x ∈ older, ¬ released x) →
      (releaseSent q s).arch.outbound = older ++ younger)
    ∧ ((∀ e ∈ s.arch.outbound, ¬ released e) → (releaseSent q s).arch.outbound = s.arch.outbound) := by
  intro released
  have test (e : OutEntry) : (e.state == .waitingPublish && e.placed && e.seq == some q) = true ↔ released e := by
    simp [released, and_assoc]
  refine ⟨fun older e younger split leaves stay => ?_, fun stay => ?_⟩
  · rw [releaseSent, split]
    exact removeFirst_split _ older younger e ((test e).2 leaves)
      fun x hx => Bool.eq_false_iff.2 fun h => stay x hx ((test x).1 h)
  · exact removeFirst_none _ _ fun x hx => Bool.eq_false_iff.2 fun h => stay x hx ((test x).1 h)

/-- Settles O26: the queue by its kind, the GAP of the telegram's origin, and the entry of an own record. -/
theorem transmittedTelegramLeavesItsQueue : Obligations.TransmittedTelegramLeavesItsQueue := by
  intro s l onLine
  refine ⟨_, exec_transmitComplete onLine, transmitted_units _ _, by simp [lineFreed], by simp [lineFreed],
    by simp [lineFreed], fun q => by rw [q]; rfl, fun q => by rw [q]; rfl, fun q => by rw [q]; rfl,
    fun q => by rw [q]; rfl, fun g rest q queue => ?_, fun r rest q queue => ?_, fun r rest q queue => ?_⟩
  · rw [q, transmitted_gap (s := lineFreed s) queue]
    have origins : (gapSent g ((lineFreed s).setPort { (lineFreed s).port with gapQ := rest })).wit.origins
        = s.wit.origins.map (gapSentOf g s.elapsed) := rfl
    have origin := originOf_map origins (gapSentOf_station g s.elapsed)
    refine ⟨rfl, by rw [origins, List.length_map], fun o x ho gap first queued => ?_, fun o ho other => ?_,
      fun st other => ?_⟩
    · rw [origin, ho, Option.map_some, gapSentOf_queued (originOf_station ho) gap first queued]
    · rw [origin, ho, Option.map_some, gapSentOf_other (.inr other)]
    · rw [origin]
      cases ho : originOf s st with
      | none => rfl
      | some o =>
        rw [Option.map_some, gapSentOf_other (.inl (by rw [originOf_station ho]; exact other))]
  · rw [q, transmitted_record (s := lineFreed s) queue]
    rfl
  · rw [q, transmitted_record (s := lineFreed s) queue]
    intro released
    obtain ⟨leaves, stay⟩ := releaseSent_outbound r.seq ((lineFreed s).setPort { (lineFreed s).port with recordQ := rest })
    exact ⟨rfl, rfl, rfl, leaves, stay⟩

/-! ## PRESENCE and MARK placed (R122, R145, R146) -/

/-- A one-entry queue takes a telegram as its entry, or holds it aside while an entry of it is on the line (R122). -/
theorem OneQueue.place_spec {α : Type} (onLine : Bool) (x : α) (q : OneQueue α) :
    (onLine = false ∨ q.entry = none → q.place onLine x = { entry := some x, aside := none })
    ∧ (onLine = true → q.entry ≠ none → q.place onLine x = { q with aside := some x }) := by
  refine ⟨?_, fun busy entry => ?_⟩
  · rintro (free | empty)
    · rw [free, OneQueue.place_free]
    · exact OneQueue.place_empty _ _ empty
  · rw [busy, OneQueue.place_aside _ entry]

/-- The MARK that PRESENCE_SEND places, one entry for each of the witness set (R146). -/
def markFields (s : State) : List MarkOut := (witnessed s.cfg).map (fun w => markNow s w.2)

theorem exec_presenceSend {s : State} {st : Station} (station : s.supply.station = some st)
    (due : s.tb.dues.presence = true) (on : s.port.state ≠ .off) :
    exec .presenceSend s = .next ((s.setTb { s.tb with dues := { s.tb.dues with presence := false } }).setPort { s.port with
      presenceQ := s.port.presenceQ.place (isOnLine s.port .presence) (presenceNow s st)
      markQ := if witnessed s.cfg = [] then s.port.markQ
        else s.port.markQ.place (isOnLine s.port .mark) (markFields s) }) := by
  have sent : exec .presenceSend s
      = .next (placePresence st (s.setTb { s.tb with dues := { s.tb.dues with presence := false } })) := by
    simp only [exec, execPresenceSend, station]
    exact if_pos ⟨due, by simp [receives, on]⟩
  rw [sent]
  simp only [placePresence, List.isEmpty_iff, State.setTb_cfg]
  by_cases none : witnessed s.cfg = []
  · rw [if_pos none, if_pos none]
    rfl
  · rw [if_neg none, if_neg none]
    rfl

/-- Settles O34: each of the two queues takes its telegram as every one-entry queue does. -/
theorem presenceSendPlacesPresenceAndMark : Obligations.PresenceSendPlacesPresenceAndMark := by
  intro s st station due on tel mark
  have marks : mark = markFields s := rfl
  obtain ⟨entry, aside⟩ := OneQueue.place_spec (isOnLine s.port .presence) tel s.port.presenceQ
  obtain ⟨markEntry, markAside⟩ := OneQueue.place_spec (isOnLine s.port .mark) mark s.port.markQ
  refine ⟨_, exec_presenceSend station due on, rfl, entry, aside, fun none => if_pos none, fun some => ?_, fun some => ?_⟩
  · rw [← marks]
    simpa only [if_neg some] using markEntry
  · rw [← marks]
    simpa only [if_neg some] using markAside

end Sys2Proof.Machine
end

section
/-! The origins of the witness unit when one of them changes (R135, R136), and what the test of the GAP conditions then
makes of it (R141). -/

namespace Sys2Proof.Machine

/-! ## One origin changed -/

theorem originAt_of_mem {s : State} {o : Origin} (n : (s.wit.origins.map (·.place)).Nodup) (ho : o ∈ s.wit.origins) :
    originAt s o.place = some o := by
  cases found : originAt s o.place with
  | none => exact absurd (beq_self_eq_true o.place) (List.find?_eq_none.1 found o ho)
  | some x => rw [List.inj_on_of_nodup_map n (originAt_mem found) ho (originAt_place found)]

theorem originAt_of_originOf {s : State} {n : Nat} {o : Origin} (distinct : (s.wit.origins.map (·.place)).Nodup)
    (ho : originOf s n = some o) : originAt s o.place = some o :=
  originAt_of_mem distinct (originOf_mem ho)

/-- The origin of a station is replaced by one of the same partition and station. -/
theorem originOf_setOrigin {s : State} {n : Nat} {o o' : Origin} (ho : originOf s n = some o)
    (place : o'.place = o.place) (station : o'.station = o.station) : originOf (setOrigin o' s) n = some o' := by
  obtain ⟨this, before, after, split, earlier⟩ := List.find?_eq_some_iff_append.1 ho
  rw [originOf, setOrigin, State.setWit_wit, split, List.map_append, List.find?_append, List.map_cons,
    if_pos place.symm, List.find?_cons_of_pos (by simpa [station] using this)]
  cases first : (before.map fun x => if x.place = o'.place then o' else x).find? fun x => x.station == n with
  | none => rfl
  | some x =>
    obtain ⟨y, hy, rfl⟩ := List.mem_map.1 (List.mem_of_find?_eq_some first)
    have here := List.find?_some first
    by_cases same : y.place = o'.place
    · simp [same]
    · rw [if_neg same] at here
      exact absurd here (by simpa using earlier y hy)

/-- The origin of a station stays when that of another partition changes. -/
theorem originOf_setOrigin_of_place_ne {s : State} {n : Nat} {o y y' : Origin} (ho : originOf s n = some o)
    (hy : originAt s y.place = some y) (other : y.place ≠ o.place) (place : y'.place = y.place)
    (station : y'.station = y.station) : originOf (setOrigin y' s) n = some o := by
  obtain ⟨this, before, after, split, earlier⟩ := List.find?_eq_some_iff_append.1 ho
  rw [originOf, setOrigin, State.setWit_wit, split, List.map_append, List.find?_append, List.map_cons,
    if_neg fun e => other (place ▸ e.symm), List.find?_cons_of_pos (by simpa using this), List.find?_eq_none.2]
  · rfl
  · intro x hx
    obtain ⟨z, hz, rfl⟩ := List.mem_map.1 hx
    split
    · rename_i same
      have first : before.find? (fun x => x.place == y.place) = some y := by
        rw [originAt, split, List.find?_append] at hy
        cases found : before.find? (fun x => x.place == y.place) with
        | none => exact absurd (same.trans place) (by simpa using List.find?_eq_none.1 found z hz)
        | some x => simpa [found] using hy
      have := earlier y (List.mem_of_find?_eq_some first)
      simpa [station] using this
    · simpa using earlier z hz

/-- The origins of the other stations stay. -/
theorem originOf_setOrigin_of_ne {s : State} {n : Nat} {o o' : Origin} (distinct : (s.wit.origins.map (·.place)).Nodup)
    (ho : o ∈ s.wit.origins) (place : o'.place = o.place) (station : o'.station = o.station) (other : n ≠ o.station) :
    originOf (setOrigin o' s) n = originOf s n := by
  cases found : originOf s n with
  | some x =>
    have hx := originOf_mem found
    refine originOf_setOrigin_of_place_ne found (originAt_of_mem distinct ho) (fun same => other ?_) place station
    rw [List.inj_on_of_nodup_map distinct ho hx same, originOf_station found]
  | none =>
    refine List.find?_eq_none.2 fun x hx => ?_
    obtain ⟨y, hy, rfl⟩ := List.mem_map.1 hx
    split
    · simpa [station] using other.symm
    · exact List.find?_eq_none.1 found y hy

theorem setOrigin_setOrigin {s : State} {o o' : Origin} (place : o'.place = o.place) :
    setOrigin o' (setOrigin o s) = setOrigin o' s := by
  simp only [setOrigin, State.setWit, List.map_map]
  congr 2
  refine List.map_congr_left fun x _ => ?_
  by_cases same : x.place = o.place <;> simp [same, place]

theorem setOrigin_places (o : Origin) (s : State) :
    (setOrigin o s).wit.origins.map (·.place) = s.wit.origins.map (·.place) := by
  simp only [setOrigin, State.setWit, List.map_map]
  refine List.map_congr_left fun y _ => ?_
  by_cases same : y.place = o.place <;> simp [same]

/-- The changed origin alone changes a sum over the origins. -/
theorem sum_setOrigin (f : Origin → Nat) {o o' : Origin} (place : o'.place = o.place) {l : List Origin} (ho : o ∈ l)
    (distinct : (l.map (·.place)).Nodup) :
    ((l.map fun x => if x.place = o'.place then o' else x).map f).sum + f o = (l.map f).sum + f o' := by
  induction l with
  | nil => cases ho
  | cons x l ih =>
    rw [List.map_cons, List.nodup_cons] at distinct
    obtain ⟨fresh, distinct⟩ := distinct
    have apart : ∀ y ∈ l, y.place ≠ x.place := fun y hy same => fresh (same ▸ List.mem_map_of_mem hy)
    rcases List.mem_cons.1 ho with rfl | ho
    · have rest : l.map (fun x => if x.place = o'.place then o' else x) = l :=
        (List.map_congr_left fun y hy => if_neg fun same => apart y hy (same.trans place)).trans (List.map_id _)
      simp only [List.map_cons, rest, if_pos place.symm, List.sum_cons]
      omega
    · have other : x.place ≠ o'.place := fun same => apart o ho (place ▸ same.symm)
      have := ih ho distinct
      simp only [List.map_cons, if_neg other, List.sum_cons]
      omega

/-- The free shared slots follow what the changed origin has borrowed (R136). -/
theorem freeShared_setOrigin {s : State} {o o' : Origin} (place : o'.place = o.place) (ho : o ∈ s.wit.origins)
    (distinct : (s.wit.origins.map (·.place)).Nodup) {k : Nat} (more : o'.using .shared = o.using .shared + k) :
    freeShared (setOrigin o' s) = freeShared s - k := by
  have sum := sum_setOrigin (fun o => o.using .shared) place ho distinct
  simp only [freeShared, setOrigin, State.setWit, List.length_map] at sum ⊢
  omega

/-! ## The test of the GAP conditions (R141) -/

theorem setOrigin_gap_origin {s : State} {n : Nat} {o y : Origin} (ho : originOf s n = some o)
    (at_ : originAt s o.place = some o) (hy : originAt s y.place = some y) (g : Option Gap) :
    ∃ g', originOf (setOrigin { y with gap := g } s) n = some { o with gap := g' }
      ∧ originAt (setOrigin { y with gap := g } s) o.place = some { o with gap := g' } := by
  by_cases same : y.place = o.place
  · obtain rfl : y = o := Option.some.inj (by rw [← hy, same, at_])
    exact ⟨g, originOf_setOrigin ho rfl rfl, originAt_setOrigin (o' := { y with gap := g }) at_ rfl⟩
  · exact ⟨o.gap, originOf_setOrigin_of_place_ne ho hy same rfl rfl,
      (originAt_setOrigin_ne (o := { y with gap := g }) same).trans at_⟩

/-- A test of a partition's conditions leaves of every origin all but its GAP. -/
theorem formGap_origin {s : State} {n : Nat} {o : Origin} (ho : originOf s n = some o)
    (at_ : originAt s o.place = some o) (p : Nat) : ∃ g, originOf (formGap p s) n = some { o with gap := g }
      ∧ originAt (formGap p s) o.place = some { o with gap := g } := by
  rcases formGap_cases p s with ⟨same, -⟩ | ⟨y, hy, -, ⟨-, -, placed⟩ | ⟨-, waits⟩⟩
  · rw [same]
    exact ⟨o.gap, ho, at_⟩
  · rw [placed]
    exact setOrigin_gap_origin ho at_ (originAt_place hy ▸ hy) _
  · rw [waits]
    exact setOrigin_gap_origin ho at_ (originAt_place hy ▸ hy) _

theorem testGaps_origin {s : State} {n : Nat} {o : Origin} (ho : originOf s n = some o)
    (at_ : originAt s o.place = some o) : ∃ g, originOf (testGaps s) n = some { o with gap := g }
      ∧ originAt (testGaps s) o.place = some { o with gap := g } := by
  obtain ⟨g0, h0, at0⟩ := formGap_origin ho at_ 0
  obtain ⟨g1, h1, at1⟩ := formGap_origin h0 at0 1
  exact formGap_origin h1 at1 2

/-- What the test makes of the origin of a station: of each partition's one origin, what its conditions say. -/
theorem testGaps_originTested {s : State} {n : Nat} {o : Origin} (ho : originOf s n = some o)
    (at_ : originAt s o.place = some o) : ∃ g, originOf (testGaps s) n = some { o with gap := g }
      ∧ ((s.wit.origins.map (·.place)).Nodup → o.place < 3 → OriginTested o s (testGaps s) g) := by
  obtain ⟨g, found, here⟩ := testGaps_origin ho at_
  refine ⟨g, found, fun distinct low => ?_⟩
  obtain ⟨g', tested⟩ := testGaps_tested distinct at_ low
  obtain rfl : g = g' := congrArg Origin.gap (Option.some.inj (here.symm.trans tested.origin))
  exact tested

theorem testGaps_not_recording {s : State} (h : s.supply.station ≠ some .recording) : testGaps s = s := by
  have idle (p : Nat) : formGap p s = s := formGap_idle fun y _ _ => by simp [gapWanted, h]
  rw [testGaps, idle, idle, idle]

/-- With no more slots available no more is wanted. -/
theorem gapWanted_of_fewer {s t : State} {o : Origin} (supply : t.supply = s.supply)
    (fewer : slotsAvailable t o ≤ slotsAvailable s o) (h : gapWanted s o = false) : gapWanted t o = false := by
  rw [Bool.eq_false_iff] at h ⊢
  refine fun wanted => h ?_
  simp only [gapWanted, supply, Bool.and_eq_true, decide_eq_true_eq] at wanted ⊢
  exact ⟨wanted.1, wanted.2.trans fewer⟩

/-- The test told of the state before the change of its origin: the change may only take slots from the others. -/
theorem GapTested.of_setOrigin {s t : State} {o o' : Origin} {e known slots : Nat} {gap : Option Gap}
    (place : o'.place = o.place) (station : o'.station = o.station)
    (fewer : freeShared (setOrigin o' s) ≤ freeShared s)
    (h : GapTested (setOrigin o' s) t o' e known slots gap) : GapTested s t o e known slots gap := by
  have waits : (∃ y ∈ (setOrigin o' s).wit.origins, y.place ≠ o'.place ∧ WaitsForRoom y)
      ↔ ∃ y ∈ s.wit.origins, y.place ≠ o.place ∧ WaitsForRoom y := by
    constructor
    · rintro ⟨y, hy, other, wait⟩
      obtain ⟨x, hx, rfl⟩ := List.mem_map.1 hy
      by_cases same : x.place = o'.place
      · rw [if_pos same] at other
        exact absurd rfl other
      · rw [if_neg same] at other wait
        exact ⟨x, hx, place ▸ other, wait⟩
    · rintro ⟨y, hy, other, wait⟩
      exact ⟨y, mem_setOrigin_of_ne hy (place ▸ other), place ▸ other, wait⟩
  have first (idle : ∀ y ∈ s.wit.origins, y.place < o.place → gapWanted s y = false) :
      ∀ y ∈ (setOrigin o' s).wit.origins, y.place < o'.place → gapWanted (setOrigin o' s) y = false := by
    intro y hy before
    obtain ⟨x, hx, rfl⟩ := List.mem_map.1 hy
    have apart : x.place ≠ o'.place := by
      intro same
      rw [if_pos same] at before
      exact absurd before (Nat.lt_irrefl _)
    rw [if_neg apart] at before ⊢
    refine gapWanted_of_fewer (by simp) ?_ (idle x hx (place ▸ before))
    simpa [slotsAvailable, freeReserved] using fewer
  obtain ⟨none_, some_⟩ := h
  refine ⟨none_, fun h1 h2 => ?_⟩
  obtain ⟨x, gap, placed, wait, room⟩ := some_ h1 h2
  rw [waits] at wait room
  rw [station] at placed
  exact ⟨x, gap, placed, wait, fun r w idle => room r w (first idle)⟩

/-- The test told of states that a report before it, or a flash-idle event after it, leads from and to: those may take
tickets, and change nothing else that it looks at. -/
theorem GapTested.widen {s u v t : State} {o : Origin} {e known slots : Nat} {gap : Option Gap}
    (h : GapTested u v o e known slots gap) (wit : u.wit = s.wit) (supply : u.supply = s.supply) (cfg : u.cfg = s.cfg)
    (queueBefore : u.port.gapQ = s.port.gapQ) (before : s.port.ticket ≤ u.port.ticket)
    (queueAfter : t.port.gapQ = v.port.gapQ) (after : v.port.ticket ≤ t.port.ticket) :
    GapTested s t o e known slots gap := by
  have wanted : gapWanted u = gapWanted s := by
    funext y
    rw [gapWanted, slotsAvailable, freeShared, freeReserved, wit, supply, cfg]
    rfl
  simp only [GapTested, wanted, wit, queueBefore, ← queueAfter] at h ⊢
  refine ⟨h.1, fun h1 h2 => ?_⟩
  obtain ⟨x, formed, placed, rest⟩ := h.2 h1 h2
  refine ⟨x, formed, placed.imp_right fun ⟨n, waits, low, high⟩ => ?_, rest⟩
  exact ⟨n, waits, before.trans low, high.trans_le after⟩

end Sys2Proof.Machine
end

section
/-! The expiries of the witness unit (O36), and the producers that wait for room in the RECORD and GAP queues (O35). -/

namespace Sys2Proof.Machine

/-! ## The end of a GAP that is 10 s old (R141) -/

/-- A change of an origin's GAP alone leaves all but the GAPs. -/
theorem setOrigin_ungapped {s : State} {o : Origin} (distinct : (s.wit.origins.map (·.place)).Nodup)
    (ho : o ∈ s.wit.origins) (g : Option Gap) :
    (setOrigin { o with gap := g } s).wit.origins.map (fun y => { y with gap := none })
      = s.wit.origins.map (fun y => { y with gap := none }) := by
  refine (List.map_map ..).trans (List.map_congr_left fun y hy => ?_)
  dsimp only [Function.comp]
  split
  · rename_i same
    rw [List.inj_on_of_nodup_map distinct hy ho same]
  · rfl

theorem freeShared_setGap {s : State} {o : Origin} (distinct : (s.wit.origins.map (·.place)).Nodup)
    (ho : o ∈ s.wit.origins) (g : Option Gap) : freeShared (setOrigin { o with gap := g } s) = freeShared s :=
  freeShared_setOrigin (o := o) (o' := { o with gap := g }) rfl ho distinct (k := 0) rfl

theorem exec_gapExpiry_sent {s : State} {origin : BitVec 5} {o : Origin} {g : Gap} {n : Nat}
    (ho : originOf s origin.toNat = some o) (gap : o.gap = some g) (sent : g.phase = .sent n) :
    exec (.gapExpiry origin) s = .next (if s.supply.station ≠ none ∧ n + 10240 ≤ s.elapsed
      then testGaps (setOrigin { o with gap := none } s) else s) := by
  have old : gapExpired s o = true ↔ n + 10240 ≤ s.elapsed := by
    rw [gapExpired_iff, SentLongAgo]
    simp [gap, sent]
  simp only [exec, execGapExpiry, ho, old, inReset, beq_eq_false_iff_ne]
  split <;> rfl

/-- A GAP_EXPIRY of an origin without a GAP transmitted has no effect (log entry 3). -/
theorem exec_gapExpiry_unsent {s : State} {origin : BitVec 5}
    (unsent : ∀ o g n, originOf s origin.toNat = some o → o.gap = some g → g.phase ≠ .sent n) :
    exec (.gapExpiry origin) s = .next s := by
  cases ho : originOf s origin.toNat with
  | none => simp only [exec, execGapExpiry, ho]
  | some o =>
    have young : ¬ gapExpired s o = true := by
      rw [gapExpired_iff]
      rintro ⟨g, n, gap, sent, -⟩
      exact unsent o g n ho gap sent
    simp only [exec, execGapExpiry, ho]
    exact if_neg fun ⟨_, old⟩ => young old

/-- A GAP that is transmitted waits no more: those that wait are of the other origins. -/
theorem gapTickets_ne_nil_of_sent {s : State} {o : Origin} {g : Gap} {n : Nat}
    (distinct : (s.wit.origins.map (·.place)).Nodup) (ho : o ∈ s.wit.origins) (gap : o.gap = some g)
    (sent : g.phase = .sent n) :
    gapTickets s ≠ [] ↔ ∃ y ∈ s.wit.origins, y.place ≠ o.place ∧ WaitsForRoom y := by
  rw [Ne, gapTickets_eq_nil]
  push Not
  refine exists_congr fun y => and_congr_right fun hy => ⟨fun waits => ⟨fun same => ?_, waits⟩, fun ⟨_, waits⟩ => waits⟩
  obtain ⟨x, m, gap', waiting⟩ := waits
  rw [List.inj_on_of_nodup_map distinct hy ho same, gap] at gap'
  obtain rfl := Option.some.inj gap'
  rw [sent] at waiting
  cases waiting

/-! ## The marks and the lag hold-off (R147, R149) -/

theorem exec_markEntryExpiry {s : State} (acts : s.supply.station ≠ none) (station : BitVec 5) :
    exec (.markEntryExpiry station) s = .next (s.setWit { s.wit with
      marks := s.wit.marks.filter (fun m => decide (m.station ≠ station.toNat ∨ s.elapsed - m.at_ < 614400)) }) := by
  have test (m : WitnessMark) :
      (!(decide (m.station = station.toNat) && decide (10 * Config.ticksPerMinute ≤ since s m.at_)))
        = decide (m.station ≠ station.toNat ∨ s.elapsed - m.at_ < 614400) := by
    rw [Bool.eq_iff_iff]
    simp only [Bool.not_eq_true', Bool.and_eq_false_iff, decide_eq_false_iff_not, Nat.not_le, decide_eq_true_eq]
    rfl
  simp only [exec, execMarkEntryExpiry, inReset, beq_iff_eq, if_neg acts, test]

theorem lagTestOn_iff (s : State) : lagTestOn s = true ↔ ∀ n, s.wit.lagHoldoff = some n → 614400 ≤ s.elapsed - n := by
  unfold lagTestOn
  cases s.wit.lagHoldoff with
  | none => simp
  | some n => exact decide_eq_true_iff.trans ⟨fun h m e => Option.some.inj e ▸ h, fun h => h n rfl⟩

theorem exec_witnessLagHoldoffEnd {s : State} (acts : s.supply.station ≠ none) : exec .witnessLagHoldoffEnd s
    = .next (if lagTestOn s then s.setWit { s.wit with lagHoldoff := none } else s) := by
  have awake : inReset s = false := beq_eq_false_iff_ne.2 acts
  simp only [exec, execWitnessLagHoldoffEnd, awake, true_and]
  split <;> rfl

/-- Settles O36: the end of an old GAP and the test that follows, the other expiries, and reset. -/
theorem witnessExpiriesEndWhatIsOld : Obligations.WitnessExpiriesEndWhatIsOld := by
  refine ⟨fun origin s o g n acts accounted ho gap sent => ⟨fun old => ?_, fun young => ?_⟩,
    fun origin s unsent => exec_gapExpiry_unsent unsent, fun station s acts => exec_markEntryExpiry acts station,
    fun s acts => ⟨fun n holdoff late => ?_, fun early => ?_⟩, fun n s reset => ⟨?_, ?_, ?_⟩⟩
  · intro slots wanted
    have distinct := accounted.partitions
    have member := originOf_mem ho
    let s1 := setOrigin { o with gap := none } s
    have distinct1 : (s1.wit.origins.map (·.place)).Nodup := by rwa [setOrigin_places]
    have origin1 : originOf s1 origin.toNat = some { o with gap := none } := originOf_setOrigin ho rfl rfl
    have slots1 : slotsAvailable s1 { o with gap := none } = slots := slots_setOrigin none member distinct _
    obtain ⟨gap', found, tested⟩ := testGaps_originTested origin1 (originAt_of_originOf distinct1 origin1)
    have tested := tested distinct1 (accounted.places o member)
    have formed := testGaps_formed s1
    have here : s1.supply.station = s.supply.station := by simp [s1]
    have ungapped := setOrigin_ungapped distinct member none
    have test (recording : s.supply.station = some .recording) :
        GapTested s (testGaps s1) o o.expected o.known slots gap' := by
      have := tested.tested rfl (here.trans recording)
      rw [slots1] at this
      exact GapTested.of_setOrigin (o := o) (o' := { o with gap := none }) rfl rfl (freeShared_setGap distinct member none).le this
    refine ⟨testGaps s1, { o with gap := gap' }, ?_, found, rfl, fun unwanted => ?_, fun ⟨recording, behind, free⟩ => ?_,
      (formed.others distinct1).trans ungapped, fun y hy other stays => ?_, ?_, fun elsewhere => ?_, ?_⟩
    · rw [exec_gapExpiry_sent ho gap sent, if_pos ⟨acts, old⟩]
    · by_cases recording : s.supply.station = some .recording
      · exact (test recording).1 fun ⟨behind, free⟩ => unwanted ⟨recording, behind, free⟩
      · exact tested.kept (.inr (here ▸ recording))
    · obtain ⟨x, formedAs, placed, waits, queued⟩ := (test recording).2 behind free
      have others := gapTickets_ne_nil_of_sent distinct member gap sent
      exact ⟨x, formedAs, placed, fun full => waits (full.imp_right others.1),
        fun room none => queued room fun w => others.2 w none⟩
    · have hy1 : y ∈ s1.wit.origins := mem_setOrigin_of_ne hy other
      rcases stays with busy | elsewhere
      · exact formed.kept distinct1 y hy1 busy
      · rwa [testGaps_not_recording (here ▸ elsewhere)]
    · rw [formed.witness]
      rfl
    · rw [testGaps_not_recording (here ▸ elsewhere)]
      rfl
    · exact State.eq_of_blocks (by simpa [s1] using formed.port)
  · rw [exec_gapExpiry_sent ho gap sent, if_neg fun ⟨_, old⟩ => absurd old (Nat.not_le.2 young)]
  · rw [exec_witnessLagHoldoffEnd acts, if_pos ((lagTestOn_iff s).2 fun m hm => ?_)]
    obtain rfl := Option.some.inj (holdoff.symm.trans hm)
    exact late
  · rw [exec_witnessLagHoldoffEnd acts]
    rcases early with ended | ⟨n, holdoff, short⟩
    · rw [show s.setWit { s.wit with lagHoldoff := none } = s by rw [← ended]; rfl, ite_self]
    · exact congrArg _ (if_neg fun on => absurd ((lagTestOn_iff s).1 on n holdoff) (Nat.not_le.2 short))
  · simp only [exec, execGapExpiry, inReset, reset]
    cases originOf s n.toNat <;> rfl
  · simp only [exec, execMarkEntryExpiry, inReset, reset]
    rfl
  · simp only [exec, execWitnessLagHoldoffEnd, inReset, reset]
    rfl

end Sys2Proof.Machine
end

section
/-! The producers that wait for room: releases and backfills in the RECORD queue, GAPs in the GAP queue (O35). -/

namespace Sys2Proof.Machine

theorem operationsOn_iff {s : State} :
    operationsOn s = true ↔ s.supply.station = some .timeUnset ∨ CatchingUpOrRecording s := by
  simp [operationsOn, CatchingUpOrRecording, or_assoc]

theorem longestWaiting_iff {n : Nat} {l : List Nat} : longestWaiting n l = true ↔ ∀ m ∈ l, n ≤ m := by
  simp [longestWaiting]

/-! ## Releases (R160) -/

theorem unplaced_iff {e : OutEntry} : unplaced e = true ↔ e.state = .waitingPublish ∧ e.placed = false := by
  simp [unplaced]

theorem mem_backfillTicket {s : State} {m : Nat} : m ∈ backfillTicket s ↔ ∃ r, s.wit.work = .ready r m := by
  unfold backfillTicket
  split <;> simp_all [eq_comm]

/-- The release begins to wait, with the next ticket, when an archived entry is unplaced (log entry 14). -/
theorem renewRelease_of_none {s : State} (h : s.arch.releaseTicket = none) : renewRelease s =
    (s.setArch { s.arch with
      releaseTicket := if s.arch.outbound.any unplaced then some s.port.ticket else none }).setPort
      { s.port with ticket := if s.arch.outbound.any unplaced then s.port.ticket + 1 else s.port.ticket } := by
  unfold renewRelease
  split
  · simp only [h]
    rfl
  · rfl

theorem placeRelease_eq {s : State} {older younger : List OutEntry} {e : OutEntry}
    (split : s.arch.outbound = older ++ e :: younger) (this : unplaced e = true)
    (earlier : ∀ x ∈ older, unplaced x = false) : placeRelease e s =
    (s.setArch { s.arch with
      outbound := older ++ { e with placed := true } :: younger
      releaseTicket := if younger.any unplaced then some s.port.ticket else none }).setPort { s.port with
        recordQ := s.port.recordQ ++ [⟨e.toRec s.cfg.own, false⟩]
        ticket := if younger.any unplaced then s.port.ticket + 1 else s.port.ticket } := by
  have marked := modifyFirst_split unplaced (fun x => { x with placed := true }) older younger e this earlier
  have left : (older ++ { e with placed := true } :: younger).any unplaced = younger.any unplaced := by
    rw [List.any_append, List.any_cons, List.any_eq_false.2 fun x hx => Bool.eq_false_iff.1 (earlier x hx)]
    simp [unplaced]
  rw [placeRelease, split, marked, renewRelease_of_none rfl]
  simp only [State.setPort_arch, State.setArch_arch, left]
  rfl

theorem exec_recordRelease {s : State} {e : OutEntry} {n : Nat} (room : s.port.recordQ.length < 4)
    (on : s.supply.station = some .timeUnset ∨ CatchingUpOrRecording s)
    (oldest : s.arch.outbound.find? unplaced = some e) (ticket : s.arch.releaseTicket = some n)
    (longest : ∀ r m, s.wit.work = .ready r m → n ≤ m) : exec .recordRelease s = .next (placeRelease e s) := by
  simp only [exec, execRecordRelease, oldest, ticket, Option.getD_some]
  refine if_pos ⟨operationsOn_iff.2 on, room, longestWaiting_iff.2 fun m hm => ?_⟩
  obtain ⟨r, ready⟩ := mem_backfillTicket.1 hm
  exact longest r m ready

/-! ## Backfills (R143) -/

theorem exec_backfillPlace {s : State} {r : Rec} {n : Nat} (room : s.port.recordQ.length < 4)
    (here : CatchingUpOrRecording s) (ready : s.wit.work = .ready r n)
    (longest : ∀ m, s.arch.releaseTicket = some m → n ≤ m) : exec .backfillPlace s = .next (placeBackfill r s) := by
  simp only [exec, execBackfillPlace, ready]
  exact if_pos ⟨running_iff.2 here, room, longestWaiting_iff.2 fun m hm => longest m (Option.mem_toList.1 hm)⟩

/-- The head job goes on to its next sequence, or leaves after its last, and the job then at the head asks for its
read. -/
theorem advanceBackfill_cons {s : State} {j : Backfill} {rest : List Backfill} (jobs : s.wit.jobs = j :: rest) :
    let left := if j.next < j.last then { j with next := j.next + 1 } :: rest else rest
    advanceBackfill s = (s.setWit { s.wit with jobs := left, work := if left = [] then .idle else .reading }).setArch
      { s.arch with
        requests := s.arch.requests ++ (left.head?.map (fun x => ⟨.backfill, .own, x.next⟩)).toList } := by
  intro left
  simp only [advanceBackfill, jobs]
  change startBackfill (s.setWit { s.wit with jobs := left }) = _
  cases left with
  | nil =>
    refine State.eq_of_blocks ?_
    simp [startBackfill]
  | cons x xs => rfl

/-- Settles O35: a release, a backfill, and a waiting GAP, each in its turn and with room. -/
theorem waitingProducersJoinTheirQueues : Obligations.WaitingProducersJoinTheirQueues := by
  refine ⟨fun s room => ⟨fun older e younger n on split waits free earlier ticket longest => ?_,
    fun r n here ready longest => ?_⟩, fun origin s o g n ho gap waiting room on held longest => ?_⟩
  · have this := unplaced_iff.2 ⟨waits, free⟩
    have before : ∀ x ∈ older, unplaced x = false := fun x hx =>
      Bool.eq_false_iff.2 fun h => earlier x hx (unplaced_iff.1 h)
    have oldest : s.arch.outbound.find? unplaced = some e := split ▸ find_split unplaced older younger e this before
    refine ⟨placeRelease e s, exec_recordRelease room on oldest ticket longest, ?_⟩
    rw [placeRelease_eq split this before]
    exact ⟨rfl, rfl, rfl⟩
  · let u := advanceBackfill (s.setPort { s.port with recordQ := s.port.recordQ ++ [⟨r, true⟩] })
    have port : u.port = { s.port with recordQ := s.port.recordQ ++ [⟨r, true⟩] } := by simp [u]
    have queue : (flashIdle u).port.recordQ = s.port.recordQ ++ [⟨r, true⟩] := by simp [u]
    refine ⟨flashIdle u, u, exec_backfillPlace room here ready longest, queue, by simp [u], by simp [u], by simp [u],
      State.eq_of_blocks ?_, rfl, by rw [queue, port], fun j rest jobs => ?_⟩
    · have kept := flashIdle_port u
      rw [port] at kept
      simpa [u] using kept
    · have advanced := advanceBackfill_cons (s := s.setPort { s.port with recordQ := s.port.recordQ ++ [⟨r, true⟩] }) jobs
      dsimp only at advanced ⊢
      rw [show u = _ from advanced]
      exact ⟨rfl, rfl⟩
  · have turn : placesTelegrams s = true := by simp [placesTelegrams, Option.isSome_iff_ne_none, on, held]
    simp only [exec, execGapPlace, ho, waitingGap, gap, waiting]
    exact if_pos ⟨turn, room, longestWaiting_iff.2 longest⟩

end Sys2Proof.Machine
end

section
/-! Records of witnessed origins: staged (O28), and not staged (O29). -/

namespace Sys2Proof.Machine

/-! ## Tickets (R122, log entry 14) -/

theorem jobReady_ticket (j : Job) (a : Answer) (skip : Bool) (s : State) :
    s.port.ticket ≤ (jobReady j a skip s).port.ticket := by
  simp [jobReady, nextTicket]

theorem workJob_ticket (j : Job) (s : State) : s.port.ticket ≤ (workJob j s).port.ticket := by
  simp only [workJob]
  split
  · exact jobReady_ticket ..
  · exact Nat.le_refl _
  · exact jobReady_ticket ..
  · split <;> exact Nat.le_refl _

theorem jobResult_ticket (n : Nat) (res : Option Rec) (s : State) :
    s.port.ticket ≤ (jobResult n res s).port.ticket := by
  unfold jobResult
  split
  · exact Nat.le_refl _
  · split
    · split
      · exact jobReady_ticket ..
      · exact workJob_ticket _ s
    · exact workJob_ticket _ s
    · exact jobReady_ticket ..
    · exact jobReady_ticket ..

theorem wakeFollows_ticket (origin : Nat) (s : State) : s.port.ticket ≤ (wakeFollows origin s).port.ticket := by
  suffices all : ∀ (l : List Job) (u : State), u.port.ticket ≤ (l.foldl (fun t j => workJob j t) u).port.ticket from
    all _ s
  intro l
  induction l with
  | nil => exact fun u => Nat.le_refl _
  | cons j l ih => exact fun u => (workJob_ticket j u).trans (ih _)

theorem serveOne_ticket (s : State) : s.port.ticket ≤ (serveOne s).port.ticket := by
  unfold serveOne
  split
  · exact Nat.le_refl _
  · rename_i q rest _
    dsimp only
    split
    · unfold backfillResult
      split <;> simp [nextTicket]
    · exact jobResult_ticket _ _ (s.setArch { s.arch with requests := rest })
    · exact Nat.le_refl _

/-- A flash-idle event may take tickets, for the answers of the reads it serves. -/
theorem flashIdle_ticket (s : State) : s.port.ticket ≤ (flashIdle s).port.ticket := by
  have served : ∀ (n : Nat) (u : State), u.port.ticket ≤ (serveReads n u).port.ticket := by
    intro n
    induction n with
    | zero => exact fun u => Nat.le_refl _
    | succ n ih =>
      intro u
      rw [serveReads]
      split
      · exact Nat.le_refl _
      · exact (serveOne_ticket u).trans (ih _)
  unfold flashIdle
  split
  · exact Nat.le_refl _
  · dsimp only
    split <;> simpa using served _ s

/-! ## The taking of a record (R137) -/

/-- The record of a RECORD telegram. -/
def receivedRecord (k : RecordKind) (head : RecordHead) (body : List Byte) : Rec :=
  ⟨k, head.origin.toNat, head.seq.toNat, head.start.toNat, body⟩

theorem exec_receiveRecord {sender : BitVec 5} {head : RecordHead} {body : List Byte} {s : State} {k : RecordKind}
    (hears : Hears s sender) (kind : recordKindOf head.kind.toNat = some k) (length : bodyLengthOk k body = true) :
    exec (.receiveRecord sender head body) s = .next (takeRecord sender head body s) := by
  have permitted := (recordPermitted_iff head body).2 ⟨k, kind, length⟩
  simp only [exec, execReceiveRecord, permitted, deliver_hears hears]

theorem takeRecord_own {sender : BitVec 5} {head : RecordHead} {body : List Byte} {s : State} {k : RecordKind}
    {o : Origin} (kind : recordKindOf head.kind.toNat = some k) (recording : s.supply.station = some .recording)
    (ho : originOf s sender.toNat = some o) (own : head.origin.toNat = sender.toNat) :
    takeRecord sender head body s = witnessRecord o (receivedRecord k head body) s := by
  simp only [takeRecord, recordOf, kind, Option.map_some, ho]
  exact if_pos ⟨recording, own⟩

/-- A record outside RECORDING, of another station than its sender, or of an origin not witnessed is passed over. -/
theorem takeRecord_ignored {sender : BitVec 5} {head : RecordHead} {body : List Byte} {s : State}
    (no : s.supply.station ≠ some .recording ∨ head.origin.toNat ≠ sender.toNat ∨ originOf s head.origin.toNat = none) :
    takeRecord sender head body s = s := by
  unfold takeRecord
  split
  · rename_i o _ ho
    refine if_neg fun ⟨recording, own⟩ => ?_
    rcases no with elsewhere | other | unwitnessed
    · exact elsewhere recording
    · exact other own
    · rw [own, ho] at unwitnessed
      cases unwitnessed
  · rfl

/-- The known latest of an origin follows a record of it (R137). -/
def Origin.following (o : Origin) (seq : Nat) : Origin := { o with known := max o.known seq }

theorem freeShared_following {s : State} {o : Origin} (ho : o ∈ s.wit.origins)
    (distinct : (s.wit.origins.map (·.place)).Nodup) (seq : Nat) :
    freeShared (setOrigin (o.following seq) s) = freeShared s :=
  freeShared_setOrigin (o := o) (o' := o.following seq) rfl ho distinct (k := 0) rfl

theorem following_ungapped {s : State} {o : Origin} (ho : o ∈ s.wit.origins)
    (distinct : (s.wit.origins.map (·.place)).Nodup) (seq : Nat) :
    (setOrigin (o.following seq) s).wit.origins.map (fun x => { x with gap := none })
      = s.wit.origins.map (fun x => { x with
          gap := none, known := if x.place = o.place then max o.known seq else x.known }) := by
  refine (List.map_map ..).trans (List.map_congr_left fun x hx => ?_)
  by_cases same : x.place = o.place
  · obtain rfl := List.inj_on_of_nodup_map distinct hx ho same
    simp [Origin.following]
  · simp [Origin.following, same]

/-- A slot is found for the record exactly when one is free, a shared one first (R136). -/
theorem poolFor_following {s : State} {o : Origin} (ho : o ∈ s.wit.origins)
    (distinct : (s.wit.origins.map (·.place)).Nodup) (seq : Nat) :
    poolFor (setOrigin (o.following seq) s) (o.following seq)
      = if 0 < freeShared s then some .shared else if 0 < freeReserved s o then some .reserved else none := by
  have reserved : freeReserved (setOrigin (o.following seq) s) (o.following seq) = freeReserved s o := by
    simp only [freeReserved, setOrigin_frame]
    rfl
  rw [poolFor, freeShared_following ho distinct, reserved]

/-! ## Records not staged -/

/-- A record that is not the next one expected is only heard of; one that finds the archive in FAULT, or no slot, is a
refusal besides (R137). -/
theorem witnessRecord_unstaged {s : State} {o : Origin} {r : Rec} (ho : o ∈ s.wit.origins)
    (distinct : (s.wit.origins.map (·.place)).Nodup)
    (no : r.seq ≠ o.expected ∨ s.arch.state = .fault ∨ (freeShared s = 0 ∧ freeReserved s o = 0)) :
    ∃ y, witnessRecord o r s = testGaps ((setOrigin (o.following r.seq) s).setYear y)
      ∧ (r.seq ≠ o.expected → y = s.year)
      ∧ (r.seq = o.expected → y = { s.year with day := s.year.day.bump .refusals 1 }) := by
  by_cases next : r.seq = o.expected
  · refine ⟨{ s.year with day := s.year.day.bump .refusals 1 }, ?_, fun other => absurd next other, fun _ => rfl⟩
    have form : witnessRecord o r s
        = expectedRecord (o.following r.seq) r (setOrigin (o.following r.seq) s) := if_pos next
    have refused : decide ((setOrigin (o.following r.seq) s).arch.state = .fault) = true
        ∨ poolFor (setOrigin (o.following r.seq) s) (o.following r.seq) = none := by
      rw [poolFor_following ho distinct]
      rcases no with other | fault | ⟨shared, reserved⟩
      · exact absurd next other
      · exact .inl (decide_eq_true fault)
      · simp [shared, reserved]
    rw [form, expectedRecord]
    rcases refused with fault | full
    · rw [fault]
      rfl
    · rw [full]
      cases decide ((setOrigin (o.following r.seq) s).arch.state = .fault) <;> rfl
  · exact ⟨s.year, if_neg next, fun _ => rfl, fun same => absurd same next⟩

/-- Settles O29: a record passed over, and one that is heard of or refused, after which the conditions are tested. -/
theorem unexpectedOrRefusedRecordIsNotStaged : Obligations.UnexpectedOrRefusedRecordIsNotStaged := by
  refine ⟨fun sender head body s k hears kind length no => ?_,
    fun sender head body s o k accounted hears recording ho own kind length no => ?_⟩
  · rw [exec_receiveRecord hears kind length, takeRecord_ignored no]
  · have distinct := accounted.partitions
    have member := originOf_mem ho
    obtain ⟨y, form, unexpected, refused⟩ := witnessRecord_unstaged (r := receivedRecord k head body) member distinct no
    let heard := o.following head.seq.toNat
    let u := (setOrigin heard s).setYear y
    have distinct1 : (u.wit.origins.map (·.place)).Nodup := by rwa [State.setYear_wit, setOrigin_places]
    have origin1 : originOf u sender.toNat = some heard := originOf_setOrigin ho rfl rfl
    obtain ⟨gap, found, tested⟩ := testGaps_originTested origin1 (originAt_of_originOf distinct1 origin1)
    have tested := tested distinct1 (accounted.places o member)
    have formed := testGaps_formed u
    refine ⟨testGaps u, { heard with gap := gap }, ?_, found, fun busy => tested.kept (.inl busy), fun free => ?_,
      formed.queue, formed.witness, ?_, fun x hx other busy => formed.kept distinct1 x (mem_setOrigin_of_ne hx other) busy,
      formed.port, fun other => ?_, fun next => ?_, ?_⟩
    · rw [exec_receiveRecord hears kind length, takeRecord_own kind recording ho own, form]
      rfl
    · have shared := freeShared_following member distinct head.seq.toNat
      have test : GapTested (setOrigin heard s) (testGaps u) heard o.expected heard.known
          (freeShared (setOrigin heard s) + freeReserved s o) gap := tested.tested free recording
      rw [shared] at test
      exact test.of_setOrigin (o := o) (o' := heard) rfl rfl shared.le
    · exact (formed.others distinct1).trans (following_ungapped member distinct _)
    · rw [← unexpected other]
      simp [u]
    · have counted := refused next
      rw [show (testGaps u).year = y by simp [u], counted]
      rfl
    · refine State.eq_of_blocks ?_
      simp [u]

end Sys2Proof.Machine
end

section
/-! The expected record of an origin, staged (O28). -/

namespace Sys2Proof.Machine

/-! ## The origin of a staged record (R136, R137, R141) -/

/-- The origin with the record at the tail of its staged list, before its GAP is looked at. -/
def Origin.staging (o : Origin) (r : Rec) (p : Pool) : Origin :=
  { o with known := max o.known r.seq, staged := o.staged ++ [⟨r, p⟩] }

theorem staging_expected (o : Origin) (r : Rec) (p : Pool) : (o.staging r p).expected = o.expected + 1 := by
  simp [Origin.staging, Origin.expected]
  omega

theorem staging_using (o : Origin) (r : Rec) (p q : Pool) :
    (o.staging r p).using q = o.using q + if p = q then 1 else 0 := by
  simp [Origin.staging, Origin.using, List.countP_append, List.countP_cons]

/-- A record takes away the GAP that it answers, and nothing else of its origin. -/
theorem endAnswered_eq (o : Origin) : endAnswered o = { o with gap := (endAnswered o).gap } := by
  unfold endAnswered
  split
  · split <;> rfl
  · rfl

theorem endAnswered_outstanding {o : Origin} {g : Gap} (gap : o.gap = some g) (more : o.expected < g.first + g.count) :
    (endAnswered o).gap = some g := by
  simp only [endAnswered, gap, if_neg (Nat.not_le.2 more)]

theorem endAnswered_ended {o : Origin} (h : o.gap = none ∨ ∃ g, o.gap = some g ∧ g.first + g.count ≤ o.expected) :
    (endAnswered o).gap = none := by
  rcases h with free | ⟨g, gap, past⟩
  · simp only [endAnswered, free]
  · simp only [endAnswered, gap, if_pos past]

/-- The slot that the record takes is one less of those available, and none less of those of another origin (R136). -/
theorem staging_slots {s : State} {o o' : Origin} {r : Rec} {p : Pool} {gap : Option Gap} (ho : o ∈ s.wit.origins)
    (distinct : (s.wit.origins.map (·.place)).Nodup) (form : o' = { o.staging r p with gap := gap })
    (pool : p = if 0 < freeShared s then .shared else .reserved) :
    freeShared (setOrigin o' s) ≤ freeShared s
    ∧ slotsAvailable (setOrigin o' s) o' = freeShared s + freeReserved s o - 1 := by
  have using_ (q : Pool) : o'.using q = o.using q + if p = q then 1 else 0 := by
    rw [form]
    exact staging_using o r p q
  have place : o'.place = o.place := by rw [form]; rfl
  have shared := freeShared_setOrigin place ho distinct (using_ .shared)
  have reserved : freeReserved (setOrigin o' s) o' = freeReserved s o - if p = .reserved then 1 else 0 := by
    simp only [freeReserved, setOrigin_frame, using_]
    omega
  rw [slotsAvailable, shared, reserved]
  by_cases some : 0 < freeShared s
  · rw [pool, if_pos some]
    simp
    omega
  · rw [pool, if_neg some]
    simp
    omega

theorem witnessRecord_staged {s : State} {o : Origin} {r : Rec} (ho : o ∈ s.wit.origins)
    (distinct : (s.wit.origins.map (·.place)).Nodup) (next : r.seq = o.expected) (good : s.arch.state ≠ .fault)
    (free : 0 < freeShared s ∨ 0 < freeReserved s o) {p : Pool}
    (pool : p = if 0 < freeShared s then .shared else .reserved) :
    witnessRecord o r s = flashIdle (testGaps (setOrigin (endAnswered (o.staging r p)) s)) := by
  have form : witnessRecord o r s
      = expectedRecord (o.following r.seq) r (setOrigin (o.following r.seq) s) := if_pos next
  have ready : decide ((setOrigin (o.following r.seq) s).arch.state = .fault) = false := decide_eq_false good
  have slot : poolFor (setOrigin (o.following r.seq) s) (o.following r.seq) = some p := by
    rw [poolFor_following ho distinct, pool]
    by_cases shared : 0 < freeShared s
    · rw [if_pos shared, if_pos shared]
    · rw [if_neg shared, if_neg shared, if_pos (free.resolve_left shared)]
  have place : (endAnswered (o.staging r p)).place = (o.following r.seq).place := by
    rw [endAnswered_eq]
    rfl
  rw [form, expectedRecord, ready, slot, ← setOrigin_setOrigin place]
  rfl

/-- What a copy of an origin's records tells of it (R135). -/
def Origin.copy (o : Origin) : Nat × Option Nat × List Staged × Nat × Nat := (o.held, o.oldest, o.staged, o.known, o.floor)

/-- Where only GAPs differ, the copies of the origins are the same. -/
theorem originOf_copy {s t : State} (h : t.wit.origins.map (fun x => { x with gap := none })
      = s.wit.origins.map (fun x => { x with gap := none })) (n : Nat) :
    (originOf t n).map Origin.copy = (originOf s n).map Origin.copy := by
  have told (l : List Origin) : (l.find? fun x => x.station == n).map Origin.copy
      = ((l.map fun x => { x with gap := none }).find? fun x : Origin => x.station == n).map Origin.copy := by
    rw [List.find?_map, Option.map_map]
    rfl
  rw [originOf, originOf, told, told s.wit.origins, h]

/-- Settles O28: the record staged, the GAP it answers ended, and the conditions tested with the slots left. -/
theorem expectedRecordIsStaged : Obligations.ExpectedRecordIsStaged := by
  intro sender head body s o k accounted hears recording ho own kind length next good free
  have distinct := accounted.partitions
  have member := originOf_mem ho
  let r := receivedRecord k head body
  let p := if 0 < freeShared s then Pool.shared else Pool.reserved
  let o1 := endAnswered (o.staging r p)
  let s1 := setOrigin o1 s
  let u := testGaps s1
  have form : o1 = { o.staging r p with gap := o1.gap } := endAnswered_eq _
  have place : o1.place = o.place := by rw [form]; rfl
  have station : o1.station = o.station := by rw [form]; rfl
  have expected : o1.expected = o.expected + 1 := by rw [form]; exact staging_expected o r p
  have known : o1.known = max o.known head.seq.toNat := by rw [form]; rfl
  have distinct1 : (s1.wit.origins.map (·.place)).Nodup := by rwa [setOrigin_places]
  have origin1 : originOf s1 sender.toNat = some o1 := originOf_setOrigin ho place station
  obtain ⟨gap, found, tested⟩ := testGaps_originTested origin1 (originAt_of_originOf distinct1 origin1)
  have tested := tested distinct1 (by rw [place]; exact accounted.places o member)
  have formed := testGaps_formed s1
  obtain ⟨fewer, slots⟩ := staging_slots member distinct form rfl
  have origins : (flashIdle u).wit.origins = u.wit.origins := by simp
  have queue : (flashIdle u).port.gapQ = u.port.gapQ := by simp
  have run : exec (.receiveRecord sender head body) s = .next (flashIdle u) := by
    rw [exec_receiveRecord hears kind length, takeRecord_own kind recording ho own,
      witnessRecord_staged member distinct next good free rfl]
  refine ⟨flashIdle u, { o1 with gap := gap }, run, by rw [originOf, origins]; exact found, by rw [form, ← own]; rfl,
    expected, by rw [form]; rfl, by rw [form]; rfl, known, by rw [form]; rfl, by simp [u, s1], fun g outstanding more => ?_,
    fun ended => ?_, fun x hx other busy => ?_, by rw [queue]; exact formed.queue, ⟨u, rfl, by simp [u, s1], origins.symm⟩,
    ?_, State.eq_of_blocks (by simp [u, s1]), fun n other => ?_⟩
  · have stays := endAnswered_outstanding (o := o.staging r p) outstanding (by rwa [staging_expected])
    rw [tested.kept (.inl (by rw [show o1.gap = some g from stays]; nofun))]
    exact stays
  · have none := endAnswered_ended (o := o.staging r p) (by rwa [staging_expected])
    have test := tested.tested none recording
    rw [expected, known, slots] at test
    exact (test.of_setOrigin place station fewer).widen rfl rfl rfl rfl (Nat.le_refl _) queue (flashIdle_ticket u)
  · rw [origins]
    exact formed.kept distinct1 x (mem_setOrigin_of_ne hx (by rwa [place])) busy
  · rw [flashIdle_port, formed.port]
    simp [s1]
  · have apart := originOf_setOrigin_of_ne distinct member place station (n := n) (by rwa [originOf_station ho])
    have copies := originOf_copy (formed.others distinct1) n
    rw [apart] at copies
    rw [originOf, origins]
    exact copies

end Sys2Proof.Machine
end

section
/-! A PRESENCE taken in: known latest, floor and floor jump (O33). -/

namespace Sys2Proof.Machine

/-! ## The jobs of the sender, and the origin that a PRESENCE renews (R139, R170) -/

/-- The retrieval unit once a terminal has been heard. -/
def terminalHeard (sender : BitVec 5) (s : State) : Retrieval :=
  { s.retr with
    jobs := s.retr.jobs.map (fun j => if j.terminal = sender.toNat then { j with heardAt := s.elapsed } else j) }

/-- The origin with the known latest and the floor that a PRESENCE names. -/
def Origin.renewed (o : Origin) (p : PresencePayload) : Origin :=
  { o with known := p.latest.toNat, floor := p.floor.toNat }

/-- The origin after a floor jump (R139). -/
def Origin.jumped (o : Origin) : Origin := { o with held := o.floor - 1, oldest := none, staged := [], gap := none }

theorem exec_receivePresence {sender : BitVec 5} {p : PresencePayload} {s : State} (hears : Hears s sender) :
    exec (.receivePresence sender p) s = .next (witnessPresence sender p (s.setRetr (terminalHeard sender s))) :=
  congrArg _ (deliver_hears hears _)

/-- The state once the origin's known latest and floor are renewed and the sender's job has heard it. -/
def presenceTaken (sender : BitVec 5) (p : PresencePayload) (o : Origin) (s : State) : State :=
  (setOrigin (o.renewed p) s).setRetr (terminalHeard sender s)

theorem witnessPresence_origin {sender : BitVec 5} {p : PresencePayload} {s : State} {o : Origin}
    (here : CatchingUpOrRecording s) (ho : originOf s sender.toNat = some o) :
    witnessPresence sender p (s.setRetr (terminalHeard sender s))
      = flashIdle (testGaps (floorJump o.place (presenceTaken sender p o s))) := by
  have found : originOf (s.setRetr (terminalHeard sender s)) sender.toNat = some o := ho
  simp only [witnessPresence, found]
  exact if_pos (running_iff.2 here)

/-- A PRESENCE of a station that is no origin, or in another station state, is passed over by the witness unit. -/
theorem witnessPresence_ignored {sender : BitVec 5} {s : State} (p : PresencePayload)
    (no : originOf s sender.toNat = none ∨ ¬ CatchingUpOrRecording s) : witnessPresence sender p s = s := by
  unfold witnessPresence
  split
  · rename_i o ho
    refine if_neg fun here => ?_
    rcases no with none | elsewhere
    · rw [ho] at none
      cases none
    · exact elsewhere (running_iff.1 here)
  · rfl

/-- The partition of a replaced origin finds the new one, in whatever order the origins stand. -/
theorem originAt_setOrigin_of_mem {s : State} {o o' : Origin} (ho : o ∈ s.wit.origins) (place : o'.place = o.place) :
    originAt (setOrigin o' s) o.place = some o' := by
  cases found : originAt s o.place with
  | none => exact absurd (beq_self_eq_true o.place) (List.find?_eq_none.1 found o ho)
  | some x => exact originAt_setOrigin found place

/-! ## The floor jump (R139) -/

theorem floorJump_not_due {s : State} {o : Origin} (ho : originAt s o.place = some o)
    (no : o.floor ≤ o.expected ∨ s.arch.op = .programming (.part o.place)) : floorJump o.place s = s := by
  simp only [floorJump, ho]
  refine if_neg fun ⟨due, free⟩ => ?_
  rcases no with low | busy
  · exact absurd due (Nat.not_lt.2 low)
  · simp [programOf, busy] at free

theorem floorJump_due {s : State} {o : Origin} (ho : originAt s o.place = some o) (due : o.expected < o.floor)
    (free : s.arch.op ≠ .programming (.part o.place)) :
    floorJump o.place s
      = wakeFollows o.station (setOrigin o.jumped (countUp .skips (o.floor - 1 - o.held) s)) := by
  have none : programOf s o.place = false := beq_eq_false_iff_ne.2 free
  simp only [floorJump, ho, due, none, and_self, if_true]
  rfl

/-! ## The conditions tested after a PRESENCE (R141) -/

/-- The conditions tested for an origin o of w, which is o' in t: in RECORDING, when it has no GAP. -/
def ConditionsTested (w t : State) (o o' : Origin) : Prop :=
  (o.gap ≠ none ∨ w.supply.station ≠ some .recording → o'.gap = o.gap)
  ∧ (o.gap = none → w.supply.station = some .recording →
      GapTested w t o o.expected o.known (freeShared w + freeReserved w o) o'.gap)
  ∧ (∀ x ∈ w.wit.origins, x.place ≠ o.place → x.gap ≠ none → x ∈ t.wit.origins)
  ∧ ∃ new, t.port.gapQ = w.port.gapQ ++ new

/-- The test of the conditions of w in a state v that a report has led to, and a flash-idle event after it. -/
theorem testGaps_conditions {w v : State} {n : Nat} {o : Origin} (ho : originOf w n = some o)
    (at_ : originAt w o.place = some o) (wit : v.wit = w.wit) (supply : v.supply = w.supply) (cfg : v.cfg = w.cfg)
    (queue : v.port.gapQ = w.port.gapQ) (ticket : w.port.ticket ≤ v.port.ticket) :
    ∃ g, originOf (testGaps v) n = some { o with gap := g }
      ∧ ((w.wit.origins.map (·.place)).Nodup → o.place < 3 →
        ConditionsTested w (flashIdle (testGaps v)) o { o with gap := g }) := by
  have origin : originOf v n = some o := by rwa [originOf, wit]
  have part : originAt v o.place = some o := by rwa [originAt, wit]
  obtain ⟨g, found, tested⟩ := testGaps_originTested origin part
  refine ⟨g, found, fun distinct low => ?_⟩
  have distinctV : (v.wit.origins.map (·.place)).Nodup := by rwa [wit]
  have tested := tested distinctV low
  have formed := testGaps_formed v
  have slots : slotsAvailable v o = freeShared w + freeReserved w o := by
    rw [slotsAvailable, freeShared, freeShared, freeReserved, freeReserved, wit, cfg]
  refine ⟨fun h => tested.kept (by rwa [supply]), fun free recording => ?_, fun x hx _ busy => ?_, ?_⟩
  · have test := tested.tested free (by rwa [supply])
    rw [slots] at test
    exact test.widen wit supply cfg queue ticket (by simp) (flashIdle_ticket _)
  · have kept := formed.kept distinctV x (by rwa [wit]) busy
    simpa using kept
  · obtain ⟨new, appended⟩ := formed.queue
    exact ⟨new, by simpa [queue] using appended⟩

theorem originOf_flashIdle (s : State) (n : Nat) : originOf (flashIdle s) n = originOf s n := by simp [originOf]

/-- A PRESENCE without a floor jump: the renewed origin has its conditions tested (R139, R141). -/
theorem exec_presence_unjumped {sender : BitVec 5} {p : PresencePayload} {s : State} {o : Origin}
    (hears : Hears s sender) (here : CatchingUpOrRecording s) (ho : originOf s sender.toNat = some o)
    (no : p.floor.toNat ≤ o.expected ∨ s.arch.op = .programming (.part o.place)) :
    let t := flashIdle (testGaps (presenceTaken sender p o s))
    exec (.receivePresence sender p) s = .next t
    ∧ ∃ g, originOf t sender.toNat = some { o.renewed p with gap := g }
      ∧ (StagingAccounted s →
        ConditionsTested (setOrigin (o.renewed p) s) t (o.renewed p) { o.renewed p with gap := g }) := by
  intro t
  have origin : originOf (setOrigin (o.renewed p) s) sender.toNat = some (o.renewed p) := originOf_setOrigin ho rfl rfl
  have part : originAt (setOrigin (o.renewed p) s) o.place = some (o.renewed p) :=
    originAt_setOrigin_of_mem (o' := o.renewed p) (originOf_mem ho) rfl
  have stays : floorJump o.place (presenceTaken sender p o s) = presenceTaken sender p o s :=
    floorJump_not_due (o := o.renewed p) part no
  obtain ⟨g, found, tested⟩ := testGaps_conditions (v := presenceTaken sender p o s) origin part rfl rfl rfl rfl
    (Nat.le_refl _)
  refine ⟨?_, g, (originOf_flashIdle _ _).trans found, fun accounted => ?_⟩
  · rw [exec_receivePresence hears, witnessPresence_origin here ho, stays]
  · exact tested (by rw [setOrigin_places]; exact accounted.partitions) (accounted.places o (originOf_mem ho))

/-- The state of a floor jump, before the report to the FOLLOW jobs (R139). -/
def presenceJumped (sender : BitVec 5) (p : PresencePayload) (o : Origin) (s : State) : State :=
  ((setOrigin (o.renewed p).jumped s).setRetr (terminalHeard sender s)).setYear
    { s.year with day := s.year.day.bump .skips (p.floor.toNat - 1 - o.held) }

theorem exec_presence_jumped {sender : BitVec 5} {p : PresencePayload} {s : State} {o : Origin}
    (hears : Hears s sender) (here : CatchingUpOrRecording s) (ho : originOf s sender.toNat = some o)
    (due : o.expected < p.floor.toNat) (free : s.arch.op ≠ .programming (.part o.place)) :
    let w := presenceJumped sender p o s
    let t := flashIdle (testGaps (wakeFollows sender.toNat w))
    exec (.receivePresence sender p) s = .next t
    ∧ ∃ g, originOf t sender.toNat = some { (o.renewed p).jumped with gap := g }
      ∧ (StagingAccounted s →
        ConditionsTested w t (o.renewed p).jumped { (o.renewed p).jumped with gap := g }) := by
  intro w t
  have origin : originOf w sender.toNat = some (o.renewed p).jumped := originOf_setOrigin ho rfl rfl
  have part : originAt w o.place = some (o.renewed p).jumped :=
    originAt_setOrigin_of_mem (s := s) (o' := (o.renewed p).jumped) (originOf_mem ho) rfl
  have renewed : originAt (presenceTaken sender p o s) o.place = some (o.renewed p) :=
    originAt_setOrigin_of_mem (s := s) (o' := o.renewed p) (originOf_mem ho) rfl
  have jumps : floorJump o.place (presenceTaken sender p o s) = wakeFollows sender.toNat w := by
    rw [← originOf_station ho]
    refine (floorJump_due (o := o.renewed p) renewed due free).trans (congrArg (wakeFollows o.station) ?_)
    have twice := setOrigin_setOrigin (s := s) (o := o.renewed p) (o' := (o.renewed p).jumped) rfl
    exact congrArg (fun x : State => (x.setRetr (terminalHeard sender s)).setYear
      { s.year with day := s.year.day.bump .skips (p.floor.toNat - 1 - o.held) }) twice
  obtain ⟨g, found, tested⟩ := testGaps_conditions (v := wakeFollows sender.toNat w) origin part (by simp) (by simp)
    (by simp) (by simp) (wakeFollows_ticket _ _)
  refine ⟨?_, g, (originOf_flashIdle _ _).trans found, fun accounted => ?_⟩
  · rw [exec_receivePresence hears, witnessPresence_origin here ho, jumps]
  · have places : w.wit.origins.map (·.place) = s.wit.origins.map (·.place) := setOrigin_places _ _
    exact tested (by rw [places]; exact accounted.partitions) (accounted.places o (originOf_mem ho))

/-- Settles O33: without a jump, with one, with one that waits, and of a station that is no origin. -/
theorem presenceMovesTheFloorAndMayJump : Obligations.PresenceMovesTheFloorAndMayJump := by
  refine ⟨fun sender p s o hears here ho low => ?_, fun sender p s o hears here ho due free => ?_,
    fun sender p s o hears here ho due busy => ?_, fun sender p s hears no => ?_⟩
  · obtain ⟨run, g, found, tested⟩ := exec_presence_unjumped hears here ho (.inl low)
    exact ⟨_, _, run, found, rfl, rfl, rfl, rfl, rfl, by simp [presenceTaken], tested,
      ⟨testGaps (presenceTaken sender p o s), rfl, by simp [presenceTaken], by simp [presenceTaken, terminalHeard],
        by simp⟩, State.eq_of_blocks (by simp [presenceTaken])⟩
  · obtain ⟨run, g, found, tested⟩ := exec_presence_jumped hears here ho due free
    have floor : p.floor.toNat - 1 + 0 + 1 = p.floor.toNat := by omega
    have year : (flashIdle (testGaps (wakeFollows sender.toNat (presenceJumped sender p o s)))).year
        = (presenceJumped sender p o s).year := by simp
    refine ⟨_, _, run, found, rfl, rfl, rfl, floor, rfl, year, by simp [presenceJumped], ⟨?_, ?_⟩,
      State.eq_of_blocks (by simp [presenceJumped])⟩
    · rw [year]
      exact tested
    · rw [year]
      exact ⟨wakeFollows sender.toNat (presenceJumped sender p o s),
        testGaps (wakeFollows sender.toNat (presenceJumped sender p o s)), rfl, wakeFollows_woken _ _, by simp, by simp⟩
  · obtain ⟨run, g, found, tested⟩ := exec_presence_unjumped hears here ho (.inr busy)
    have waits : flashIdle (testGaps (presenceTaken sender p o s)) = testGaps (presenceTaken sender p o s) :=
      flashIdle_busy (by simp [presenceTaken, busy])
    rw [waits] at run found tested
    exact ⟨_, _, run, found, rfl, rfl, rfl, rfl, rfl, tested, State.eq_of_blocks (by simp [presenceTaken, terminalHeard])⟩
  · rw [exec_receivePresence hears, witnessPresence_ignored (s := s.setRetr (terminalHeard sender s)) p no]
    rfl

end Sys2Proof.Machine
end

section
/-! Answers placed in the ANSWER queue, their layout, and the reads that jobs wait for (O49). -/

namespace Sys2Proof.Machine

/-! ## The payload of an answer (R130, 7.7.3) -/

theorem beBytes_one_toNat (b : Byte) : beBytes 1 b.toNat = [b] := by simp [beBytes]

/-- The bytes before the fields of an answer's kind. -/
def answerHead (t : AnswerTel) (kind : Nat) : List (Nat × Nat) := [(1, t.terminal), (1, t.tag.toNat), (1, kind)]

theorem answer_holds {t : AnswerTel} {kind : Nat} {l : List (Nat × Nat)} {rest : List Byte}
    (form : answerPayload t = packed (answerHead t kind ++ l) rest) :
    HoldsFields (answerPayload t)
      ([(0, 1, t.terminal), (1, 1, t.tag.toNat), (2, 1, kind)] ++ fieldsFrom 3 l) := by
  rw [form]
  exact packed_layout _ _

theorem answer_length {t : AnswerTel} {kind : Nat} {l : List (Nat × Nat)}
    (form : answerPayload t = packed (answerHead t kind ++ l) []) :
    (answerPayload t).length = 3 + (l.map (·.1)).sum := by
  rw [form, packed_length]
  simp [answerHead]
  omega

/-- A record in an answer: its header, its body's length and its body. -/
def answerRecordFields (r : Rec) : List (Nat × Nat) :=
  [(1, [RecordKind.halfHour, .day, .yearGeneral, .yearSlot].idxOf r.kind + 1), (1, r.origin), (4, r.seq), (4, r.start),
   (1, r.body.length)]

theorem answerPayload_record {t : AnswerTel} {r : Rec} (h : t.answer = .record r) :
    answerPayload t = packed (answerHead t 1 ++ answerRecordFields r) r.body := by
  simp [answerPayload, h, recordHeader, answerRecordFields, answerHead, packed, beBytes_one_toNat, RecordKind.code_eq]

theorem answerPayload_layout (t : AnswerTel) : AnswerLayout t := by
  refine ⟨fun r h => ?_, fun o q h => ?_, fun n h => ?_, fun h => ?_, fun r h => ?_, fun x h => ?_, fun f h => ?_,
    fun r off h => ?_⟩
  · have form := answerPayload_record h
    refine ⟨(answer_holds form).subset (by simp [fieldsFrom, answerRecordFields]), ?_, ?_⟩
    · rw [form, packed_append]
      have head := drop_packed (answerHead t 1) (packed (answerRecordFields r) r.body)
      exact head ▸ (packed_layout (answerRecordFields r) r.body).subset (by simp [fieldsFrom, answerRecordFields, headerFields])
    · rw [form]
      exact drop_packed (answerHead t 1 ++ answerRecordFields r) r.body
  · have form : answerPayload t = packed (answerHead t 2 ++ [(1, o), (4, q)]) [] := by
      simp [answerPayload, h, answerHead, packed, beBytes_one_toNat]
    exact ⟨answer_holds form, answer_length form⟩
  · have form : answerPayload t = packed (answerHead t 3 ++ [(2, n)]) [] := by
      simp [answerPayload, h, answerHead, packed, beBytes_one_toNat]
    exact ⟨answer_holds form, answer_length form⟩
  · have form : answerPayload t = packed (answerHead t 4 ++ []) [] := by
      simp [answerPayload, h, answerHead, packed, beBytes_one_toNat]
    exact ⟨answer_holds form, answer_length form⟩
  · have code : r.code = [RefuseReason.origin, .state].idxOf r + 1 := by cases r <;> rfl
    have form : answerPayload t
        = packed (answerHead t 5 ++ [(1, [RefuseReason.origin, .state].idxOf r + 1)]) [] := by
      simp [answerPayload, h, answerHead, packed, beBytes_one_toNat, code]
    exact ⟨answer_holds form, answer_length form⟩
  · have form : answerPayload t = packed (answerHead t 6 ++ []) x := by
      simp [answerPayload, h, answerHead, packed, beBytes_one_toNat]
    refine ⟨answer_holds form, ?_⟩
    rw [form]
    exact drop_packed (answerHead t 6 ++ []) x
  · have form : answerPayload t = packed (answerHead t 7 ++ [(2, f.toNat)]) [] := by
      simp [answerPayload, h, answerHead, packed, beBytes_one_toNat]
    exact ⟨answer_holds form, answer_length form⟩
  · have code : r.code = [ConfigResult.ok, .checkFailed, .flashFailed, .range].idxOf r := by cases r <;> rfl
    have form : answerPayload t = packed (answerHead t 8
        ++ [(1, [ConfigResult.ok, .checkFailed, .flashFailed, .range].idxOf r), (2, off)]) [] := by
      simp [answerPayload, h, answerHead, packed, beBytes_one_toNat, code]
    exact ⟨answer_holds form, answer_length form⟩

/-! ## Reads served one after the other (R153, R155) -/

/-- A flash-idle event serves the oldest read first, and then goes on as with that read served. -/
theorem flashIdle_serveOne {s : State} (waiting : s.arch.requests ≠ []) (idle : s.arch.op = .idle)
    (on : s.supply.station ≠ none) (held : s.supply.station ≠ some .hold) (order : JobsInOrder s) :
    flashIdle s = flashIdle (serveOne s) := by
  obtain ⟨fewer, order'⟩ := serveOne_fewer s waiting order
  have bound (u : State) : readBound u = readsLeft u + 4 := rfl
  have reads : serveReads (readBound s) s = serveReads (readBound (serveOne s)) (serveOne s) := by
    rw [bound, serveReads, if_neg (by simpa using waiting)]
    exact serveReads_enough _ _ _ order' (by omega) (by rw [bound]; omega)
  have here : ¬ (s.arch.op ≠ .idle ∨ s.supply.station = none ∨ s.supply.station = some .hold) := by
    simp [idle, on, held]
  have next : ¬ ((serveOne s).arch.op ≠ .idle ∨ (serveOne s).supply.station = none
      ∨ (serveOne s).supply.station = some .hold) := by simp [idle, on, held]
  unfold flashIdle
  rw [reads, if_neg here, if_neg next]

/-! ## The held ranges (R168) -/

theorem rangeOf_own (s : State) :
    rangeOf s s.cfg.own = ((recordSectors s.arch.own).head?.bind (·.2.firstSeq), s.arch.latest) := by
  simp [rangeOf, areaOf, heldRange]

theorem rangeOf_origin {s : State} {station : Nat} {o : Origin} (other : station ≠ s.cfg.own)
    (ho : originOf s station = some o) (part : originAt s o.place = some o) : rangeOf s station = (o.oldest, o.held) := by
  simp [rangeOf, areaOf, heldRange, other, ho, part]

/-! ## What a job has sent (R168) -/

theorem jobOf_setJob {s : State} {j j' : Job} (found : jobOf s j'.terminal = some j) (n : Nat) :
    jobOf (setJob j' s) n = if n = j'.terminal then some j' else jobOf s n := by
  have told : jobOf (setJob j' s) n
      = (jobOf s n).map (fun x => if x.terminal = j'.terminal then j' else x) := by
    rw [jobOf, setJob, State.setRetr_retr, List.find?_map]
    congr 2
    funext x
    by_cases same : x.terminal = j'.terminal <;> simp [same]
  rw [told]
  split
  · rename_i same
    rw [same, found, Option.map_some, if_pos (jobOf_mem s _ j found).2]
  · rename_i other
    cases at_ : jobOf s n with
    | none => rfl
    | some x => rw [Option.map_some, if_neg ((jobOf_mem s n x at_).2 ▸ other)]

/-- The job j of its terminal is at work in t, whatever it does, and the other terminals' jobs are those of s. -/
def AtWork (j : Job) (s t : State) : Prop :=
  (∃ i, jobOf t j.terminal = some i ∧ i.sent = j.sent ∧ i.tag = j.tag) ∧ ∀ n, n ≠ j.terminal → jobOf t n = jobOf s n

theorem atWork_of_setJob {j j' x : Job} {s t : State} (found : jobOf s j.terminal = some x)
    (jobs : t.retr.jobs = (setJob j' s).retr.jobs) (terminal : j'.terminal = j.terminal) (sent : j'.sent = j.sent)
    (tag : j'.tag = j.tag) : AtWork j s t := by
  have told := jobOf_setJob (terminal.symm ▸ found : jobOf s j'.terminal = some x)
  have same : jobOf t = jobOf (setJob j' s) := by
    funext n
    rw [jobOf, jobs]
    rfl
  refine ⟨⟨j', ?_, sent, tag⟩, fun n other => ?_⟩
  · rw [same, told, if_pos terminal.symm]
  · rw [same, told, if_neg (terminal.symm ▸ other)]

theorem jobReady_atWork {j x : Job} {s : State} (found : jobOf s j.terminal = some x) (a : Answer) (skip : Bool) :
    AtWork j s (jobReady j a skip s) :=
  atWork_of_setJob (j' := { j with work := .ready a skip s.port.ticket }) found rfl rfl rfl rfl

theorem workJob_atWork {j x : Job} {s : State} (found : jobOf s j.terminal = some x) : AtWork j s (workJob j s) := by
  simp only [workJob]
  split
  · exact jobReady_atWork found _ _
  · exact atWork_of_setJob (j' := { j with work := .waiting }) found rfl rfl rfl rfl
  · exact jobReady_atWork found _ _
  · rename_i n _
    split
    · exact atWork_of_setJob (j' := { j with next := n, work := .reading }) found rfl rfl rfl rfl
    · exact atWork_of_setJob (j' := { j with work := .waiting }) found rfl rfl rfl rfl

/-- No job has sent more, nor has another tag. -/
def SameSent (s t : State) : Prop :=
  ∀ n, (jobOf t n).map (fun j => (j.sent, j.tag)) = (jobOf s n).map (fun j => (j.sent, j.tag))

theorem SameSent.of_atWork {s t : State} {n : Nat} {j j' : Job} (found : jobOf s n = some j)
    (terminal : j'.terminal = j.terminal) (sent : j'.sent = j.sent) (tag : j'.tag = j.tag) (h : AtWork j' s t) :
    SameSent s t := by
  have here : j'.terminal = n := terminal.trans (jobOf_mem s n j found).2
  obtain ⟨⟨i, at_, sent', tag'⟩, others⟩ := h
  intro m
  by_cases same : m = n
  · rw [same, found, ← here, at_, Option.map_some, Option.map_some, sent', tag', sent, tag]
  · rw [others m (here.symm ▸ same)]

theorem jobResult_sent (n : Nat) (res : Option Rec) (s : State) : SameSent s (jobResult n res s) := by
  unfold jobResult
  split
  · exact fun _ => rfl
  · rename_i j found
    have stands : jobOf s j.terminal = some j := (jobOf_mem s n j found).2.symm ▸ found
    split
    · split
      · exact .of_atWork found rfl rfl rfl (jobReady_atWork stands _ _)
      · exact .of_atWork found rfl rfl rfl (workJob_atWork (j := { j with next := j.next + 1 }) stands)
    · exact .of_atWork found rfl rfl rfl (workJob_atWork (j := { j with next := j.next + 1 }) stands)
    · exact .of_atWork found rfl rfl rfl (jobReady_atWork stands _ _)
    · exact .of_atWork found rfl rfl rfl (jobReady_atWork stands _ _)

theorem serveOne_sent (s : State) : SameSent s (serveOne s) := by
  unfold serveOne
  split
  · exact fun _ => rfl
  · rename_i q rest _
    dsimp only
    split
    · exact fun n => by simp [jobOf]
    · exact jobResult_sent _ _ (s.setArch { s.arch with requests := rest })
    · exact fun _ => rfl

theorem serveReads_sent (n : Nat) : ∀ s, SameSent s (serveReads n s) := by
  induction n with
  | zero => exact fun s _ => rfl
  | succ n ih =>
    intro s
    rw [serveReads]
    split
    · exact fun _ => rfl
    · exact fun m => (ih _ m).trans (serveOne_sent s m)

theorem flashIdle_sent (s : State) : SameSent s (flashIdle s) := by
  unfold flashIdle
  split
  · exact fun _ => rfl
  · dsimp only
    split
    · exact fun n => Eq.trans (by simp [jobOf]) (serveReads_sent (readBound s) s n)
    · exact serveReads_sent _ s

/-! ## Answers placed (R122, R166, R168, R171) -/

theorem mem_jobTickets {s : State} {except : Option Nat} {m : Nat} (h : m ∈ jobTickets s except) :
    ∃ j ∈ s.retr.jobs, ∃ x b, j.work = .ready x b m := by
  obtain ⟨j, hj, ticket⟩ := List.mem_filterMap.1 h
  split at ticket
  · rename_i x b n work
    split at ticket
    · cases ticket
    · cases ticket
      exact ⟨j, hj, x, b, work⟩
  · cases ticket

theorem exec_pendingAnswerPlace {s : State} {a : PendingAnswer} {rest : List PendingAnswer}
    (room : s.port.answerQ.length < 4) (oldest : s.retr.answers = a :: rest) (on : s.supply.station ≠ none)
    (held : s.supply.station ≠ some .hold)
    (longest : ∀ j ∈ s.retr.jobs, ∀ x b n, j.work = .ready x b n → a.ticket ≤ n) :
    exec .pendingAnswerPlace s
      = .next (placeAnswer ⟨a.terminal, a.tag, a.body.answer s⟩ (s.setRetr { s.retr with answers := rest })) := by
  have turn : placesTelegrams s = true := by simp [placesTelegrams, Option.isSome_iff_ne_none, on, held]
  simp only [exec, execPendingAnswerPlace, oldest]
  refine if_pos ⟨turn, room, longestWaiting_iff.2 fun m hm => ?_⟩
  obtain ⟨j, hj, x, b, work⟩ := mem_jobTickets hm
  exact longest j hj x b m work

theorem exec_jobAnswerPlace {s : State} {terminal : BitVec 5} {j : Job} {x : Answer} {skip : Bool} {n : Nat}
    (room : s.port.answerQ.length < 4) (found : jobOf s terminal.toNat = some j) (work : j.work = .ready x skip n)
    (on : s.supply.station = some .timeUnset ∨ CatchingUpOrRecording s) (first : ∀ a ∈ s.retr.answers, n ≤ a.ticket)
    (longest : ∀ i ∈ s.retr.jobs, ∀ y c m, i.work = .ready y c m → n ≤ m) :
    exec (.jobAnswerPlace terminal) s
      = .next (flashIdle (afterPlaced j x skip (placeAnswer ⟨j.terminal, j.tag, x⟩ s))) := by
  simp only [exec, execJobAnswerPlace, found, work]
  refine if_pos ⟨operationsOn_iff.2 on, room, longestWaiting_iff.2 fun m hm => ?_⟩
  rcases List.mem_append.1 hm with answer | job
  · obtain ⟨a, ha, rfl⟩ := List.mem_map.1 answer
    exact first a ha
  · obtain ⟨i, hi, y, c, ready⟩ := mem_jobTickets job
    exact longest i hi y c m ready

theorem afterPlaced_arch (j : Job) (x : Answer) (skip : Bool) (s : State) :
    (afterPlaced j x skip s).arch = { s.arch with requests := (afterPlaced j x skip s).arch.requests } := by
  have fields := afterPlaced_fields j x skip s
  generalize (afterPlaced j x skip s).arch = a at fields
  cases a
  simp only at fields
  simp [fields]

theorem afterPlaced_port (j : Job) (x : Answer) (skip : Bool) (s : State) :
    (afterPlaced j x skip s).port = { s.port with ticket := (afterPlaced j x skip s).port.ticket } := by
  have fields := afterPlaced_fields j x skip s
  generalize (afterPlaced j x skip s).port = p at fields
  cases p
  simp only at fields
  simp [fields]

/-- With its END placed a job leaves the list (R168). -/
theorem afterPlaced_done_gone {j : Job} {k : Nat} {skip : Bool} {s : State} {i : Job}
    (hi : i ∈ (flashIdle (afterPlaced j (.done k) skip s)).retr.jobs) : i.terminal ≠ j.terminal := by
  have terminals := (flashIdle_kept (afterPlaced j (.done k) skip s)).terminals
  have stands : i.terminal ∈ jobTerminals (afterPlaced j (.done k) skip s) := terminals ▸ List.mem_map_of_mem hi
  obtain ⟨x, hx, same⟩ := List.mem_map.1 stands
  have left : x ∈ s.retr.jobs.filter (fun y => y.terminal != j.terminal) := hx
  rw [← same]
  simpa using (List.mem_filter.1 left).2

/-- With a RECORD placed the terminal's job has sent one more (R168). -/
theorem afterPlaced_record_sent {j : Job} {r : Rec} {skip : Bool} {s : State} {n : Nat} (found : jobOf s n = some j) :
    ∃ i, jobOf (flashIdle (afterPlaced j (.record r) skip s)) n = some i ∧ i.sent = j.sent + 1 ∧ i.tag = j.tag := by
  have terminal := (jobOf_mem s n j found).2
  obtain ⟨⟨i, at_, sent, tag⟩, -⟩ :=
    workJob_atWork (j := { j with next := j.next + 1, sent := j.sent + 1 }) (terminal.symm ▸ found)
  have same := flashIdle_sent (afterPlaced j (.record r) skip s) n
  have here : jobOf (afterPlaced j (.record r) skip s) n = some i := terminal ▸ at_
  rw [here, Option.map_some] at same
  obtain ⟨x, stands, told⟩ := Option.map_eq_some_iff.1 same
  rw [Prod.mk.injEq] at told
  exact ⟨x, stands, told.1.trans sent, told.2.trans tag⟩

/-- Settles O49: the layouts, the reads, the held ranges, and the two kinds of answers placed in their turn. -/
theorem answersJoinTheAnswerQueueInTurn : Obligations.AnswersJoinTheAnswerQueueInTurn := by
  refine ⟨answerPayload_layout, fun s waiting idle on held left once =>
    ⟨serveOne_served s, flashIdle_serveOne waiting idle on held ⟨left, once⟩⟩,
    fun s => ⟨rangeOf_own s, fun station o other ho part => rangeOf_origin other ho part⟩, fun s room => ?_⟩
  intro answered
  refine ⟨fun a rest oldest on held longest => ?_, fun terminal j x b n found work on first longest => ?_⟩
  · rw [exec_pendingAnswerPlace room oldest on held longest]
    cases a.body <;> rfl
  · let v := placeAnswer ⟨j.terminal, j.tag, x⟩ s
    let u := afterPlaced j x b v
    have port : (flashIdle u).port = { s.port with
        answerQ := (flashIdle u).port.answerQ, ticket := (flashIdle u).port.ticket } := by
      rw [flashIdle_port, afterPlaced_port]
      rfl
    refine ⟨flashIdle u, exec_jobAnswerPlace room found work on first longest, ?_, ?_, ?_, ⟨u, rfl, afterPlaced_arch .., ?_⟩,
      State.eq_of_blocks ?_, ?_, ?_⟩
    · simp [u, v, placeAnswer]
    · simp [u, v, placeAnswer]
    · simp [u, v, placeAnswer]
    · refine ⟨?_, ?_, ?_⟩
      · rintro k rfl
        rfl
      · rintro r rfl
        exact workJob_works _ v
      · rintro o q rfl
        exact workJob_works _ v
    · simpa [u, v, placeAnswer] using port
    · rintro k rfl i hi
      exact afterPlaced_done_gone hi
    · rintro r rfl
      exact afterPlaced_record_sent found

end Sys2Proof.Machine
end

section
/-! What is written into fields reads back out of them, and the four kinds of record body (R130, 7.7.4; for O40). -/

namespace Sys2Proof.Machine

/-! ## Reading fields back -/

/-- A held field whose value its width can hold is that value. -/
theorem HoldsFields.read {b : List Byte} {l : List (Nat × Nat × Nat)} (h : HoldsFields b l) (i : Nat) {off len n : Nat}
    (place : l[i]? = some (off, len, n)) (fits : n < 256 ^ len) : field b off len = n :=
  (h _ (List.mem_of_getElem? place)).trans (Nat.mod_eq_of_lt fits)

theorem packed_nil_append (l : List (Nat × Nat)) (rest : List Byte) : packed l [] ++ rest = packed l rest := by
  induction l with
  | nil => rfl
  | cons x l ih => exact (List.append_assoc ..).trans (congrArg _ ih)

/-- Entries of one size that follow one another are cut where they begin. -/
theorem chunks_flatMap {α : Type} {f : α → List Byte} {size : Nat} (hf : ∀ a, (f a).length = size) (rest : List Byte)
    (l : List α) : chunks size l.length (l.flatMap f ++ rest) = l.map f := by
  induction l with
  | nil => rfl
  | cons a l ih =>
    rw [List.length_cons, chunks, List.flatMap_cons, List.append_assoc, List.take_left' (hf a), List.drop_left' (hf a),
      ih, List.map_cons]

/-- Entries that each read back as what they are of read back as the list of them. -/
theorem map_chunks_flatMap {α β : Type} {f : α → List Byte} {size : Nat} (hf : ∀ a, (f a).length = size)
    (rest : List Byte) {read : List Byte → β} {g : α → β} {l : List α} (back : ∀ a ∈ l, read (f a) = g a) :
    (chunks size l.length (l.flatMap f ++ rest)).map read = l.map g := by
  rw [chunks_flatMap hf, List.map_map]
  exact List.map_congr_left back

/-- Fields, and entries of one size after them: the length of the whole, and the fields of it and of each entry. -/
theorem entries_layout {α : Type} {f : α → List Byte} {g : α → List (Nat × Nat)} {size : Nat}
    (form : ∀ a, f a = packed (g a) []) (sized : ∀ a, ((g a).map (·.1)).sum = size)
    {l : List (Nat × Nat)} {n : Nat} (head : (l.map (·.1)).sum = n) (entries : List α) :
    (packed l (entries.flatMap f)).length = n + size * entries.length
    ∧ HoldsFields (packed l (entries.flatMap f)) (fieldsFrom 0 l)
    ∧ ∀ i a, entries[i]? = some a →
      HoldsFields ((packed l (entries.flatMap f)).drop (n + size * i)) (fieldsFrom 0 (g a)) := by
  have length (a : α) : (f a).length = size := by rw [form, packed_length, sized]
  subst head
  refine ⟨?_, packed_layout _ _, fun i a at_i => ?_⟩
  · rw [← packed_nil_append, List.length_append, packed_length, length_flatMap_of_size length]
  · obtain ⟨after, entry⟩ := drop_flatMap length [] at_i
    rw [List.append_nil] at entry
    rw [← List.drop_drop, drop_packed, entry, form, packed_nil_append]
    exact packed_layout (g a) after

/-- A bit of a number is the flag that stands there. -/
theorem bitOf_eq {n i : Nat} {a : Bool} (h : n / 2 ^ i % 2 = a.toNat) : bitOf n i = a := by
  rw [bitOf, Nat.testBit_eq_decide_div_mod_eq, h]
  cases a <;> rfl

/-- An optional value that is there under a condition. -/
theorem ite_some_getD {α : Type} {o : Option α} {p : Prop} [Decidable p] (d : α) (present : o.isSome = true ↔ p) :
    (if p then some (o.getD d) else none) = o := by
  cases o with
  | none => exact if_neg fun h => Bool.noConfusion (present.2 h)
  | some v => exact if_pos (present.1 rfl)

theorem getD_zero_lt {o : Option Nat} {n : Nat} (positive : 0 < n) (h : ∀ v, o = some v → v < n) : o.getD 0 < n := by
  cases o with
  | none => exact positive
  | some v => exact h v rfl

/-- A signed number of 24 bits reads back from its 3 bytes. -/
theorem signed24_of_mod {v : Int} (low : -8388608 ≤ v) (high : v ≤ 8388607) :
    signed24 (v % 16777216).toNat = v := by
  unfold signed24
  split <;> omega

theorem periodStatusOf_code (p : PeriodStatus) : periodStatusOf p.code = p := by cases p <;> rfl

theorem PeriodStatus.code_lt (p : PeriodStatus) : p.code < 4 := by cases p <;> decide

theorem causeCode_lt (c : Option MinuteStatus) : causeCode c < 16 := by
  rcases c with _ | c
  · decide
  · cases c <;> decide

theorem causeCode_eq (c : Option MinuteStatus) : causeCode c = (c.map statusOrder.idxOf).getD 0 := by
  rcases c with _ | c
  · rfl
  · cases c <;> rfl

theorem causeOf_causeCode {c : Option MinuteStatus} (h : c ≠ some .valid) : causeOf (causeCode c) = c := by
  rcases c with _ | c
  · rfl
  · cases c
    case valid => exact absurd rfl h
    all_goals rfl

/-! ## The HALF_HOUR body -/

/-- The fields of a HALF_HOUR slot entry. -/
def halfHourEntryFields (e : HalfHourEntry) : List (Nat × Nat) :=
  [(1, e.slot % 16 + 16 * e.status.code + 64 * e.mass.isSome.toNat + 128 * e.rate.isSome.toNat),
   (1, causeCode e.cause + 16 * e.aExceeded.toNat + 32 * e.bExceeded.toNat + 64 * e.saturated.toNat
     + 128 * e.massSubst.toNat),
   (1, e.validMinutes % 32 + 32 * e.massNone.toNat), (3, (e.raw.getD 0 % 16777216).toNat), (3, e.validated.getD 0),
   (5, e.mass.getD 0), (6, e.rate.getD 0)]

theorem halfHourEntryBytes_eq (e : HalfHourEntry) : halfHourEntryBytes e = packed (halfHourEntryFields e) [] := by
  simp only [halfHourEntryBytes, halfHourEntryFields, packed, List.foldr, be3Signed, List.append_assoc, List.append_nil]

theorem halfHourEntryFields_size (e : HalfHourEntry) : ((halfHourEntryFields e).map (·.1)).sum = 20 := by
  simp [halfHourEntryFields]

theorem halfHourEntryBytes_length (e : HalfHourEntry) : (halfHourEntryBytes e).length = 20 := by
  rw [halfHourEntryBytes_eq, packed_length, halfHourEntryFields_size]

/-- The fields of a HALF_HOUR body before its slot entries. -/
def halfHourFields (h : HalfHour) : List (Nat × Nat) :=
  [(1, h.counts.off), (1, h.counts.standby), (1, h.counts.firing), (1, h.counts.coldFiring), (1, h.counts.unknown),
   (1, h.counts.noRecord), (1, h.disturbed), (3, h.runAtClose), (1, h.h2oSubst), (1, h.o2Clamped), (2, h.o2Avg.getD 0),
   (2, h.h2oAvg.getD 0), (1, h.o2Avg.isSome.toNat + 2 * h.h2oAvg.isSome.toNat + 4 * h.fstop.toNat),
   (1, h.entries.length)]

theorem halfHourFields_size (h : HalfHour) : ((halfHourFields h).map (·.1)).sum = 18 := by simp [halfHourFields]

theorem halfHourBody_eq (h : HalfHour) :
    halfHourBody h = packed (halfHourFields h) (h.entries.flatMap halfHourEntryBytes) := by
  have flags (a b c : Bool) : flagByte [a, b, c] = a.toNat + 2 * b.toNat + 4 * c.toNat := by
    simp only [flagByte, List.foldr]
    omega
  simp only [halfHourBody, halfHourFields, MinuteCounts.toList, packed, List.foldr, flags, List.flatMap_cons,
    List.flatMap_nil, List.append_assoc, List.append_nil]

theorem halfHourLayout (h : HalfHour) : HalfHourLayout h := by
  obtain ⟨length, holds, entries⟩ := entries_layout halfHourEntryBytes_eq halfHourEntryFields_size
    (halfHourFields_size h) h.entries
  rw [← halfHourBody_eq] at length holds
  refine ⟨length, holds, fun i e at_i => ?_⟩
  have entry := entries i e at_i
  rw [← halfHourBody_eq, halfHourEntryFields, causeCode_eq, PeriodStatus.code_eq] at entry
  exact entry

/-- What a HALF_HOUR slot entry holds when every field lies within its width (R70). -/
def HalfHourEntryFits (e : HalfHourEntry) : Prop :=
  e.slot < 16 ∧ e.validMinutes < 32 ∧ (e.raw.isSome = true ↔ e.status = .valid)
  ∧ (e.validated.isSome = true ↔ e.status = .valid) ∧ (e.cause.isSome = true ↔ e.status = .invalid)
  ∧ e.cause ≠ some .valid ∧ (∀ v, e.raw = some v → -8388608 ≤ v ∧ v ≤ 8388607)
  ∧ (∀ v, e.validated = some v → v < 16777216) ∧ (∀ v, e.mass = some v → v < 1099511627776)
  ∧ ∀ v, e.rate = some v → v < 281474976710656

theorem halfHourEntryOf_bytes {e : HalfHourEntry} (fits : HalfHourEntryFits e) :
    halfHourEntryOf (halfHourEntryBytes e) = e := by
  obtain ⟨slot, minutes, rawThere, validatedThere, causeThere, notValid, rawFits, validatedFits, massFits, rateFits⟩ := fits
  have holds := packed_layout (halfHourEntryFields e) []
  rw [← halfHourEntryBytes_eq] at holds
  have status := e.status.code_lt
  have cause := causeCode_lt e.cause
  have flag := Bool.toNat_lt
  have m := flag e.mass.isSome
  have r := flag e.rate.isSome
  have a := flag e.aExceeded
  have b := flag e.bExceeded
  have sat := flag e.saturated
  have sub := flag e.massSubst
  have non := flag e.massNone
  have byte0 := holds.read 0 (off := 0) (len := 1) rfl (by omega)
  have byte1 := holds.read 1 (off := 1) (len := 1) rfl (by omega)
  have byte2 := holds.read 2 (off := 2) (len := 1) rfl (by omega)
  have raw := holds.read 3 (off := 3) (len := 3) rfl (by omega)
  have validated := holds.read 4 (off := 6) (len := 3) rfl (getD_zero_lt (by decide) validatedFits)
  have mass := holds.read 5 (off := 9) (len := 5) rfl (getD_zero_lt (by decide) massFits)
  have rate := holds.read 6 (off := 14) (len := 6) rfl (getD_zero_lt (by decide) rateFits)
  have signed : signed24 (e.raw.getD 0 % 16777216).toNat = e.raw.getD 0 := by
    cases h : e.raw with
    | none => rfl
    | some v => exact signed24_of_mod (rawFits v h).1 (rawFits v h).2
  have statusBack : periodStatusOf (field (halfHourEntryBytes e) 0 1 / 16 % 4) = e.status := by
    have code : field (halfHourEntryBytes e) 0 1 / 16 % 4 = e.status.code := by omega
    rw [code, periodStatusOf_code]
  have causeBack : (if e.status = .invalid then causeOf (field (halfHourEntryBytes e) 1 1 % 16) else none) = e.cause := by
    have code : field (halfHourEntryBytes e) 1 1 % 16 = causeCode e.cause := by omega
    rw [code, causeOf_causeCode notValid]
    cases h : e.cause with
    | none => exact ite_self _
    | some c => exact if_pos (causeThere.1 (h ▸ rfl))
  have massThere : e.mass.isSome = true ↔ bitOf (field (halfHourEntryBytes e) 0 1) 6 = true := by
    rw [bitOf_eq (a := e.mass.isSome) (by omega)]
  have rateThere : e.rate.isSome = true ↔ bitOf (field (halfHourEntryBytes e) 0 1) 7 = true := by
    rw [bitOf_eq (a := e.rate.isSome) (by omega)]
  rw [halfHourEntryOf, statusBack, causeBack, raw, signed, validated, mass, rate, ite_some_getD 0 rawThere,
    ite_some_getD 0 validatedThere, ite_some_getD 0 massThere, ite_some_getD 0 rateThere,
    bitOf_eq (a := e.aExceeded) (by omega), bitOf_eq (a := e.bExceeded) (by omega),
    bitOf_eq (a := e.saturated) (by omega), bitOf_eq (a := e.massSubst) (by omega),
    bitOf_eq (a := e.massNone) (by omega), show field (halfHourEntryBytes e) 0 1 % 16 = e.slot by omega,
    show field (halfHourEntryBytes e) 2 1 % 32 = e.validMinutes by omega]

theorem halfHourOf_body {h : HalfHour} (fits : HalfHourFits h) : halfHourOf h.start (halfHourBody h) = h := by
  obtain ⟨counts, disturbed, run, h2oSubst, clamped, o2Fits, h2oFits, few, entries⟩ := fits
  simp only [MinuteCounts.toList, List.forall_mem_cons] at counts
  obtain ⟨off, standby, firing, coldFiring, unknown, noRecord, -⟩ := counts
  have holds := packed_layout (halfHourFields h) (h.entries.flatMap halfHourEntryBytes)
  have body := drop_packed (halfHourFields h) (h.entries.flatMap halfHourEntryBytes)
  rw [← halfHourBody_eq, halfHourFields_size] at body
  rw [← halfHourBody_eq] at holds
  have rest : (halfHourBody h).drop 18 = h.entries.flatMap halfHourEntryBytes ++ [] := body.trans (List.append_nil _).symm
  have o := Bool.toNat_lt h.o2Avg.isSome
  have w := Bool.toNat_lt h.h2oAvg.isSome
  have f := Bool.toNat_lt h.fstop
  have flags := holds.read 12 (off := 16) (len := 1) rfl (by omega)
  have o2There : h.o2Avg.isSome = true ↔ bitOf (field (halfHourBody h) 16 1) 0 = true := by
    rw [bitOf_eq (a := h.o2Avg.isSome) (by omega)]
  have h2oThere : h.h2oAvg.isSome = true ↔ bitOf (field (halfHourBody h) 16 1) 1 = true := by
    rw [bitOf_eq (a := h.h2oAvg.isSome) (by omega)]
  rw [halfHourOf, holds.read 0 (off := 0) rfl off, holds.read 1 (off := 1) rfl standby,
    holds.read 2 (off := 2) rfl firing, holds.read 3 (off := 3) rfl coldFiring, holds.read 4 (off := 4) rfl unknown,
    holds.read 5 (off := 5) rfl noRecord, holds.read 6 (off := 6) rfl disturbed, holds.read 7 (off := 7) rfl run,
    holds.read 8 (off := 10) rfl h2oSubst, holds.read 9 (off := 11) rfl clamped,
    holds.read 10 (off := 12) rfl (getD_zero_lt (by decide) o2Fits),
    holds.read 11 (off := 14) rfl (getD_zero_lt (by decide) h2oFits), holds.read 13 (off := 17) rfl few,
    ite_some_getD 0 o2There, ite_some_getD 0 h2oThere, bitOf_eq (a := h.fstop) (by omega), rest,
    map_chunks_flatMap halfHourEntryBytes_length [] (g := id) fun e he => halfHourEntryOf_bytes (entries e he), List.map_id]

/-! ## The DAY body -/

/-- The fields of a day entry. -/
def dayEntryFields (e : DayEntry) : List (Nat × Nat) :=
  [(1, e.slot % 16 + 16 * e.status.code + 64 * e.exceeded.toNat), (3, e.average.getD 0), (1, e.valid), (1, e.invalid),
   (1, e.aExceed)]

theorem dayEntryBytes_eq (e : DayEntry) : dayEntryBytes e = packed (dayEntryFields e) [] := by
  simp only [dayEntryBytes, dayEntryFields, packed, List.foldr, List.append_assoc, List.append_nil]

theorem dayEntryFields_size (e : DayEntry) : ((dayEntryFields e).map (·.1)).sum = 7 := by simp [dayEntryFields]

theorem dayEntryBytes_length (e : DayEntry) : (dayEntryBytes e).length = 7 := by
  rw [dayEntryBytes_eq, packed_length, dayEntryFields_size]

/-- The fields of a DAY body before its day entries. -/
def dayFields (d : DayRecord) : List (Nat × Nat) :=
  (1, d.operating) :: d.counters.toList.map (fun n => (4, n)) ++ [(1, d.entries.length)]

theorem dayFields_size (d : DayRecord) : ((dayFields d).map (·.1)).sum = 38 := by simp [dayFields, Counters.toList]

theorem dayBody_eq (d : DayRecord) : dayBody d = packed (dayFields d) (d.entries.flatMap dayEntryBytes) := by
  simp only [dayBody, dayFields, Counters.toList, packed, List.map, List.cons_append, List.nil_append, List.foldr,
    List.flatMap_cons, List.flatMap_nil, List.append_assoc, List.append_nil]

theorem dayLayout (d : DayRecord) : DayLayout d := by
  obtain ⟨length, holds, entries⟩ := entries_layout dayEntryBytes_eq dayEntryFields_size (dayFields_size d) d.entries
  rw [← dayBody_eq] at length holds
  refine ⟨length, holds, fun i e at_i => ?_⟩
  have entry := entries i e at_i
  rw [← dayBody_eq, dayEntryFields, PeriodStatus.code_eq] at entry
  exact entry

/-- What a day entry holds when every field lies within its width (R79). -/
def DayEntryFits (e : DayEntry) : Prop :=
  e.slot < 16 ∧ e.valid < 256 ∧ e.invalid < 256 ∧ e.aExceed < 256
  ∧ (e.average.isSome = true ↔ e.status = .valid) ∧ ∀ v, e.average = some v → v < 16777216

theorem dayEntryOf_bytes {e : DayEntry} (fits : DayEntryFits e) : dayEntryOf (dayEntryBytes e) = e := by
  obtain ⟨slot, valid, invalid, aExceed, averageThere, averageFits⟩ := fits
  have holds := packed_layout (dayEntryFields e) []
  rw [← dayEntryBytes_eq] at holds
  have status := e.status.code_lt
  have x := Bool.toNat_lt e.exceeded
  have byte0 := holds.read 0 (off := 0) (len := 1) rfl (by omega)
  have code : field (dayEntryBytes e) 0 1 / 16 % 4 = e.status.code := by omega
  rw [dayEntryOf, code, periodStatusOf_code, holds.read 1 (off := 1) rfl (getD_zero_lt (by decide) averageFits),
    holds.read 2 (off := 4) rfl valid, holds.read 3 (off := 5) rfl invalid, holds.read 4 (off := 6) rfl aExceed,
    ite_some_getD 0 averageThere, bitOf_eq (a := e.exceeded) (by omega),
    show field (dayEntryBytes e) 0 1 % 16 = e.slot by omega]

theorem dayOf_body {d : DayRecord} (fits : DayFits d) : dayOf d.start (dayBody d) = d := by
  obtain ⟨operating, counters, few, entries⟩ := fits
  have holds := packed_layout (dayFields d) (d.entries.flatMap dayEntryBytes)
  have body := drop_packed (dayFields d) (d.entries.flatMap dayEntryBytes)
  rw [← dayBody_eq, dayFields_size] at body
  rw [← dayBody_eq] at holds
  have rest : (dayBody d).drop 38 = d.entries.flatMap dayEntryBytes ++ [] := body.trans (List.append_nil _).symm
  have counts : (dayBody d).drop 1
      = d.counters.toList.flatMap (beBytes 4) ++ (beBytes 1 d.entries.length ++ d.entries.flatMap dayEntryBytes) := by
    simp [dayBody, List.drop_left' (beBytes_length 1 d.operating)]
  have nine : (chunks 4 9 ((dayBody d).drop 1)).map ofBytes = d.counters.toList := by
    rw [counts]
    refine (map_chunks_flatMap (beBytes_length 4) _ (g := id) (l := d.counters.toList) fun n hn => ?_).trans (List.map_id _)
    exact (ofBytes_beBytes 4 n).trans (Nat.mod_eq_of_lt (counters n hn))
  rw [dayOf, nine, holds.read 0 (off := 0) rfl operating, holds.read 10 (off := 37) rfl few, rest,
    map_chunks_flatMap dayEntryBytes_length [] (g := id) fun e he => dayEntryOf_bytes (entries e he), List.map_id]
  rfl

/-! ## The YEAR_GENERAL and YEAR_SLOT bodies -/

/-- The fields of a YEAR_GENERAL body. -/
def yearGeneralFields (g : YearGeneral) : List (Nat × Nat) :=
  (2, g.year) :: (g.minutes.toList ++ [g.disturbance, g.longest, g.fstops, g.coldFiring] ++ g.totals.toList
    ++ [g.secured]).map (fun n => (4, n))

theorem yearGeneralBody_eq (g : YearGeneral) : yearGeneralBody g = packed (yearGeneralFields g) [] := by
  simp only [yearGeneralBody, yearGeneralFields, MinuteCounts.toList, Counters.toList, packed, List.map,
    List.cons_append, List.nil_append, List.foldr, List.flatMap_cons, List.flatMap_nil, List.append_assoc,
    List.append_nil]

/-- The fields of a YEAR_SLOT body. -/
def yearSlotFields (y : YearSlot) : List (Nat × Nat) :=
  (1, y.row.slot) :: [y.row.validDays, y.row.invalidDays, y.row.idleDays, y.row.validHalfHours,
      y.row.invalidHalfHours, y.row.aExceed, y.row.bCompliant, y.row.dayExceed, y.row.massSubst,
      y.permille.getD 0].map (fun n => (2, n))
    ++ [(1, y.permille.isSome.toNat + 2 * y.bBreach.toNat + 4 * y.availabilityBreach.toNat + 8 * y.mass.isSome.toNat),
      (4, y.mass.getD 0)]

theorem yearSlotBody_eq (y : YearSlot) : yearSlotBody y = packed (yearSlotFields y) [] := by
  have flags (a b c d : Bool) : flagByte [a, b, c, d] = a.toNat + 2 * b.toNat + 4 * c.toNat + 8 * d.toNat := by
    simp only [flagByte, List.foldr]
    omega
  simp only [yearSlotBody, yearSlotFields, flags, packed, List.map, List.cons_append, List.nil_append, List.foldr,
    List.flatMap_cons, List.flatMap_nil, List.append_assoc, List.append_nil]

theorem yearLayouts (g : YearGeneral) (y : YearSlot) : YearLayouts g y := by
  unfold YearLayouts
  rw [yearGeneralBody_eq, yearSlotBody_eq]
  refine ⟨?_, ?_, ?_, ?_⟩
  · simp [packed_length, yearGeneralFields, MinuteCounts.toList, Counters.toList]
  · exact packed_layout (yearGeneralFields g) []
  · simp [packed_length, yearSlotFields]
  · exact packed_layout (yearSlotFields y) []

end Sys2Proof.Machine
end

section
/-! The archive page reads back as its record (R130 to R132; for O40). -/

namespace Sys2Proof.Machine

theorem recordKindOf_code (k : RecordKind) : recordKindOf k.code = some k := by cases k <;> rfl

theorem RecordKind.code_lt (k : RecordKind) : k.code < 256 := by cases k <;> decide

/-- The longest body is a HALF_HOUR body of 10 entries (R131). -/
theorem length_le_of_bodyLengthOk {k : RecordKind} {body : List Byte} (h : bodyLengthOk k body = true) :
    body.length ≤ 218 := by
  cases k <;> simp only [bodyLengthOk, Bool.and_eq_true, decide_eq_true_eq, beq_iff_eq] at h <;> omega

/-- The fields of an archive page before its body (R132). -/
def pageFields (r : Rec) : List (Nat × Nat) :=
  [(2, 0xA53C), (1, r.kind.code), (1, r.origin), (4, r.seq), (4, r.start), (1, r.body.length)]

/-- The bytes of an archive page that its check covers. -/
def pageCovered (r : Rec) : List Byte := packed (pageFields r) r.body

theorem pageCovered_length (r : Rec) : (pageCovered r).length = 13 + r.body.length := by
  rw [pageCovered, ← packed_nil_append, List.length_append, packed_length]
  rfl

/-- What follows the body of an archive page: the check, and bytes left erased. -/
def pageRest (r : Rec) : List Byte :=
  beBytes 2 (crc16 (pageCovered r)).toNat
  ++ List.replicate (256 - (15 + r.body.length)) erasedByte

theorem pageBytesOf_eq (r : Rec) : pageBytesOf r = pageCovered r ++ pageRest r := by
  have marker : pageMarker = beBytes 2 0xA53C := by decide
  have contents : pageContents r = pageCovered r ++ beBytes 2 (crc16 (pageCovered r)).toNat := by
    simp [pageContents, pageCovered, pageFields, packed, recordHeader, marker]
  have length : (pageContents r).length = 15 + r.body.length := by
    rw [contents, List.length_append, pageCovered_length, beBytes_length]
    omega
  rw [pageBytesOf, length, contents, List.append_assoc]
  rfl

theorem pageBytesOf_packed (r : Rec) : pageBytesOf r = packed (pageFields r) (r.body ++ pageRest r) := by
  rw [pageBytesOf_eq, pageCovered, ← packed_nil_append, List.append_assoc, packed_nil_append]

theorem take_pageBytesOf (r : Rec) : (pageBytesOf r).take (13 + r.body.length) = pageCovered r := by
  rw [pageBytesOf_eq, List.take_left' (pageCovered_length r)]

/-- The fields of a page stand where 7.7.5 gives them, the check after the body included. -/
theorem pageBytesOf_holds (r : Rec) : HoldsFields (pageBytesOf r) (fieldsFrom 0 (pageFields r)
    ++ [(13 + r.body.length, 2, (crc16 ((pageBytesOf r).take (13 + r.body.length))).toNat)]) := by
  intro x hx
  rcases List.mem_append.1 hx with head | check
  · rw [pageBytesOf_packed]
    exact packed_layout _ _ x head
  · obtain rfl := List.mem_singleton.1 check
    rw [take_pageBytesOf, pageBytesOf_eq, ← pageCovered_length]
    exact field_at ..

theorem slice_pageBytesOf (r : Rec) : slice (pageBytesOf r) 13 r.body.length = r.body := by
  have rest : (pageBytesOf r).drop 13 = r.body ++ pageRest r := by
    rw [pageBytesOf_packed]
    exact drop_packed (pageFields r) _
  rw [slice, rest, List.take_left]

theorem pageBytesOf_length {r : Rec} (short : r.body.length ≤ 218) : (pageBytesOf r).length = 256 := by
  rw [pageBytesOf_eq, pageRest, List.length_append, List.length_append, pageCovered_length, beBytes_length,
    List.length_replicate]
  omega

/-- A page that holds a record reads back as it (R132). -/
theorem classifyPage_pageBytesOf {r : Rec} (origin : r.origin < 256) (seq : r.seq < 4294967296)
    (start : r.start < 4294967296) (body : bodyLengthOk r.kind r.body = true) :
    classifyPage (pageBytesOf r) = .record r := by
  have short := length_le_of_bodyLengthOk body
  have holds := pageBytesOf_holds r
  have marked : (pageBytesOf r).take 2 = pageMarker := by
    rw [pageBytesOf_packed]
    rfl
  have written : (pageBytesOf r).all (· == erasedByte) = false := by
    rw [pageBytesOf_packed]
    rfl
  have kind : field (pageBytesOf r) 2 1 = r.kind.code := holds.read 1 rfl r.kind.code_lt
  have length : field (pageBytesOf r) 12 1 = r.body.length := holds.read 5 rfl (by omega)
  have check := holds.read 6 rfl (crc16 ((pageBytesOf r).take (13 + r.body.length))).isLt
  have back : pageRecord (pageBytesOf r) = some r := by
    simp only [pageRecord, kind, recordKindOf_code, length, slice_pageBytesOf]
    rw [if_pos ⟨marked, by omega, body, check⟩, holds.read 2 (off := 3) rfl origin, holds.read 3 (off := 4) rfl seq,
      holds.read 4 (off := 8) rfl start]
  rw [classifyPage, written, back]
  rfl

/-- The header of a page's record stands behind the marker. -/
theorem pageBytesOf_header (r : Rec) : HoldsFields ((pageBytesOf r).drop 2) (headerFields r) := by
  have rest : (pageBytesOf r).drop 2 = packed ((pageFields r).tail) (r.body ++ pageRest r) := by
    rw [pageBytesOf_packed]
    exact drop_packed [(2, 0xA53C)] _
  rw [rest]
  refine (packed_layout _ _).subset ?_
  simp [pageFields, fieldsFrom, headerFields, RecordKind.code_eq]

theorem pageBytesOf_layout (r : Rec) (body : bodyLengthOk r.kind r.body = true) :
    let b := pageBytesOf r
    b.length = 256 ∧ HoldsFields b [(0, 2, 0xA53C), (12, 1, r.body.length),
          (13 + r.body.length, 2, (crc16 (b.take (13 + r.body.length))).toNat)]
      ∧ HoldsFields (b.drop 2) (headerFields r) ∧ slice b 13 r.body.length = r.body :=
  ⟨pageBytesOf_length (length_le_of_bodyLengthOk body),
    (pageBytesOf_holds r).subset (by simp [pageFields, fieldsFrom]), pageBytesOf_header r, slice_pageBytesOf r⟩

end Sys2Proof.Machine
end

section
/-! The payloads of the received telegrams, and the frames that read back as their commands (R127 to R131, 7.7.3;
for O40). -/

namespace Sys2Proof.Machine

/-! ## The payloads (R130, 7.7.3) -/

/-- The fields of a received TIME. -/
def timeFields (seconds : BitVec 32) (ticks : BitVec 16) (reference : Bool) : List (Nat × Nat) :=
  [(4, seconds.toNat), (2, ticks.toNat), (1, reference.toNat)]

/-- The fields of a received READING. -/
def readingFields (channel tag : BitVec 4) (status : BitVec 8) (value : BitVec 24) : List (Nat × Nat) :=
  [(1, 16 * channel.toNat + tag.toNat), (1, status.toNat), (3, value.toNat)]

/-- The fields of a received RECORD before its body. -/
def receivedRecordFields (head : RecordHead) (body : List Byte) : List (Nat × Nat) :=
  [(1, head.kind.toNat), (1, head.origin.toNat), (4, head.seq.toNat), (4, head.start.toNat), (1, head.backfill.toNat),
   (1, body.length)]

/-- The fields of an entry of a received MARK. -/
def receivedMarkFields (e : MarkEntry) : List (Nat × Nat) := [(1, e.origin.toNat), (4, e.held.toNat), (4, e.oldest.toNat)]

/-- The fields of a received GAP. -/
def receivedGapFields (target : BitVec 8) (first : BitVec 32) (count : BitVec 8) : List (Nat × Nat) :=
  [(1, target.toNat), (4, first.toNat), (1, count.toNat)]

/-- The fields of a QUERY: its head, its kind, and those of the kind. -/
def queryFields (head : QueryHead) (kind : Nat) (l : List (Nat × Nat)) : List (Nat × Nat) :=
  [(1, head.target.toNat), (1, head.tag.toNat), (1, kind)] ++ l

/-- The fields of a received PRESENCE. -/
def receivedPresenceFields (x : PresencePayload) : List (Nat × Nat) :=
  [(1, x.kind.toNat), (1, x.line.toNat), (1, x.station.toNat), (4, x.latest.toNat), (4, x.floor.toNat),
   (4, x.secured.toNat), (1, x.timeState.toNat), (2, x.flags.toNat)]

theorem telegramBytes_time (sender : BitVec 5) (seconds : BitVec 32) (ticks : BitVec 16) (reference : Bool) :
    telegramBytes (.receiveTime sender seconds ticks reference)
      = some (0, packed (timeFields seconds ticks reference) []) := by
  simp [telegramBytes, packed, timeFields]

theorem telegramBytes_reading (sender : BitVec 5) (channel tag : BitVec 4) (status : BitVec 8) (value : BitVec 24) :
    telegramBytes (.receiveReading sender channel tag status value)
      = some (1, packed (readingFields channel tag status value) []) := by
  simp [telegramBytes, packed, readingFields, beBytes_one_toNat]

theorem telegramBytes_record (sender : BitVec 5) (head : RecordHead) (body : List Byte) :
    telegramBytes (.receiveRecord sender head body) = some (2, packed (receivedRecordFields head body) body) := by
  simp [telegramBytes, receivedRecordBytes, packed, receivedRecordFields, beBytes_one_toNat]

/-- The 9 bytes of an entry of a received MARK. -/
def receivedMarkBytes (e : MarkEntry) : List Byte := packed (receivedMarkFields e) []

theorem telegramBytes_mark (sender : BitVec 5) (entries : List MarkEntry) :
    telegramBytes (.receiveMark sender entries)
      = some (3, packed [(1, entries.length)] (entries.flatMap receivedMarkBytes)) := by
  have entry : receivedMarkBytes = fun e => [e.origin] ++ beBytes 4 e.held.toNat ++ beBytes 4 e.oldest.toNat := by
    funext e
    simp [receivedMarkBytes, packed, receivedMarkFields, beBytes_one_toNat]
  simp [telegramBytes, packed, entry]

theorem telegramBytes_gap (sender : BitVec 5) (target : BitVec 8) (first : BitVec 32) (count : BitVec 8) :
    telegramBytes (.receiveGap sender target first count) = some (4, packed (receivedGapFields target first count) []) := by
  simp [telegramBytes, packed, receivedGapFields, beBytes_one_toNat]

theorem telegramBytes_presence (sender : BitVec 5) (x : PresencePayload) :
    telegramBytes (.receivePresence sender x) = some (7, packed (receivedPresenceFields x) []) := by
  simp [telegramBytes, presenceBytes, packed, receivedPresenceFields, beBytes_one_toNat]

theorem telegramBytes_read (head : QueryHead) (origin : BitVec 8) (first : BitVec 32) (count : BitVec 16) :
    telegramBytes (.read head origin first count)
      = some (5, packed (queryFields head 1 [(1, origin.toNat), (4, first.toNat), (2, count.toNat)]) []) := by
  simp [telegramBytes, queryHeadBytes, queryFields, packed, beBytes_one_toNat]

theorem telegramBytes_readYear (head : QueryHead) (origin year : BitVec 8) :
    telegramBytes (.readYear head origin year)
      = some (5, packed (queryFields head 2 [(1, origin.toNat), (1, year.toNat)]) []) := by
  simp [telegramBytes, queryHeadBytes, queryFields, packed, beBytes_one_toNat]

theorem telegramBytes_condition (head : QueryHead) :
    telegramBytes (.condition head) = some (5, packed (queryFields head 3 []) []) := by
  simp [telegramBytes, queryHeadBytes, queryFields, packed, beBytes_one_toNat]

theorem telegramBytes_clearAttention (head : QueryHead) (causes : BitVec 16) :
    telegramBytes (.clearAttention head causes) = some (5, packed (queryFields head 4 [(2, causes.toNat)]) []) := by
  simp [telegramBytes, queryHeadBytes, queryFields, packed, beBytes_one_toNat]

theorem telegramBytes_configBlock (head : QueryHead) (offset : BitVec 16) (data : List Byte) :
    telegramBytes (.configBlock head offset data)
      = some (5, packed (queryFields head 5 [(2, offset.toNat), (1, data.length)]) data) := by
  simp [telegramBytes, queryHeadBytes, queryFields, packed, beBytes_one_toNat]

theorem telegramBytes_configCommit (head : QueryHead) (length check : BitVec 16) :
    telegramBytes (.configCommit head length check)
      = some (5, packed (queryFields head 6 [(2, length.toNat), (2, check.toNat)]) []) := by
  simp [telegramBytes, queryHeadBytes, queryFields, packed, beBytes_one_toNat]

theorem packed_length_add (l : List (Nat × Nat)) (rest : List Byte) :
    (packed l rest).length = (l.map (·.1)).sum + rest.length := by
  rw [← packed_nil_append, List.length_append, packed_length]

theorem receivedLayouts : ReceivedLayouts := by
  have query {i : Instr} {head : QueryHead} {kind : Nat} {l : List (Nat × Nat)} {rest : List Byte}
      (bytes : telegramBytes i = some (5, packed (queryFields head kind l) rest)) :
      QueryLayout i head kind (((queryFields head kind l).map (·.1)).sum + rest.length) (fieldsFrom 3 l) :=
    ⟨_, bytes, packed_length_add .., packed_layout (queryFields head kind l) rest⟩
  refine ⟨fun _ _ _ _ => ⟨_, telegramBytes_time .., packed_length _, packed_layout _ _⟩,
    fun _ _ _ _ _ => ⟨_, telegramBytes_reading .., packed_length _, packed_layout _ _⟩,
    fun _ head body => ⟨_, telegramBytes_record .., packed_length_add .., drop_packed (receivedRecordFields head body) _,
      packed_layout _ _⟩, fun sender entries => ?_,
    fun _ _ _ _ => ⟨_, telegramBytes_gap .., packed_length _, packed_layout _ _⟩,
    fun _ _ _ _ => query (telegramBytes_read ..), fun _ _ _ => query (telegramBytes_readYear ..),
    fun _ => query (telegramBytes_condition ..), fun _ _ => query (telegramBytes_clearAttention ..),
    fun head offset data => ⟨query (telegramBytes_configBlock ..), fun c p bytes => ?_⟩,
    fun _ _ _ => query (telegramBytes_configCommit ..),
    fun _ _ => ⟨_, telegramBytes_presence .., packed_length _, packed_layout _ _⟩⟩
  · obtain ⟨length, holds, places⟩ := entries_layout (f := receivedMarkBytes) (g := receivedMarkFields) (size := 9)
      (fun _ => rfl) (fun _ => rfl) (l := [(1, entries.length)]) rfl entries
    exact ⟨_, telegramBytes_mark sender entries, length, holds, places⟩
  · obtain ⟨rfl, rfl⟩ := Prod.mk.inj (Option.some.inj ((telegramBytes_configBlock head offset data).symm.trans bytes))
    exact drop_packed (queryFields head 5 [(2, offset.toNat), (1, data.length)]) data

end Sys2Proof.Machine
end

section
/-! Frames read back as the commands they are of, and what the unnamed bits of a payload change: nothing (R127 to R131,
7.7.3; O40). -/

namespace Sys2Proof.Machine

/-! ## Reading a payload back -/

/-- A held bit vector as wide as its field reads back. -/
theorem HoldsFields.bits {b : List Byte} {l : List (Nat × Nat × Nat)} (h : HoldsFields b l) (i : Nat)
    {off len w : Nat} {x : BitVec w} (place : l[i]? = some (off, len, x.toNat)) (width : 2 ^ w = 256 ^ len) :
    fieldBits w b off len = x :=
  fieldBits_eq (h.read i place (width ▸ x.isLt))

/-- A held flag reads back from bit 0 of its byte. -/
theorem HoldsFields.bit {b : List Byte} {l : List (Nat × Nat × Nat)} (h : HoldsFields b l) (i : Nat)
    {off : Nat} {a : Bool} (place : l[i]? = some (off, 1, a.toNat)) : bitOf (field b off 1) 0 = a := by
  have small := Bool.toNat_lt a
  have byte := h.read i place (by omega)
  exact bitOf_eq (by omega)

/-- A held set of named flags reads back. -/
theorem HoldsFields.flags {b : List Byte} {l : List (Nat × Nat × Nat)} (h : HoldsFields b l) (i : Nat) {off : Nat}
    {x : BitVec 16} (place : l[i]? = some (off, 2, x.toNat)) (named : x.toNat < 512) : flagField b off = x :=
  flagField_eq (h.read i place x.isLt) named

/-- A payload of a class that a frame can carry, of a permitted length, that stands for a command. -/
structure ReadsBack (i : Instr) (cls : Nat) (p : List Byte) : Prop where
  cls_lt : cls < 8
  short : p.length ≤ 240
  permitted : permittedLength cls p = true
  back : OnlyNamedBits i → ∀ sender, i.sender = some sender → telegramOf cls sender p = some i

theorem readsBack_time (sender : BitVec 5) (seconds : BitVec 32) (ticks : BitVec 16) (reference : Bool) :
    ReadsBack (.receiveTime sender seconds ticks reference) 0 (packed (timeFields seconds ticks reference) []) := by
  have length : (packed (timeFields seconds ticks reference) []).length = 7 := packed_length _
  have holds := packed_layout (timeFields seconds ticks reference) []
  refine ⟨by decide, by omega, by simp [permittedLength, length], fun _ _ same => ?_⟩
  obtain rfl := Option.some.inj same
  rw [telegramOf, timeOf, holds.bits 0 rfl rfl, holds.bits 1 rfl rfl, holds.bit 2 rfl]

theorem readsBack_reading (sender : BitVec 5) (channel tag : BitVec 4) (status : BitVec 8) (value : BitVec 24) :
    ReadsBack (.receiveReading sender channel tag status value) 1 (packed (readingFields channel tag status value) []) := by
  have length : (packed (readingFields channel tag status value) []).length = 5 := packed_length _
  have holds := packed_layout (readingFields channel tag status value) []
  refine ⟨by decide, by omega, by simp [permittedLength, length], fun _ _ same => ?_⟩
  obtain rfl := Option.some.inj same
  have c := channel.isLt
  have t := tag.isLt
  have byte := holds.read 0 (off := 0) (len := 1) rfl (by omega)
  have high : BitVec.ofNat 4 (field (packed (readingFields channel tag status value) []) 0 1 / 16) = channel :=
    BitVec.eq_of_toNat_eq (by rw [BitVec.toNat_ofNat]; omega)
  have low : BitVec.ofNat 4 (field (packed (readingFields channel tag status value) []) 0 1) = tag :=
    BitVec.eq_of_toNat_eq (by rw [BitVec.toNat_ofNat]; omega)
  rw [telegramOf, readingOf, high, low, holds.bits 1 rfl rfl, holds.bits 2 rfl rfl]

theorem readsBack_record (sender : BitVec 5) {head : RecordHead} {body : List Byte} (wf : recordWf head body = true) :
    ReadsBack (.receiveRecord sender head body) 2 (packed (receivedRecordFields head body) body) := by
  obtain ⟨k, kind, good⟩ : ∃ k, recordKindOf head.kind.toNat = some k ∧ bodyLengthOk k body = true :=
    (recordPermitted_iff head body).1 wf
  have short := length_le_of_bodyLengthOk good
  have length : (packed (receivedRecordFields head body) body).length = 12 + body.length := packed_length_add ..
  have rest : (packed (receivedRecordFields head body) body).drop 12 = body := drop_packed (receivedRecordFields head body) _
  have holds := packed_layout (receivedRecordFields head body) body
  have code := holds.read 0 (off := 0) (len := 1) rfl head.kind.isLt
  have count := holds.read 5 (off := 11) (len := 1) rfl (by omega)
  refine ⟨by decide, by omega, ?_, fun _ _ same => ?_⟩
  · simp only [permittedLength, code, kind]
    simp [length, count, rest, good]
  · obtain rfl := Option.some.inj same
    rw [telegramOf, recordTelegramOf, rest, holds.bits 0 rfl rfl, holds.bits 1 rfl rfl, holds.bits 2 rfl rfl,
      holds.bits 3 rfl rfl, holds.bit 4 rfl]

theorem markEntryOf_bytes (e : MarkEntry) : markEntryOf (receivedMarkBytes e) = e := by
  have holds := packed_layout (receivedMarkFields e) []
  rw [receivedMarkBytes, markEntryOf, holds.bits 0 rfl rfl, holds.bits 1 rfl rfl, holds.bits 2 rfl rfl]

theorem readsBack_mark (sender : BitVec 5) {entries : List MarkEntry} (few : entries.length ≤ 3) :
    ReadsBack (.receiveMark sender entries) 3 (packed [(1, entries.length)] (entries.flatMap receivedMarkBytes)) := by
  have size (e : MarkEntry) : (receivedMarkBytes e).length = 9 := packed_length _
  have length : (packed [(1, entries.length)] (entries.flatMap receivedMarkBytes)).length = 1 + 9 * entries.length :=
    (packed_length_add ..).trans (congrArg _ (length_flatMap_of_size size entries))
  have rest : (packed [(1, entries.length)] (entries.flatMap receivedMarkBytes)).drop 1
      = entries.flatMap receivedMarkBytes ++ [] :=
    (drop_packed [(1, entries.length)] _).trans (List.append_nil _).symm
  have holds := packed_layout [(1, entries.length)] (entries.flatMap receivedMarkBytes)
  have count := holds.read 0 (off := 0) (len := 1) rfl (by omega)
  refine ⟨by decide, by omega, by simp [permittedLength, length, count, few], fun _ _ same => ?_⟩
  obtain rfl := Option.some.inj same
  rw [telegramOf, markOf, count, rest, map_chunks_flatMap size [] (g := id) fun e _ => markEntryOf_bytes e, List.map_id]

theorem readsBack_gap (sender : BitVec 5) (target : BitVec 8) (first : BitVec 32) (count : BitVec 8) :
    ReadsBack (.receiveGap sender target first count) 4 (packed (receivedGapFields target first count) []) := by
  have length : (packed (receivedGapFields target first count) []).length = 6 := packed_length _
  have holds := packed_layout (receivedGapFields target first count) []
  refine ⟨by decide, by omega, by simp [permittedLength, length], fun _ _ same => ?_⟩
  obtain rfl := Option.some.inj same
  rw [telegramOf, gapTelegramOf, holds.bits 0 rfl rfl, holds.bits 1 rfl rfl, holds.bits 2 rfl rfl]

theorem readsBack_presence (sender : BitVec 5) (x : PresencePayload) :
    ReadsBack (.receivePresence sender x) 7 (packed (receivedPresenceFields x) []) := by
  have length : (packed (receivedPresenceFields x) []).length = 18 := packed_length _
  have holds := packed_layout (receivedPresenceFields x) []
  refine ⟨by decide, by omega, by simp [permittedLength, length], fun named _ same => ?_⟩
  obtain rfl := Option.some.inj same
  rw [telegramOf, presenceTelegramOf, holds.bits 0 rfl rfl, holds.bits 1 rfl rfl, holds.bits 2 rfl rfl,
    holds.bits 3 rfl rfl, holds.bits 4 rfl rfl, holds.bits 5 rfl rfl, holds.bits 6 rfl rfl,
    holds.flags 7 rfl (named.1 _ _ rfl)]

/-- The parts of the payload of a QUERY: its length, its head, and the fields of its kind. -/
theorem query_parts (head : QueryHead) {kind : Nat} (small : kind < 256) (l : List (Nat × Nat)) (rest : List Byte) :
    (packed (queryFields head kind l) rest).length = 3 + (l.map (·.1)).sum + rest.length
    ∧ field (packed (queryFields head kind l) rest) 2 1 = kind
    ∧ fieldBits 8 (packed (queryFields head kind l) rest) 0 1 = head.target
    ∧ fieldBits 8 (packed (queryFields head kind l) rest) 1 1 = head.tag
    ∧ HoldsFields (packed (queryFields head kind l) rest) (fieldsFrom 3 l) := by
  have holds := packed_layout (queryFields head kind l) rest
  refine ⟨?_, holds.read 2 rfl small, holds.bits 0 rfl rfl, holds.bits 1 rfl rfl, holds.subset ?_⟩
  · rw [packed_length_add, queryFields, List.map_append, List.sum_append]
    rfl
  · rw [queryFields, fieldsFrom_append]
    exact List.subset_append_right ..

theorem readsBack_read (head : QueryHead) (origin : BitVec 8) (first : BitVec 32) (count : BitVec 16) :
    ReadsBack (.read head origin first count) 5
      (packed (queryFields head 1 [(1, origin.toNat), (4, first.toNat), (2, count.toNat)]) []) := by
  obtain ⟨length, kind, target, tag, holds⟩ := query_parts head (kind := 1) (by decide)
    [(1, origin.toNat), (4, first.toNat), (2, count.toNat)] []
  refine ⟨by decide, by simp [length], by simp [permittedLength, kind, length], fun _ _ same => ?_⟩
  obtain rfl := Option.some.inj same
  simp only [telegramOf, queryOf, kind, target, tag]
  rw [holds.bits 0 rfl rfl, holds.bits 1 rfl rfl, holds.bits 2 rfl rfl]

theorem readsBack_readYear (head : QueryHead) (origin year : BitVec 8) :
    ReadsBack (.readYear head origin year) 5 (packed (queryFields head 2 [(1, origin.toNat), (1, year.toNat)]) []) := by
  obtain ⟨length, kind, target, tag, holds⟩ := query_parts head (kind := 2) (by decide)
    [(1, origin.toNat), (1, year.toNat)] []
  refine ⟨by decide, by simp [length], by simp [permittedLength, kind, length], fun _ _ same => ?_⟩
  obtain rfl := Option.some.inj same
  simp only [telegramOf, queryOf, kind, target, tag]
  rw [holds.bits 0 rfl rfl, holds.bits 1 rfl rfl]

theorem readsBack_condition (head : QueryHead) :
    ReadsBack (.condition head) 5 (packed (queryFields head 3 []) []) := by
  obtain ⟨length, kind, target, tag, -⟩ := query_parts head (kind := 3) (by decide) [] []
  refine ⟨by decide, by simp [length], by simp [permittedLength, kind, length], fun _ _ same => ?_⟩
  obtain rfl := Option.some.inj same
  simp only [telegramOf, queryOf, kind, target, tag]

theorem readsBack_clearAttention (head : QueryHead) (causes : BitVec 16) :
    ReadsBack (.clearAttention head causes) 5 (packed (queryFields head 4 [(2, causes.toNat)]) []) := by
  obtain ⟨length, kind, target, tag, holds⟩ := query_parts head (kind := 4) (by decide) [(2, causes.toNat)] []
  refine ⟨by decide, by simp [length], by simp [permittedLength, kind, length], fun named _ same => ?_⟩
  obtain rfl := Option.some.inj same
  simp only [telegramOf, queryOf, kind, target, tag]
  rw [holds.flags 0 rfl (named.2 _ _ rfl)]

theorem readsBack_configBlock (head : QueryHead) (offset : BitVec 16) {data : List Byte} (some_data : 1 ≤ data.length)
    (short : data.length ≤ 200) : ReadsBack (.configBlock head offset data) 5
      (packed (queryFields head 5 [(2, offset.toNat), (1, data.length)]) data) := by
  obtain ⟨length, kind, target, tag, holds⟩ := query_parts head (kind := 5) (by decide)
    [(2, offset.toNat), (1, data.length)] data
  have six : (packed (queryFields head 5 [(2, offset.toNat), (1, data.length)]) data).length = 6 + data.length := length
  have rest : (packed (queryFields head 5 [(2, offset.toNat), (1, data.length)]) data).drop 6 = data :=
    drop_packed (queryFields head 5 [(2, offset.toNat), (1, data.length)]) _
  have count := holds.read 1 (off := 5) (len := 1) rfl (by omega)
  refine ⟨by decide, by omega, by simp [permittedLength, kind, count, six, some_data, short], fun _ _ same => ?_⟩
  obtain rfl := Option.some.inj same
  simp only [telegramOf, queryOf, kind, target, tag, rest]
  rw [holds.bits 0 rfl rfl]

theorem readsBack_configCommit (head : QueryHead) (length check : BitVec 16) :
    ReadsBack (.configCommit head length check) 5
      (packed (queryFields head 6 [(2, length.toNat), (2, check.toNat)]) []) := by
  obtain ⟨size, kind, target, tag, holds⟩ := query_parts head (kind := 6) (by decide)
    [(2, length.toNat), (2, check.toNat)] []
  refine ⟨by decide, by simp [size], by simp [permittedLength, kind, size], fun _ _ same => ?_⟩
  obtain rfl := Option.some.inj same
  simp only [telegramOf, queryOf, kind, target, tag]
  rw [holds.bits 0 rfl rfl, holds.bits 1 rfl rfl]

/-- The payload of a well-formed command that is a telegram reads back as it. -/
theorem readsBack_of_bytes {i : Instr} (wf : i.wf = true) {cls : Nat} {p : List Byte}
    (bytes : telegramBytes i = some (cls, p)) : ReadsBack i cls p := by
  have from_form {cls' : Nat} {p' : List Byte} (back : ReadsBack i cls' p')
      (form : telegramBytes i = some (cls', p')) : ReadsBack i cls p := by
    obtain ⟨rfl, rfl⟩ := Prod.mk.inj (Option.some.inj (form.symm.trans bytes))
    exact back
  cases i
  case receiveTime => exact from_form (readsBack_time ..) (telegramBytes_time ..)
  case receiveReading => exact from_form (readsBack_reading ..) (telegramBytes_reading ..)
  case receiveRecord =>
    exact from_form (readsBack_record _ ((Bool.and_eq_true _ _).mp wf).2) (telegramBytes_record ..)
  case receiveMark =>
    exact from_form (readsBack_mark _ (of_decide_eq_true ((Bool.and_eq_true _ _).mp wf).2)) (telegramBytes_mark ..)
  case receiveGap => exact from_form (readsBack_gap ..) (telegramBytes_gap ..)
  case receivePresence => exact from_form (readsBack_presence ..) (telegramBytes_presence ..)
  case read => exact from_form (readsBack_read ..) (telegramBytes_read ..)
  case readYear => exact from_form (readsBack_readYear ..) (telegramBytes_readYear ..)
  case condition => exact from_form (readsBack_condition ..) (telegramBytes_condition ..)
  case clearAttention => exact from_form (readsBack_clearAttention ..) (telegramBytes_clearAttention ..)
  case configBlock head offset data =>
    simp only [Instr.wf, blockWf, Bool.and_eq_true, decide_eq_true_eq] at wf
    obtain ⟨-, some_data, short⟩ := wf
    exact from_form (readsBack_configBlock head offset some_data short) (telegramBytes_configBlock ..)
  case configCommit => exact from_form (readsBack_configCommit ..) (telegramBytes_configCommit ..)
  all_goals exact absurd bytes nofun

/-! ## What a frame stands for (R127 to R129) -/

/-- The command of a frame whose payload its class permits (R128, R129). -/
theorem commandOfFrame_frameBytes {cls : Nat} {sender : BitVec 5} {p : List Byte} (own : Nat) (clsFits : cls < 8)
    (short : p.length ≤ 240) (permitted : permittedLength cls p = true) :
    commandOfFrame own (frameBytes cls sender.toNat p) true
      = if sender.toNat = own then some (.stationClash (BitVec.ofNat 3 cls)) else telegramOf cls sender p := by
  have five := sender.isLt
  obtain ⟨key, payload, error⟩ := frameBytes_parts (sender := sender.toNat) (by omega) clsFits short
  have low : (32 * cls + sender.toNat) % 32 = sender.toNat := by omega
  have high : (32 * cls + sender.toNat) / 32 = cls := by omega
  have station : BitVec.ofNat 5 (32 * cls + sender.toNat) = sender :=
    BitVec.eq_of_toNat_eq (by rw [BitVec.toNat_ofNat]; exact low)
  rw [permitted] at error
  simp only [commandOfFrame, error, key, payload, low, high, station]
  rfl

theorem framesReadBack : FramesReadBack := by
  refine ⟨fun own frame endMark bad => if_pos bad, fun i frame wf made => ?_, fun own sender p low high short => ?_,
    fun _ _ _ => rfl⟩
  · obtain ⟨sender, ⟨cls, p⟩, sent, bytes, rfl⟩ : ∃ sender x, i.sender = some sender ∧ telegramBytes i = some x
        ∧ frameBytes x.1 sender.toNat x.2 = frame := by
      unfold telegramFrame at made
      split at made
      · next sender cls p sent bytes => exact ⟨sender, (cls, p), sent, bytes, Option.some.inj made⟩
      · exact nomatch made
    have back := readsBack_of_bytes wf bytes
    obtain ⟨-, -, error⟩ := frameBytes_parts sender.isLt back.cls_lt back.short
    refine ⟨error.trans (by rw [back.permitted]; rfl), fun sender' cls' p' own sent' bytes' => ?_⟩
    obtain rfl := Option.some.inj (sent.symm.trans sent')
    obtain ⟨rfl, rfl⟩ := Prod.mk.inj (Option.some.inj (bytes.symm.trans bytes'))
    rw [commandOfFrame_frameBytes own back.cls_lt back.short back.permitted]
    exact ⟨fun same => if_pos same, fun other named => (if_neg other).trans (back.back named _ sent)⟩
  · obtain ⟨-, -, error⟩ := frameBytes_parts (p := p) high (cls := 6) (by decide) short
    have permitted : permittedLength 6 p = true := decide_eq_true short
    refine ⟨error.trans (by rw [permitted]; rfl), fun other => ?_⟩
    have five : (BitVec.ofNat 5 sender).toNat = sender := by rw [BitVec.toNat_ofNat]; exact Nat.mod_eq_of_lt high
    have command := commandOfFrame_frameBytes (sender := BitVec.ofNat 5 sender) own (by decide) short permitted
    rw [five, if_neg other] at command
    exact command

/-! ## The bits that 7.7.3 does not name (R130) -/

/-- Of a flag byte only bit 0 is read. -/
theorem bitOf_field_congr {before : List Byte} (after : List Byte) {x y : Byte} (same : x.getLsbD 0 = y.getLsbD 0)
    {n : Nat} (length : before.length = n) :
    bitOf (field (before ++ x :: after) n 1) 0 = bitOf (field (before ++ y :: after) n 1) 0 := by
  subst length
  have one (b : Byte) : field (before ++ b :: after) before.length 1 = b.toNat := by simp [field, slice, ofBytes]
  rw [one, one]
  exact same

/-- Of a flag field only the lowest 9 bits are read. -/
theorem flagField_congr {before after : List Byte} {x y : Byte} (same : x.getLsbD 0 = y.getLsbD 0) {n : Nat}
    (length : before.length = n) (one : after.length = 1) :
    flagField (before ++ x :: after) n = flagField (before ++ y :: after) n := by
  subst length
  obtain ⟨z, rfl⟩ := List.length_eq_one_iff.1 one
  have bit : x.toNat % 2 = y.toNat % 2 := by
    simp only [← BitVec.testBit_toNat, Nat.testBit_zero, decide_eq_decide] at same
    omega
  have two (b : Byte) : field (before ++ [b, z]) before.length 2 = 256 * b.toNat + z.toNat := by
    simp [field, slice, ofBytes]
    omega
  rw [flagField, flagField, two, two]
  congr 1
  omega

theorem unnamedBitsIgnored : UnnamedBitsIgnored := by
  refine fun sender before after x y => ⟨fun same length => ?_, fun same length => ?_, fun same length one => ?_,
    fun same length kind one => ?_⟩
  · simp [telegramOf, timeOf, fieldBits, field_append, length, bitOf_field_congr [] same length]
  · have rest (z : Byte) : (before ++ z :: after).drop 12 = after.drop 1 := by simp [List.drop_append, length]
    simp [telegramOf, recordTelegramOf, fieldBits, field_append, length, bitOf_field_congr after same length, rest]
  · simp [telegramOf, presenceTelegramOf, fieldBits, field_append, length, flagField_congr same length one]
  · simp [telegramOf, queryOf, fieldBits, field_append, length, kind, flagField_congr same length one]

/-- Settles O40: the layouts of the pages, the bodies and the payloads, and what reads back out of them. -/
theorem pageOfARecordReadsBackAsIt : Obligations.PageOfARecordReadsBackAsIt := by
  refine ⟨fun r origin seq start body => ?_, fun h => ⟨halfHourLayout h, halfHourOf_body⟩,
    fun d => ⟨dayLayout d, dayOf_body⟩, receivedLayouts, unnamedBitsIgnored, framesReadBack, yearLayouts⟩
  obtain ⟨length, layout, header, held⟩ := pageBytesOf_layout r body
  exact ⟨length, classifyPage_pageBytesOf origin seq start body, layout, header, held⟩

end Sys2Proof.Machine
end

section
/-! The numbers of the outbound record queue (R156 to R158): what appends, removals and programs leave of their order. -/

namespace Sys2Proof.Machine

/-! ## The queue and its numbers -/

/-- The entries of an outbound queue that are not yet archived, oldest first. -/
def archiving (l : List OutEntry) : List OutEntry := l.filter (fun e => e.state != .waitingPublish)

/-- How the entries of an outbound queue are numbered against the latest archived number and the last assigned one; `busy`
is whether an own program is in flight. -/
structure Numbered (latest last : Nat) (busy : Prop) (l : List OutEntry) : Prop where
  order : latest ≤ last
  younger : ∀ e ∈ (archiving l).drop 1, e.seq = none ∧ e.state = .waitingArchive
  oldest : ∀ e, (archiving l).head? = some e → ∀ q, e.seq = some q → q = last ∧ latest < q
  programming : ∀ e, (archiving l).head? = some e → e.state = .programming → e.seq.isSome = true ∧ busy
  distinct : (l.filterMap (·.seq)).Nodup
  assigned : ∀ q ∈ l.filterMap (·.seq), q ≤ last

/-- The numbers of the outbound record queue are in order. -/
def OutboundNumbered (s : State) : Prop :=
  Numbered s.arch.latest s.arch.lastAssigned (s.arch.op = .programming .own) s.arch.outbound

theorem sequenceOrder_iff (s : State) : SequenceOrder s ↔ s.wit.secured ≤ s.arch.latest ∧ OutboundNumbered s
    ∧ (s.supply.station = some .commission → s.arch.outbound = []) := by
  constructor
  · intro ⟨secured, latest, younger, oldest, programming, distinct, assigned, commission⟩
    refine ⟨secured, ⟨latest, younger, oldest, programming, distinct, fun q hq => ?_⟩, commission⟩
    obtain ⟨e, he, number⟩ := List.mem_filterMap.1 hq
    exact assigned e he q number
  · intro ⟨secured, ⟨latest, younger, oldest, programming, distinct, assigned⟩, commission⟩
    exact ⟨secured, latest, younger, oldest, programming, distinct,
      fun e he q number => assigned q (List.mem_filterMap.2 ⟨e, he, number⟩), commission⟩

section
variable {latest last : Nat} {busy : Prop} {l older younger : List OutEntry} {e : OutEntry}

theorem Numbered.nil (h : latest ≤ last) : Numbered latest last busy [] := by
  refine ⟨h, ?_, ?_, ?_, ?_, ?_⟩ <;> simp [archiving]

/-- Only an entry in PROGRAMMING asks for the program in flight. -/
theorem Numbered.mono {busy' : Prop} (h : Numbered latest last busy l) (still : busy → busy') :
    Numbered latest last busy' l :=
  { h with programming := fun e first state => (h.programming e first state).imp_right still }

/-- An entry not yet archived is the oldest one, or has no number and waits. -/
theorem Numbered.of_unarchived (h : Numbered latest last busy l) (he : e ∈ archiving l) :
    (archiving l).head? = some e ∨ e.seq = none ∧ e.state = .waitingArchive := by
  have younger := h.younger e
  cases waiting : archiving l with
  | nil => simp [waiting] at he
  | cons y r =>
    rw [waiting] at he younger
    exact (List.mem_cons.1 he).imp (fun first => by rw [first]; rfl) younger

theorem mem_archiving : e ∈ archiving l ↔ e ∈ l ∧ e.state ≠ .waitingPublish := by simp [archiving]

/-- With no own program in flight no entry is in PROGRAMMING. -/
theorem Numbered.none_programming (h : Numbered latest last busy l) (idle : ¬ busy) (he : e ∈ l) :
    e.state ≠ .programming := by
  intro state
  rcases h.of_unarchived (mem_archiving.2 ⟨he, by simp [state]⟩) with first | ⟨-, waits⟩
  · exact idle (h.programming e first state).2
  · simp [state] at waits

/-- With no entry in PROGRAMMING, no program need be in flight. -/
theorem Numbered.idle (h : Numbered latest last busy l) (none : ∀ x ∈ l, x.state ≠ .programming) (busy' : Prop) :
    Numbered latest last busy' l :=
  { h with programming := fun e first state => absurd state (none e (mem_archiving.1 (List.mem_of_mem_head? first)).1) }

/-- A number that an entry not yet archived holds is the last assigned one, above the latest archived. -/
theorem Numbered.number_of_unarchived (h : Numbered latest last busy l) (he : e ∈ l) (state : e.state ≠ .waitingPublish)
    {q : Nat} (number : e.seq = some q) : q = last ∧ latest < q := by
  rcases h.of_unarchived (mem_archiving.2 ⟨he, state⟩) with first | ⟨none, -⟩
  · exact h.oldest e first q number
  · simp [none] at number

/-- What the order of numbers reads of an entry: its number and where it stands. -/
def OutEntry.standing (e : OutEntry) : Option Nat × OutState := (e.seq, e.state)

/-- Whether a queue is numbered is told from the numbers and states of its entries. -/
theorem Numbered.congr {l' : List OutEntry} (h : Numbered latest last busy l)
    (same : l'.map OutEntry.standing = l.map OutEntry.standing) : Numbered latest last busy l' := by
  have waiting : (archiving l').map OutEntry.standing = (archiving l).map OutEntry.standing := by
    have among (k : List OutEntry) : (archiving k).map OutEntry.standing
        = (k.map OutEntry.standing).filter (fun x => x.2 != .waitingPublish) := by
      rw [List.filter_map]
      rfl
    rw [among, among, same]
  have numbers : l'.filterMap (·.seq) = l.filterMap (·.seq) := by
    have among (k : List OutEntry) : k.filterMap (·.seq) = (k.map OutEntry.standing).filterMap (·.1) := by
      rw [List.filterMap_map]
      rfl
    rw [among, among, same]
  have first {e : OutEntry} (he : (archiving l').head? = some e) :
      ∃ x, (archiving l).head? = some x ∧ x.seq = e.seq ∧ x.state = e.state := by
    have head := congrArg List.head? waiting
    rw [List.head?_map, List.head?_map, he, Option.map_some] at head
    obtain ⟨x, hx, standing⟩ := Option.map_eq_some_iff.1 head.symm
    exact ⟨x, hx, Prod.mk.inj standing⟩
  refine ⟨h.order, fun e he => ?_, fun e he => ?_, fun e he => ?_, numbers ▸ h.distinct, numbers ▸ h.assigned⟩
  · have member : e.standing ∈ ((archiving l).drop 1).map OutEntry.standing := by
      rw [List.map_drop, ← waiting, ← List.map_drop]
      exact List.mem_map_of_mem he
    obtain ⟨x, hx, standing⟩ := List.mem_map.1 member
    obtain ⟨seq, state⟩ := Prod.mk.inj standing
    rw [← seq, ← state]
    exact h.younger x hx
  · obtain ⟨x, hx, seq, -⟩ := first he
    rw [← seq]
    exact h.oldest x hx
  · obtain ⟨x, hx, seq, state⟩ := first he
    rw [← seq, ← state]
    exact h.programming x hx

/-! ## Entries that join and leave (R156, R160) -/

/-- Entries may leave the queue. -/
theorem Numbered.sublist {l' : List OutEntry} (h : Numbered latest last busy l) (sub : l'.Sublist l) :
    Numbered latest last busy l' := by
  have waiting : (archiving l').Sublist (archiving l) := sub.filter _
  have first {e : OutEntry} (he : (archiving l').head? = some e) :
      (archiving l).head? = some e ∨ e.seq = none ∧ e.state = .waitingArchive :=
    h.of_unarchived (waiting.subset (List.mem_of_mem_head? he))
  refine ⟨h.order, fun e he => h.younger e ((waiting.drop 1).subset he), fun e he q number => ?_, fun e he state => ?_,
    (sub.filterMap _).nodup h.distinct, fun q hq => h.assigned q ((sub.filterMap _).subset hq)⟩
  · rcases first he with oldest | ⟨none, -⟩
    · exact h.oldest e oldest q number
    · simp [none] at number
  · rcases first he with oldest | ⟨-, waits⟩
    · exact h.programming e oldest state
    · simp [state] at waits

/-- The numbers of a queue: that of one entry, and those of the others. -/
theorem numbers_perm (older : List OutEntry) (e : OutEntry) (younger : List OutEntry) :
    ((older ++ e :: younger).filterMap (·.seq)).Perm (e.seq.toList ++ (older ++ younger).filterMap (·.seq)) := by
  refine (List.perm_middle.filterMap _).trans ?_
  cases number : e.seq <;> simp [number]

/-- An entry that waits for the archive may leave, and the number that it held is then free again. -/
theorem Numbered.withoutWaiting (h : Numbered latest last busy (older ++ e :: younger)) (state : e.state = .waitingArchive) :
    Numbered latest (if e.seq.isSome then last - 1 else last) busy (older ++ younger) := by
  have left : Numbered latest last busy (older ++ younger) := h.sublist (by simp)
  cases number : e.seq with
  | none => exact left
  | some q =>
    obtain ⟨rfl, above⟩ := h.number_of_unarchived (by simp) (by simp [state]) number
    have perm := numbers_perm older e younger
    rw [number] at perm
    have free : q ∉ (older ++ younger).filterMap (·.seq) := (List.nodup_cons.1 (perm.nodup_iff.1 h.distinct)).1
    refine ⟨Nat.le_sub_one_of_lt above, left.younger, fun x first n named => ?_, left.programming, left.distinct,
      fun n hn => ?_⟩
    · obtain ⟨rfl, -⟩ := left.oldest x first n named
      have member := (mem_archiving.1 (List.mem_of_mem_head? first)).1
      exact absurd (List.mem_filterMap.2 ⟨x, member, named⟩) free
    · have bound := left.assigned n hn
      have other : n ≠ q := fun same => free (same ▸ hn)
      exact Nat.le_sub_one_of_lt (Nat.lt_of_le_of_ne bound other)

/-- A record joins the tail without a number. -/
theorem Numbered.append (h : Numbered latest last busy l) (kind : RecordKind) (start : Nat) (body : List Byte) :
    Numbered latest last busy (l ++ [{ kind := kind, start := start, body := body }]) := by
  let x : OutEntry := { kind := kind, start := start, body := body }
  have tail : archiving (l ++ [x]) = archiving l ++ [x] := by simp [archiving, x]
  have first {y : OutEntry} (hy : (archiving (l ++ [x])).head? = some y) : (archiving l).head? = some y ∨ y = x := by
    rw [tail, List.head?_append] at hy
    cases oldest : (archiving l).head? <;> simp_all
  refine ⟨h.order, fun y hy => ?_, fun y hy => ?_, fun y hy => ?_, by simpa using h.distinct, by simpa using h.assigned⟩
  · rw [tail, List.drop_append] at hy
    rcases List.mem_append.1 hy with old | new
    · exact h.younger y old
    · obtain rfl : y = x := by simpa using List.mem_of_mem_drop new
      exact ⟨rfl, rfl⟩
  · rcases first hy with oldest | rfl
    · exact h.oldest y oldest
    · simp [x]
  · rcases first hy with oldest | rfl
    · exact h.programming y oldest
    · simp [x]

/-! ## Programs (R157, R158) -/

/-- The oldest entry not yet archived stands behind archived ones alone. -/
theorem archiving_split (before : ∀ x ∈ older, x.state = .waitingPublish) (e : OutEntry) (younger : List OutEntry) :
    archiving (older ++ e :: younger) = archiving [e] ++ archiving younger := by
  have none : older.filter (fun e => e.state != .waitingPublish) = [] :=
    List.filter_eq_nil_iff.2 fun x hx => by simp [before x hx]
  rw [archiving, List.filter_append, none, List.nil_append, ← List.singleton_append, List.filter_append]
  rfl

/-- Its numbers may be changed for it alone: `e'` stands in its place, and only archived entries before it. -/
theorem Numbered.replaceOldest {latest' last' : Nat} {busy' : Prop} {e' : OutEntry}
    (h : Numbered latest last busy (older ++ e :: younger)) (before : ∀ x ∈ older, x.state = .waitingPublish)
    (state : e.state ≠ .waitingPublish) (order : latest' ≤ last') (more : last ≤ last')
    (number : ∀ q, e'.seq = some q → (e.seq = some q ∨ last < q) ∧ q ≤ last')
    (unarchived : e'.state ≠ .waitingPublish → (∀ q, e'.seq = some q → q = last' ∧ latest' < q)
      ∧ (e'.state = .programming → e'.seq.isSome = true ∧ busy')) :
    Numbered latest' last' busy' (older ++ e' :: younger) := by
  have rest : ∀ x ∈ archiving younger, x.seq = none ∧ x.state = .waitingArchive := fun x hx =>
    h.younger x (by rw [archiving_split before]; simp [archiving, state]; simpa [archiving] using hx)
  have perm := numbers_perm older e younger
  have perm' := numbers_perm older e' younger
  have distinct := perm.nodup_iff.1 h.distinct
  have bound : ∀ q ∈ (older ++ younger).filterMap (·.seq), q ≤ last := fun q hq =>
    h.assigned q (perm.mem_iff.2 (List.mem_append_right _ hq))
  have first {x : OutEntry} (hx : (archiving (older ++ e' :: younger)).head? = some x) :
      x.seq = none ∧ x.state = .waitingArchive ∨ x = e' ∧ e'.state ≠ .waitingPublish := by
    rw [archiving_split before] at hx
    by_cases state' : e'.state = .waitingPublish
    · exact .inl (rest x (List.mem_of_mem_head? (by simpa [archiving, state'] using hx)))
    · obtain rfl : e' = x := by simpa [archiving, state'] using hx
      exact .inr ⟨rfl, state'⟩
  refine ⟨order, fun x hx => rest x ?_, fun x hx => ?_, fun x hx => ?_, perm'.nodup_iff.2 ?_, fun q hq => ?_⟩
  · rw [archiving_split before] at hx
    by_cases state' : e'.state = .waitingPublish
    · exact List.mem_of_mem_tail (by simpa [archiving, state'] using hx)
    · simpa [archiving, state'] using hx
  · rcases first hx with ⟨none, -⟩ | ⟨rfl, state'⟩
    · simp [none]
    · exact (unarchived state').1
  · rcases first hx with ⟨-, waits⟩ | ⟨rfl, state'⟩
    · simp [waits]
    · exact (unarchived state').2
  · cases named : e'.seq with
    | none => exact distinct.of_append_right
    | some q =>
      refine List.nodup_cons.2 ⟨fun twice => ?_, distinct.of_append_right⟩
      rcases (number q named).1 with same | above
      · rw [same] at distinct
        exact (List.nodup_cons.1 distinct).1 twice
      · exact absurd (bound q twice) (by omega)
  · rcases List.mem_append.1 (perm'.mem_iff.1 hq) with own | other
    · exact (number q (by simpa using own)).2
    · exact (bound q other).trans more

/-- The program of the oldest entry that waits starts: it takes the next number, unless it has one (R157). -/
theorem Numbered.start (h : Numbered latest last busy (older ++ e :: younger)) (idle : ¬ busy)
    (state : e.state = .waitingArchive) (none : ∀ x ∈ older, x.state ≠ .waitingArchive) (busy' : Prop) (flies : busy') :
    Numbered latest (if e.seq.isSome then last else e.seq.getD (last + 1)) busy'
      (older ++ { e with state := .programming, seq := some (e.seq.getD (last + 1)) } :: younger) := by
  have before : ∀ x ∈ older, x.state = .waitingPublish := fun x hx => by
    have waits := none x hx
    have programs := h.none_programming idle (e := x) (by simp [hx])
    cases at_ : x.state <;> simp_all
  have order := h.order
  cases number : e.seq with
  | none =>
    refine h.replaceOldest before (by simp [state]) (by simp; omega) (by simp) (fun q hq => ?_) fun _ => ⟨fun q hq => ?_, ?_⟩
    · obtain rfl : last + 1 = q := by simpa using hq
      exact ⟨.inr (by omega), by simp⟩
    · obtain rfl : last + 1 = q := by simpa using hq
      exact ⟨by simp, by omega⟩
    · exact fun _ => ⟨rfl, flies⟩
  | some n =>
    obtain ⟨rfl, above⟩ := h.number_of_unarchived (by simp) (by simp [state]) number
    refine h.replaceOldest before (by simp [state]) order (le_refl _) (fun q hq => ?_) fun _ => ⟨fun q hq => ?_, ?_⟩
    · obtain rfl : n = q := by simpa using hq
      exact ⟨.inl number, le_refl _⟩
    · obtain rfl : n = q := by simpa using hq
      exact ⟨rfl, above⟩
    · exact fun _ => ⟨rfl, flies⟩

/-- The first entry in PROGRAMMING has only archived ones before it. -/
theorem Numbered.before_programming (h : Numbered latest last busy (older ++ e :: younger)) (state : e.state = .programming) :
    ∀ x ∈ older, x.state = .waitingPublish := by
  cases waiting : archiving older with
  | nil => exact fun x hx => by simpa using List.filter_eq_nil_iff.1 waiting x hx
  | cons y r =>
    have later : e ∈ (archiving (older ++ e :: younger)).drop 1 := by
      simp only [archiving, List.filter_append] at waiting ⊢
      simp [waiting, state]
    have := (h.younger e later).2
    simp [state] at this

/-- The program has ended good: the record's number, the last assigned one, is now the latest archived (R158). -/
theorem Numbered.archived (h : Numbered latest last busy (older ++ e :: younger)) (state : e.state = .programming)
    (placed : Bool) (busy' : Prop) : latest ≤ e.seq.getD 0 ∧ Numbered (e.seq.getD 0) last busy'
      (older ++ { e with state := .waitingPublish, placed := placed } :: younger) := by
  have before := h.before_programming state
  have first : (archiving (older ++ e :: younger)).head? = some e := by
    rw [archiving_split before]
    simp [archiving, state]
  obtain ⟨q, number⟩ := Option.isSome_iff_exists.1 (h.programming e first state).1
  obtain ⟨rfl, above⟩ := h.oldest e first q number
  rw [number]
  exact ⟨above.le, h.replaceOldest before (by simp [state]) (le_refl _) (le_refl _)
    (fun n hn => ⟨.inl (number.trans hn), by simp_all⟩) fun other => absurd rfl other⟩

/-- The program has failed: the entry waits again with its number (R158). -/
theorem Numbered.failed (h : Numbered latest last busy (older ++ e :: younger)) (state : e.state = .programming)
    (placed : Bool) (busy' : Prop) : Numbered latest last busy'
      (older ++ { e with state := .waitingArchive, placed := placed } :: younger) := by
  have number {q : Nat} (hq : e.seq = some q) := h.number_of_unarchived (by simp) (by simp [state]) hq
  refine h.replaceOldest (h.before_programming state) (by simp [state]) h.order (le_refl _)
    (fun q hq => ⟨.inl hq, (number hq).1.le⟩) fun _ => ⟨fun q hq => number hq, ?_⟩
  simp

end

end Sys2Proof.Machine
end

section
/-! What a command does to sequence numbers and staged records (R136 to R138, R148, R156 to R158), act by act. -/

namespace Sys2Proof.Machine

/-! ## The acts -/

/-- What the staging pool's account reads of an origin: its place, its held mark and its staged records (R135, R136). -/
def Origin.share (o : Origin) : Nat × Nat × List Staged := (o.place, o.held, o.staged)

/-- An act that keeps the sequence numbers, and of every origin its held mark and its staged records. An own program goes
on, and COMMISSION is not entered. -/
structure Kept (s t : State) : Prop where
  secured : t.wit.secured = s.wit.secured
  latest : t.arch.latest = s.arch.latest
  lastAssigned : t.arch.lastAssigned = s.arch.lastAssigned
  outbound : t.arch.outbound.map OutEntry.standing = s.arch.outbound.map OutEntry.standing
  op : t.arch.op = s.arch.op ∨ s.arch.op ≠ .programming .own ∨ s.supply.station = some .commission
  reserved : t.cfg.reserved = s.cfg.reserved
  shares : (s.wit.origins.map (·.place)).Nodup → t.wit.origins.map Origin.share = s.wit.origins.map Origin.share
  commission : t.supply.station = some .commission → s.supply.station = some .commission

/-- How the copy of an origin's records changes: a record of the expected number is staged in a slot that is lent for it, the
head staged record is held, or the staged records are dropped (R136 to R139). -/
inductive Restaged (s : State) (o o' : Origin) : Prop where
  | accepted (r : Rec) (p : Pool) (lent : poolFor s o = some p) (next : r.seq = o.expected) (held : o'.held = o.held)
      (staged : o'.staged = o.staged ++ [⟨r, p⟩])
  | programmed (x : Staged) (staged : o.staged = x :: o'.staged) (held : o'.held = x.record.seq)
  | dropped (staged : o'.staged = [])

/-- The acts that move sequence numbers and staged records. -/
inductive Acts : State → State → Prop where
  | kept {s t : State} (h : Kept s t) : Acts s t
  | trans {s t u : State} (h : Acts s t) (k : Acts t u) : Acts s u
  | appended (kind : RecordKind) (start : Nat) (body : List Byte) {s : State}
      (on : s.supply.station ≠ some .commission) : Acts s (appendRecord kind start body s)
  | released (q : Nat) (s : State) : Acts s (releaseSent q s)
  | secured (s : State) : Acts s (updateSecured s)
  | started {s : State} (idle : s.arch.op = .idle) : Acts s (startOperation s)
  | programmed (good : Bool) (s : State) : Acts s (ownProgramEnd good s)
  | restaged {s : State} {o o' : Origin} (ho : o ∈ s.wit.origins) (place : o'.place = o.place) (h : Restaged s o o') :
      Acts s (setOrigin o' s)

theorem Acts.refl (s : State) : Acts s s := .kept (by constructor <;> simp)

/-! ## GAPs, floor jumps and flash-idle events -/

theorem GapsFormed.shares {s t : State} (h : GapsFormed s t) (distinct : (s.wit.origins.map (·.place)).Nodup) :
    t.wit.origins.map Origin.share = s.wit.origins.map Origin.share := by
  have same := congrArg (List.map Origin.share) (h.others distinct)
  rwa [List.map_map, List.map_map] at same

theorem testGaps_acts (s : State) : Acts s (testGaps s) := by
  refine .kept ?_
  constructor
  case shares => exact (testGaps_formed s).shares
  all_goals simp

/-- An origin's state is replaced by one with the same held mark and staged records. -/
theorem setOrigin_acts {s : State} {o o' : Origin} (ho : o ∈ s.wit.origins) (same : o'.share = o.share) :
    Acts s (setOrigin o' s) := by
  refine .kept ?_
  constructor
  case shares =>
    intro distinct
    have place : o'.place = o.place := congrArg Prod.fst same
    refine (List.map_map ..).trans (List.map_congr_left fun x hx => ?_)
    dsimp only [Function.comp]
    split
    · rename_i here
      rw [same, List.inj_on_of_nodup_map distinct hx ho (here.trans place)]
    · rfl
  all_goals simp

theorem floorJump_acts (place : Nat) (s : State) : Acts s (floorJump place s) := by
  unfold floorJump
  split
  · exact .refl s
  · rename_i o ho
    split
    · have counted : Acts s (countUp .skips (o.floor - 1 - o.held) s) := .kept (by constructor <;> simp)
      have member : o ∈ (countUp .skips (o.floor - 1 - o.held) s).wit.origins := by simpa using originAt_mem ho
      have jumped : Acts (countUp .skips (o.floor - 1 - o.held) s) (setOrigin
          { o with held := o.floor - 1, oldest := none, staged := [], gap := none }
          (countUp .skips (o.floor - 1 - o.held) s)) := .restaged member rfl (.dropped rfl)
      exact (counted.trans jumped).trans (.kept (by constructor <;> simp))
    · exact .refl s

theorem reportHeld_acts (o : Origin) (s : State) : Acts s (reportHeld o s) := by
  unfold reportHeld
  split
  · exact floorJump_acts ..
  · exact .kept (by constructor <;> simp)

theorem flashIdle_acts (s : State) : Acts s (flashIdle s) := by
  unfold flashIdle
  split
  · exact .refl s
  · rename_i on
    have served : Acts s (serveReads (readBound s) s) := .kept (by constructor <;> simp)
    dsimp only
    split
    · exact served.trans (.started (by simpa using (not_or.1 on).1))
    · exact served

/-! ## The ends of programs and erases (R158, R163) -/

theorem partProgramEnd_acts (place : Nat) (good : Bool) {s : State} (other : s.arch.op ≠ .programming .own) :
    Acts s (partProgramEnd place good s) := by
  unfold partProgramEnd
  split
  · exact .kept (by constructor <;> simp [other])
  · rename_i o ho
    split
    · exact .kept (by constructor <;> simp [other])
    · rename_i x rest staged
      dsimp only
      have written : Acts s (setOp .idle (ringAfterProgram (.part place) good x.record (programPage
          (pageAddress (.part place) (ringOf s (.part place)).writePos) (pageBytesOf x.record) good s))) :=
        .kept (by constructor <;> simp [other])
      split
      · have held := written.trans (.restaged (o := o) (o' := { o with
            held := x.record.seq, oldest := some (o.oldest.getD x.record.seq), staged := rest })
          (by simpa using originAt_mem ho) rfl (.programmed x staged rfl))
        refine held.trans (.trans (.kept ?_) ((reportHeld_acts _ _).trans (testGaps_acts _)))
        constructor <;> simp
      · exact written.trans (.trans (.kept (by constructor <;> simp)) ((floorJump_acts ..).trans (testGaps_acts _)))

theorem programEnd_acts (good : Bool) (s : State) : Acts s (programEnd good s) := by
  unfold programEnd
  split
  · exact .programmed good s
  · rename_i p flying
    exact partProgramEnd_acts p good (by simp [flying])
  · exact .refl s

theorem raiseOldest_acts (place : Nat) (highest : Option Nat) (s : State) : Acts s (raiseOldest place highest s) := by
  unfold raiseOldest
  split
  · rename_i ho
    split
    · exact setOrigin_acts (originAt_mem ho) rfl
    · exact .refl s
  · exact .refl s

theorem eraseEnd_acts (good : Bool) (s : State) : Acts s (eraseEnd good s) := by
  unfold eraseEnd
  split
  · rename_i a k flying
    unfold areaEraseEnd
    dsimp only
    split
    · have erased : Acts s (setOp .idle (setRing a { setDir (ringOf s a) k {} with
          eraseFails := 0, failTarget := k, broken := none } (eraseSector (sectorAddress a k) s))) :=
        .kept (by constructor <;> simp [flying])
      split
      · exact erased.trans (.kept (by constructor <;> simp))
      · exact erased.trans (raiseOldest_acts ..)
    · split
      · exact .kept (by constructor <;> simp [flying])
      · exact .kept (by constructor <;> simp [flying])
  · exact .refl s

/-! ## Closings and catch-ups (R99, R104, R106) -/

section
variable {s : State} (on : s.supply.station ≠ some .commission)
include on

theorem closeHalfHour_acts (boundary : Nat) : Acts s (closeHalfHour boundary s) := by
  unfold closeHalfHour
  dsimp only
  refine .trans (.kept ?_) (.appended _ _ _ ?_)
  · constructor <;> simp
  · simpa using on

theorem closeDay_acts (boundary : Nat) : Acts s (closeDay boundary s) := by
  have cleared (u : State) : Acts u (u.setAvg (clearDays u.avg)) := .kept (by constructor <;> simp)
  unfold closeDay
  dsimp only
  refine .trans ?_ (cleared _)
  refine .trans (.kept ?_) (.appended _ _ _ ?_)
  · constructor <;> simp
  · simpa using on

theorem appendYearSlots_acts (c : Settings) (year : Nat) (l : List YearRow) :
    Acts s (l.foldl (appendYearSlot c year) s) := by
  induction l generalizing s with
  | nil => exact .refl s
  | cons r l ih => exact .trans (.appended _ _ _ on) (ih (by simpa using on))

theorem closeYear_acts (boundary : Nat) : Acts s (closeYear boundary s) := by
  have records : Acts s (appendYearRecords (yearOf boundary - 1) s) :=
    .trans (.appended _ _ _ on) (appendYearSlots_acts (by simpa using on) ..)
  exact records.trans (.kept (by constructor <;> simp [closeYear, restartYear, witnessYearClose]))

theorem periodStages_acts (boundary : Nat) : Acts s (periodStages boundary s) := by
  have when (c : Prop) [Decidable c] (f : State → State) {u : State} (h : Acts s u) (hf : Acts u (f u)) :
      Acts s (if c then f u else u) := by
    split
    · exact h.trans hf
    · exact h
  unfold periodStages
  dsimp only
  refine when _ (closeYear boundary) (when _ (closeDay boundary) (when _ (closeHalfHour boundary) (.refl s)
    (closeHalfHour_acts on _)) (closeDay_acts ?_ _)) (closeYear_acts ?_ _)
  · split <;> simpa using on
  · (repeat' split) <;> simpa using on

theorem closing_acts (minute : Nat) : Acts s (closing minute s) := by
  refine .trans (.kept ?_) (periodStages_acts ?_ (minute + 60))
  · constructor <;> simp
  · simpa using on

end

theorem endCatchUp_acts (s : State) : Acts s (endCatchUp s) := by
  unfold endCatchUp
  split
  · dsimp only
    split
    · exact .trans (.kept (by constructor <;> simp)) (testGaps_acts _)
    · exact .kept (by constructor <;> simp)
  · exact .refl s

theorem enterCatchUp_acts (s : State) : Acts s (enterCatchUp s) :=
  .trans (.kept (by constructor <;> simp)) (endCatchUp_acts _)

theorem adopt_acts (time : Nat) (s : State) : Acts s (adopt time s) :=
  .trans (.trans (.kept (by constructor <;> simp)) (enterCatchUp_acts _)) (flashIdle_acts _)

/-! ## The commands that are telegrams -/

theorem takeTime_acts (sender : BitVec 5) (seconds : BitVec 32) (ticks : BitVec 16) (reference : Bool) (s : State) :
    Acts s (takeTime sender seconds ticks reference s) := by
  unfold takeTime
  dsimp only
  split
  · exact .refl s
  · split
    · unfold collectTime
      split
      · split
        · exact adopt_acts ..
        · exact .refl s
      · exact .kept (by constructor <;> simp)
      · exact .refl s
    · split
      · refine .kept ?_
        unfold takeOffset
        dsimp only
        constructor <;> (repeat' split) <;> simp
      · exact .refl s

theorem refuseRecord_acts (s : State) : Acts s (refuseRecord s) := by
  have counted : Acts s (countUp .refusals 1 s) := .kept (by constructor <;> simp)
  exact counted.trans (testGaps_acts _)

theorem witnessRecord_acts {s : State} {o : Origin} (ho : o ∈ s.wit.origins) (r : Rec) : Acts s (witnessRecord o r s) := by
  let o1 : Origin := { o with known := max o.known r.seq }
  have followed : Acts s (setOrigin o1 s) := setOrigin_acts ho rfl
  have member : o1 ∈ (setOrigin o1 s).wit.origins := List.mem_map.2 ⟨o, ho, if_pos rfl⟩
  unfold witnessRecord
  dsimp only
  split
  · rename_i next
    unfold expectedRecord
    split
    · rename_i p _ lent
      have place : (endAnswered { o1 with staged := o1.staged ++ [⟨r, p⟩] }).place = o1.place := by rw [endAnswered_eq]
      have staged : Restaged (setOrigin o1 s) o1 (endAnswered { o1 with staged := o1.staged ++ [⟨r, p⟩] }) :=
        .accepted r p lent next (by rw [endAnswered_eq]) (by rw [endAnswered_eq])
      exact (followed.trans (.restaged member place staged)).trans ((testGaps_acts _).trans (flashIdle_acts _))
    · exact followed.trans (refuseRecord_acts _)
  · exact followed.trans (testGaps_acts _)

theorem takeRecord_acts (sender : BitVec 5) (head : RecordHead) (body : List Byte) (s : State) :
    Acts s (takeRecord sender head body s) := by
  unfold takeRecord
  split
  · rename_i ho
    split
    · exact witnessRecord_acts (originOf_mem ho) _
    · exact .refl s
  · exact .refl s

theorem takeMark_acts (sender : BitVec 5) (entries : List MarkEntry) (s : State) : Acts s (takeMark sender entries s) := by
  unfold takeMark
  split
  · split
    · unfold ownMark
      dsimp only
      split
      · exact .trans (.kept (by constructor <;> simp)) (.secured _)
      · exact .kept (by constructor <;> simp)
    · exact .refl s
  · exact .refl s

theorem joinBackfill_acts (r : Backfill) (s : State) : Acts s (joinBackfill r s) := by
  have begun (u : State) : Acts u (startBackfill u) := .kept (by constructor <;> simp)
  have joined : Acts s (s.setWit { s.wit with jobs := s.wit.jobs ++ [r] }) := .kept (by constructor <;> simp)
  unfold joinBackfill
  dsimp only
  split
  · exact joined.trans ((begun _).trans (flashIdle_acts _))
  · exact joined

theorem takeGap_acts (target : BitVec 8) (first : BitVec 32) (count : BitVec 8) (s : State) :
    Acts s (takeGap target first count s) := by
  unfold takeGap
  split
  · split
    · split
      · exact .refl s
      · split
        · exact joinBackfill_acts ..
        · exact .refl s
    · exact .refl s
  · exact .refl s

theorem witnessPresence_acts (sender : BitVec 5) (p : PresencePayload) (s : State) :
    Acts s (witnessPresence sender p s) := by
  unfold witnessPresence
  split
  · rename_i o ho
    split
    · have renewed : Acts s (setOrigin { o with known := p.latest.toNat, floor := p.floor.toNat } s) :=
        setOrigin_acts (originOf_mem ho) rfl
      exact renewed.trans ((floorJump_acts ..).trans ((testGaps_acts _).trans (flashIdle_acts _)))
    · exact .refl s
  · exact .refl s

theorem deliver_acts {f : State → State} {s : State} (hf : Acts s (f s)) (sender : BitVec 5) (permitted : Bool) :
    Acts s (deliver sender permitted f s) := by
  rcases deliver_cases sender permitted f s with ⟨-, e⟩ | ⟨-, -, e⟩ | ⟨-, -, -, e⟩ | ⟨-, -, e⟩ <;> rw [e]
  · exact .refl s
  · exact .kept (by constructor <;> simp)
  · exact .kept (by constructor <;> simp)
  · exact hf

theorem query_acts {act : State → State} {s : State} {taken : Bool} (hf : taken = true → Acts s (act s)) (head : QueryHead)
    (permitted : Bool) : Acts s (query head permitted taken act s) := by
  refine deliver_acts ?_ head.terminal permitted
  split
  · exact .refl s
  · split
    · exact .refl s
    · split
      · exact hf ‹_›
      · exact .kept (by constructor <;> simp)

theorem admitJob_acts (j : Job) (s : State) : Acts s (admitJob j s) := by
  have started (u : State) : Acts u (startJob j u) := .trans (.kept (by constructor <;> simp)) (flashIdle_acts _)
  unfold admitJob
  split
  · exact .kept (by constructor <;> simp)
  · split
    · exact .trans (.kept (by constructor <;> simp)) (started _)
    · split
      · exact .kept (by constructor <;> simp)
      · exact started s

theorem configCommit_acts {s : State} (here : takesConfig s = true) (head : QueryHead) (length check : BitVec 16) :
    Acts s (configCommit head length check s) := by
  have commission : s.supply.station = some .commission := by simpa [takesConfig] using here
  refine .kept ?_
  constructor
  case op => exact .inr (.inr commission)
  all_goals simp

/-- A telegram or a query, whatever its sender. -/
theorem exec_telegram_acts (c : Instr) (s : State) (telegram : c.sender ≠ none) : ∃ t, exec c s = .next t ∧ Acts s t := by
  cases c with
  | receiveReading => exact ⟨_, rfl, deliver_acts (.kept (by constructor <;> simp)) _ _⟩
  | receiveTime => exact ⟨_, rfl, deliver_acts (takeTime_acts ..) _ _⟩
  | receiveRecord => exact ⟨_, rfl, deliver_acts (takeRecord_acts ..) _ _⟩
  | receiveMark => exact ⟨_, rfl, deliver_acts (takeMark_acts ..) _ _⟩
  | receiveGap => exact ⟨_, rfl, deliver_acts (takeGap_acts ..) _ _⟩
  | receivePresence sender p =>
    have heard : Acts s (heardPresence sender s) := .kept (by constructor <;> simp)
    exact ⟨_, rfl, deliver_acts (heard.trans (witnessPresence_acts ..)) _ _⟩
  | read => exact ⟨_, rfl, query_acts (fun _ => admitJob_acts _ s) ..⟩
  | readYear => exact ⟨_, rfl, query_acts (fun _ => admitJob_acts _ s) ..⟩
  | condition => exact ⟨_, rfl, query_acts (fun _ => .kept (by constructor <;> simp)) ..⟩
  | clearAttention => exact ⟨_, rfl, query_acts (fun _ => .kept (by constructor <;> simp)) ..⟩
  | configBlock => exact ⟨_, rfl, query_acts (fun _ => .kept (by constructor <;> simp)) ..⟩
  | configCommit => exact ⟨_, rfl, query_acts (fun here => configCommit_acts here ..) ..⟩
  | _ => exact absurd rfl telegram

end Sys2Proof.Machine
end

section
/-! Every command as acts, COLD_START apart. -/

namespace Sys2Proof.Machine

theorem cutFlash_acts (good : Bool) (s : State) : Acts s (cutFlash good s) := by
  unfold cutFlash
  split
  · exact .refl s
  · exact programEnd_acts good s
  all_goals
    rename_i flying
    exact .kept (by constructor <;> simp [flying])

/-- What a supply failure and RESET do first. -/
theorem lost_acts (good : Bool) (s : State) : Acts s (lost good s) :=
  (cutFlash_acts good s).trans (.kept (by constructor <;> simp [lost]))

theorem transmitted_acts (q : TxQueue) (s : State) : Acts s (transmitted q s) := by
  unfold transmitted
  cases q
  case record =>
    dsimp only
    split
    · split
      · exact .kept (by constructor <;> simp)
      · exact .trans (.kept (by constructor <;> simp)) (.released _ _)
    · exact .refl s
  case gap =>
    dsimp only
    split
    · refine .kept ?_
      constructor
      case shares =>
        refine fun _ => (List.map_map ..).trans (List.map_congr_left fun o _ => ?_)
        dsimp only [Function.comp]
        (repeat' split) <;> rfl
      all_goals simp
    · exact .refl s
  all_goals exact .kept (by constructor <;> simp)

theorem dropAged_acts (s : State) : Acts s (dropAged s) := by
  refine .kept ?_
  constructor
  case shares =>
    refine fun _ => (List.map_map ..).trans (List.map_congr_left fun o _ => ?_)
    dsimp only [Function.comp]
    split <;> rfl
  all_goals simp

theorem warmReturned_acts (s : State) : Acts s (warmReturned s) := by
  have woken : Acts s (dropSilentJobs (warmState s)) := by
    refine .kept ?_
    constructor
    case commission =>
      rw [(dropSilentJobs_frame _).1, warmState_supply]
      split <;> simp
    all_goals simp
  have tested (u : State) : Acts u (retentionTest u) := .kept (by constructor <;> simp)
  exact (woken.trans (dropAged_acts _)).trans ((tested _).trans ((flashIdle_acts _).trans (endCatchUp_acts _)))

theorem afterPlaced_acts (j : Job) (x : Answer) (skip : Bool) (s : State) : Acts s (afterPlaced j x skip s) :=
  .kept (by constructor <;> simp)

/-- A command that takes effect or not. -/
theorem acts_ite {c : Prop} [Decidable c] {s u : State} (h : c → Acts s u) :
    ∃ t, (if c then (.next u : Host.Outcome State Fault Refusal) else .next s) = .next t ∧ Acts s t := by
  split
  · exact ⟨u, rfl, h ‹_›⟩
  · exact ⟨s, rfl, .refl s⟩

/-- Every command but COLD_START is made of these acts. -/
theorem exec_acts (c : Instr) (s : State) (warm : ∀ svc, c ≠ .coldStart svc) : ∃ t, exec c s = .next t ∧ Acts s t := by
  by_cases telegram : c.sender = none
  swap
  · exact exec_telegram_acts c s telegram
  have same : ∃ t, (.next s : Host.Outcome State Fault Refusal) = .next t ∧ Acts s t := ⟨s, rfl, .refl s⟩
  cases c with
  | establishmentWindowEnd =>
    simp only [exec, execEstablishmentWindowEnd]
    split
    · exact acts_ite fun _ => adopt_acts ..
    · exact same
  | receiveError => exact acts_ite fun _ => .kept (by constructor <;> simp)
  | stationClash => exact acts_ite fun _ => .kept (by constructor <;> simp)
  | commitFlashComplete good =>
    simp only [exec, execCommitFlashComplete]
    split
    · rename_i flying
      refine ⟨_, rfl, .kept ?_⟩
      constructor <;> split <;> simp [flying]
    · rename_i flying
      refine ⟨_, rfl, .kept ?_⟩
      constructor <;> (repeat' split) <;> simp [flying]
    · exact same
  | busIdle => exact acts_ite fun _ => .kept (by constructor <;> simp)
  | arbitrationLost =>
    simp only [exec, execArbitrationLost]
    split
    · exact ⟨_, rfl, .kept (by constructor <;> simp)⟩
    · exact same
  | transmitComplete =>
    simp only [exec, execTransmitComplete]
    split
    · have ended : Acts s (lineFreed s) := .kept (by constructor <;> simp [lineFreed])
      exact ⟨_, rfl, ended.trans (transmitted_acts ..)⟩
    · exact same
  | transmitError =>
    simp only [exec, execTransmitError]
    split
    · refine ⟨_, rfl, .kept ?_⟩
      constructor <;> split <;> simp
    · exact same
  | silentEnd => exact acts_ite fun _ => .kept (by constructor <;> simp)
  | timeSend => exact acts_ite fun _ => .kept (by constructor <;> simp)
  | presenceSend =>
    simp only [exec, execPresenceSend]
    split
    · exact acts_ite fun _ => .kept (by constructor <;> simp)
    · exact same
  | agreementRound => exact acts_ite fun _ => .kept (by constructor <;> simp)
  | minuteBoundary =>
    simp only [exec, execMinuteBoundary]
    split
    · exact same
    · refine acts_ite fun ⟨here, _⟩ => ((closing_acts ?_ _).trans (flashIdle_acts _)).trans (endCatchUp_acts _)
      intro commission
      simp [running, commission] at here
  | programComplete good =>
    simp only [exec, execProgramComplete]
    split
    · exact ⟨_, rfl, (programEnd_acts good s).trans (flashIdle_acts _)⟩
    · exact same
  | eraseComplete good =>
    simp only [exec, execEraseComplete]
    split
    · exact ⟨_, rfl, (eraseEnd_acts good s).trans (flashIdle_acts _)⟩
    · exact same
  | recordRelease =>
    simp only [exec, execRecordRelease]
    split
    · exact same
    · refine acts_ite fun _ => .kept ?_
      constructor
      case outbound =>
        simpa [placeRelease] using modifyFirst_map unplaced (fun x => { x with placed := true }) OutEntry.standing
          (fun _ => rfl) s.arch.outbound
      all_goals simp
  | backfillPlace =>
    simp only [exec, execBackfillPlace]
    split
    · have placed (r : Rec) : Acts s (advanceBackfill (s.setPort { s.port with recordQ := s.port.recordQ ++ [⟨r, true⟩] })) :=
        .kept (by constructor <;> simp)
      exact acts_ite fun _ => (placed _).trans (flashIdle_acts _)
    · exact same
  | gapPlace =>
    simp only [exec, execGapPlace]
    split
    · rename_i o ho
      split
      · have placed (g : Gap) : Acts s (placeGap o g s) := by
          have queued : Acts s (setOrigin { o with gap := some { g with phase := .queued } } s) :=
            setOrigin_acts (originOf_mem ho) rfl
          exact queued.trans (.kept (by constructor <;> simp [placeGap]))
        exact acts_ite fun _ => placed _
      · exact same
    · exact same
  | pendingAnswerPlace =>
    simp only [exec, execPendingAnswerPlace]
    split
    · exact same
    · exact acts_ite fun _ => .kept (by constructor <;> simp)
  | jobAnswerPlace =>
    simp only [exec, execJobAnswerPlace]
    split
    · exact same
    · split
      · have placed (t : AnswerTel) : Acts s (placeAnswer t s) := .kept (by constructor <;> simp)
        exact acts_ite fun _ => ((placed _).trans (afterPlaced_acts ..)).trans (flashIdle_acts _)
      · exact same
  | gapExpiry =>
    simp only [exec, execGapExpiry]
    split
    · rename_i o ho
      have ended : Acts s (setOrigin { o with gap := none } s) := setOrigin_acts (originOf_mem ho) rfl
      exact acts_ite fun _ => ended.trans (testGaps_acts _)
    · exact same
  | markEntryExpiry =>
    simp only [exec, execMarkEntryExpiry]
    split
    · exact same
    · exact ⟨_, rfl, .kept (by constructor <;> simp)⟩
  | witnessLagHoldoffEnd => exact acts_ite fun _ => .kept (by constructor <;> simp)
  | jobSilenceExpiry =>
    simp only [exec, execJobSilenceExpiry]
    split
    · exact same
    · exact acts_ite fun _ => .kept (by constructor <;> simp)
  | supplyFail good =>
    simp only [exec, execSupplyFail]
    split
    · exact same
    · exact same
    · exact ⟨_, rfl, (lost_acts good s).trans (.kept (by constructor <;> simp [lost, enterHold]))⟩
  | supplySenseRise =>
    simp only [exec, execSupplySenseRise]
    split
    · exact same
    · exact ⟨_, rfl, .kept (by constructor <;> simp)⟩
  | supplySenseBounce => exact acts_ite fun _ => .kept (by constructor <;> simp)
  | supplyReturn =>
    simp only [exec, execSupplyReturn]
    split
    · split
      · exact ⟨_, rfl, warmReturned_acts s⟩
      · exact ⟨_, rfl, .kept (by constructor <;> simp)⟩
    · exact same
  | resetAssert good =>
    simp only [exec, execResetAssert]
    split
    · exact same
    · exact ⟨_, rfl, (lost_acts good s).trans (.kept (by constructor <;> simp [lost]))⟩
  | resetRelease => exact acts_ite fun _ => .kept (by constructor <;> simp)
  | coldStart svc => exact absurd rfl (warm svc)
  | backupCellRanOut => exact acts_ite fun _ => .kept (by constructor <;> simp)
  | _ => exact absurd telegram (by simp [Instr.sender])

theorem tick_acts (s : State) : Acts s (tick s) := .kept (by constructor <;> simp)

end Sys2Proof.Machine
end

section
/-! O31, SecuredMarkNeverDecreasesBetweenColdStarts, and O43, EveryStepKeepsTheSequenceOrder. -/

namespace Sys2Proof.Machine

/-! ## The secured mark (R148) -/

theorem le_securedAfter (k latest secured : Nat) (marks : List Nat) : secured ≤ securedAfter k latest secured marks := by
  unfold securedAfter
  split
  · exact le_refl _
  · split
    · exact le_max_left ..
    · exact le_refl _

theorem securedAfter_le {k latest secured : Nat} (h : secured ≤ latest) (marks : List Nat) :
    securedAfter k latest secured marks ≤ latest := by
  unfold securedAfter
  split
  · exact h
  · split
    · exact max_le h (min_le_right ..)
    · exact h

theorem updateSecured_secured (s : State) : (updateSecured s).wit.secured
    = securedAfter s.cfg.quorum s.arch.latest s.wit.secured (s.wit.marks.map (·.mark)) := by simp [updateSecured]

theorem Acts.secured_le {s t : State} (h : Acts s t) : s.wit.secured ≤ t.wit.secured := by
  induction h with
  | kept k => exact k.secured.ge
  | trans _ _ before after => exact before.trans after
  | secured s => rw [updateSecured_secured]; exact le_securedAfter ..
  | appended | released | started | programmed | restaged => simp [releaseSent]

/-- Settles O31: a report alone moves the mark, to the greater of its value and another. -/
theorem securedMarkNeverDecreasesBetweenColdStarts : Obligations.SecuredMarkNeverDecreasesBetweenColdStarts := by
  intro c s t warm answer
  obtain ⟨u, runs, acts⟩ := exec_acts c s warm
  obtain rfl : u = t := Host.Outcome.next.inj (runs.symm.trans answer)
  exact acts.secured_le

/-! ## What each act leaves of the order of numbers -/

/-- Where the entry that a search finds stands in the queue. -/
theorem find_split_at {α : Type} {p : α → Bool} {l : List α} {x : α} (h : l.find? p = some x) :
    ∃ older younger, l = older ++ x :: younger ∧ p x = true ∧ ∀ y ∈ older, p y = false := by
  obtain ⟨this, older, younger, split, before⟩ := List.find?_eq_some_iff_append.1 h
  exact ⟨older, younger, split, this, fun y hy => by simpa using before y hy⟩

section
variable {s : State} (h : OutboundNumbered s)
include h

/-- The order is told from the numbers and states of the entries and the two last numbers, and from the own program while
one is in flight. -/
theorem OutboundNumbered.congr {t : State} (latest : t.arch.latest = s.arch.latest)
    (last : t.arch.lastAssigned = s.arch.lastAssigned)
    (outbound : t.arch.outbound.map OutEntry.standing = s.arch.outbound.map OutEntry.standing)
    (op : t.arch.op = s.arch.op ∨ s.arch.op ≠ .programming .own) : OutboundNumbered t := by
  rw [OutboundNumbered, latest, last]
  refine (Numbered.congr h outbound).mono fun own => ?_
  rcases op with same | other
  · rwa [same]
  · exact absurd own other

theorem OutboundNumbered.makeRoom : OutboundNumbered (makeRoom s) := by
  unfold Machine.makeRoom
  split
  · have left := h.sublist (removeFirst_sublist (removablePublish s) s.arch.outbound)
    dsimp only
    split <;> simpa [OutboundNumbered] using left
  · split
    · rename_i e found
      obtain ⟨older, younger, split, this, before⟩ := find_split_at found
      rw [OutboundNumbered, split] at h
      have left := h.withoutWaiting (by simpa using this)
      simpa [OutboundNumbered, split, removeFirst_split _ older younger e this before] using left
    · exact h

theorem OutboundNumbered.appendRecord (kind : RecordKind) (start : Nat) (body : List Byte) :
    OutboundNumbered (appendRecord kind start body s) := by
  unfold Machine.appendRecord
  dsimp only
  split
  · exact h.makeRoom.append ..
  · exact Numbered.append h ..

theorem OutboundNumbered.releaseSent (q : Nat) : OutboundNumbered (releaseSent q s) :=
  h.sublist (removeFirst_sublist ..)

theorem OutboundNumbered.startOwnProgram (idle : s.arch.op = .idle) : OutboundNumbered (startOwnProgram s) := by
  unfold Machine.startOwnProgram
  split
  · exact h
  · rename_i e found
    obtain ⟨older, younger, split, this, before⟩ := find_split_at found
    rw [OutboundNumbered, split] at h
    have started := h.start (by simp [idle]) (by simpa using this) (fun x hx => by simpa using before x hx) True trivial
    simpa [OutboundNumbered, split, modifyFirst_split _ _ older younger e this before] using started

theorem OutboundNumbered.startWitnessWork (idle : s.arch.op = .idle) : OutboundNumbered (startWitnessWork s) :=
  h.congr (by simp) (by simp) (by simp) (.inr (by simp [idle]))

theorem OutboundNumbered.startByOrder (idle : s.arch.op = .idle) : OutboundNumbered (startByOrder s) := by
  unfold Machine.startByOrder
  split
  · exact h
  · split
    · split
      · exact h.startWitnessWork idle
      · exact h.congr (by simp) (by simp) (by simp) (.inr (by simp [idle]))
    · split
      · exact h.startOwnProgram idle
      · exact h.startWitnessWork idle
    · exact h.startWitnessWork idle

theorem OutboundNumbered.startOperation (idle : s.arch.op = .idle) : OutboundNumbered (startOperation s) := by
  unfold Machine.startOperation
  split
  · exact h.startByOrder idle
  · have noted : OutboundNumbered (s.setArch { s.arch with abandoned := none }) := h
    dsimp only
    split
    · exact h.congr (by simp) (by simp) (by simp) (.inr (by simp [idle]))
    · exact noted.startByOrder idle

/-- The latest archived number does not fall at the end of an own program. -/
theorem OutboundNumbered.ownProgramEnd (good : Bool) :
    s.arch.latest ≤ (ownProgramEnd good s).arch.latest ∧ OutboundNumbered (ownProgramEnd good s) := by
  unfold Machine.ownProgramEnd
  split
  · rename_i none
    exact ⟨le_refl _, Numbered.idle h (fun x hx => by simpa using List.find?_eq_none.1 none x hx) _⟩
  · rename_i e found
    obtain ⟨older, younger, split, this, before⟩ := find_split_at found
    have state : e.state = .programming := by simpa using this
    rw [OutboundNumbered, split] at h
    have changed (f : OutEntry → OutEntry) := modifyFirst_split _ f older younger e this before
    dsimp only
    split
    · obtain ⟨above, archived⟩ := h.archived state false False
      simpa [OutboundNumbered, OutEntry.toRec, split, changed] using ⟨above, archived⟩
    · have failed := h.failed state false False
      simpa [OutboundNumbered, split, changed] using failed

end

/-! ## Every act keeps the order -/

theorem SequenceOrder.kept {s t : State} (h : SequenceOrder s) (k : Kept s t) : SequenceOrder t := by
  obtain ⟨secured, numbered, commission⟩ := (sequenceOrder_iff s).1 h
  refine (sequenceOrder_iff t).2 ⟨by rw [k.secured, k.latest]; exact secured, ?_, fun here => ?_⟩
  · rcases k.op with same | other | here
    · exact numbered.congr k.latest k.lastAssigned k.outbound (.inl same)
    · exact numbered.congr k.latest k.lastAssigned k.outbound (.inr other)
    · have none : t.arch.outbound = [] := by simpa [commission here] using k.outbound
      rw [OutboundNumbered, none, k.latest, k.lastAssigned]
      exact .nil numbered.order
  · simpa [commission (k.commission here)] using k.outbound

theorem Acts.sequenceOrder {s t : State} (h : Acts s t) : SequenceOrder s → SequenceOrder t := by
  induction h with
  | kept k => exact fun o => o.kept k
  | trans _ _ before after => exact fun o => after (before o)
  | @appended kind start body s on =>
    simp only [sequenceOrder_iff]
    rintro ⟨secured, numbered, -⟩
    exact ⟨by simpa using secured, numbered.appendRecord .., fun here => absurd (by simpa using here) on⟩
  | released q s =>
    simp only [sequenceOrder_iff]
    rintro ⟨secured, numbered, commission⟩
    exact ⟨secured, numbered.releaseSent q, fun here => by simp [releaseSent, commission here, removeFirst]⟩
  | secured s =>
    simp only [sequenceOrder_iff]
    rintro ⟨secured, numbered, commission⟩
    refine ⟨?_, numbered.congr (by simp) (by simp) (by simp) (by simp), by simpa using commission⟩
    rw [updateSecured_secured]
    simpa using securedAfter_le secured _
  | @started s idle =>
    simp only [sequenceOrder_iff]
    rintro ⟨secured, numbered, commission⟩
    exact ⟨by simpa using secured, numbered.startOperation idle, fun here => by
      simpa [commission (by simpa using here)] using startOperation_contents s⟩
  | programmed good s =>
    simp only [sequenceOrder_iff]
    rintro ⟨secured, numbered, commission⟩
    obtain ⟨above, numbered⟩ := numbered.ownProgramEnd good
    refine ⟨le_trans (by simpa using secured) above, numbered, fun here => ?_⟩
    have none := commission (by simpa using here)
    simp [ownProgramEnd, none]
  | @restaged s o o' ho place _ =>
    simp only [sequenceOrder_iff]
    rintro ⟨secured, numbered, commission⟩
    exact ⟨by simpa using secured, numbered.congr (by simp) (by simp) (by simp) (by simp), by simpa using commission⟩

/-! ## The cold start (R157, R165, R179) -/

/-- SCAN finds no number archived above the last assigned one. -/
theorem scanLatest_le (s : State) : scanLatest s ≤ scanLastAssigned s := by
  unfold scanLatest scanLastAssigned
  split <;> simp

theorem Numbered.of_waiting {latest last : Nat} {busy : Prop} {l : List OutEntry} (order : latest ≤ last)
    (waiting : ∀ e ∈ l, e.state = .waitingArchive ∧ e.seq = none) : Numbered latest last busy l := by
  have first {e : OutEntry} (he : (archiving l).head? = some e) :=
    waiting e (mem_archiving.1 (List.mem_of_mem_head? he)).1
  have none : l.filterMap (·.seq) = [] := List.filterMap_eq_nil_iff.2 fun e he => (waiting e he).2
  refine ⟨order, fun e he => ?_, fun e he => ?_, fun e he => ?_, by simp [none], by simp [none]⟩
  · exact (waiting e (mem_archiving.1 (List.mem_of_mem_drop he)).1).symm
  · simp [(first he).2]
  · simp [(first he).1]

/-- At the end of SCAN nothing is secured, and the records queued wait without numbers. -/
theorem scanLeft_order (s : State) : SequenceOrder (scanLeft s) := by
  have arch := scanLeft_arch s
  have wit : (scanLeft s).wit = (scanEnded s).wit := by rw [(scanLeft_cold s).1]; rfl
  have secured : (scanLeft s).wit.secured = 0 := by rw [wit, scanEnded_wit]
  have station : (scanLeft s).supply.station ≠ some .commission := by
    obtain ⟨-, -, station, -⟩ := scanLeft_cold s
    rcases station with unset | catchUp | recording
    · simp [unset]
    · simp [catchUp]
    · simp [recording]
  refine (sequenceOrder_iff _).2 ⟨secured ▸ Nat.zero_le _, ?_, fun here => absurd here station⟩
  rw [OutboundNumbered, arch]
  exact .of_waiting (scanLatest_le _) (recordsScanned_appended s).waiting

theorem coldStart_order (svc : Bool) (s : State) : SequenceOrder (coldStart svc s) := by
  have started {t : State} (unnumbered : t.wit.secured = 0) (none : t.arch.outbound = [])
      (latest : t.arch.latest ≤ t.arch.lastAssigned) : SequenceOrder t :=
    (sequenceOrder_iff _).2 ⟨unnumbered ▸ Nat.zero_le _, by rw [OutboundNumbered, none]; exact .nil latest, fun _ => none⟩
  cases svc with
  | true =>
    rw [coldStart_commission]
    exact started rfl rfl (le_refl _)
  | false =>
    cases valid : imageValid (storedImage s) with
    | true =>
      rw [coldStart_recording valid]
      exact (flashIdle_acts _).sequenceOrder (scanLeft_order s)
    | false =>
      rw [coldStart_unconfigured valid]
      exact started rfl rfl (le_refl _)

/-! ## Every step -/

/-- What every act of a step keeps and every cold start restores, each step keeps. -/
theorem step_keeps {p : State → Prop} {s t : State} (acts : ∀ {u : State}, Acts s u → p u) (cold : ∀ svc u, p (coldStart svc u))
    (h : step s = .next t) : p t := by
  unfold step at h
  split at h
  · rename_i c rest _
    have next : Acts s (s.setPending rest) := .kept (by constructor <;> simp)
    by_cases warm : ∀ svc, c ≠ .coldStart svc
    · obtain ⟨u, runs, changed⟩ := exec_acts c (s.setPending rest) warm
      obtain rfl : u = t := Host.Outcome.next.inj (runs.symm.trans h)
      exact acts (next.trans changed)
    · push Not at warm
      obtain ⟨svc, rfl⟩ := warm
      rw [exec, execColdStart] at h
      split at h
      · obtain rfl := Host.Outcome.next.inj h
        exact cold svc _
      · obtain rfl := Host.Outcome.next.inj h
        exact acts next
  · obtain rfl := Host.Outcome.next.inj h
    exact acts (tick_acts s)

/-- Settles O43: every act keeps the order, and a cold start begins it anew. -/
theorem everyStepKeepsTheSequenceOrder : Obligations.EveryStepKeepsTheSequenceOrder := fun _ _ order stepped =>
  step_keeps (fun acts => acts.sequenceOrder order) coldStart_order stepped

end Sys2Proof.Machine
end

section
/-! O44, EveryStepKeepsTheStagingPool: what each act leaves of the staging pool's account (R135 to R137). -/

namespace Sys2Proof.Machine

/-! ## What the account reads -/

/-- The slots of a kind that a list of staged records uses. -/
theorem using_of_staged {o o' : Origin} (staged : o'.staged = o.staged) (p : Pool) : o'.using p = o.using p := by
  rw [Origin.using, Origin.using, staged]

section
variable {s : State} (h : StagingAccounted s)
include h

theorem StagingAccounted.congr {t : State} (shares : t.wit.origins.map Origin.share = s.wit.origins.map Origin.share)
    (reserved : t.cfg.reserved = s.cfg.reserved) : StagingAccounted t := by
  have mapped {α : Type} (f : Nat × Nat × List Staged → α) :
      t.wit.origins.map (fun o => f o.share) = s.wit.origins.map (fun o => f o.share) := by
    simpa [List.map_map, Function.comp_def] using congrArg (List.map f) shares
  have length : t.wit.origins.length = s.wit.origins.length := by simpa using congrArg List.length shares
  have same {o : Origin} (ho : o ∈ t.wit.origins) : ∃ x ∈ s.wit.origins, x.share = o.share :=
    List.mem_map.1 (shares ▸ List.mem_map_of_mem ho)
  have places : t.wit.origins.map (·.place) = s.wit.origins.map (·.place) := mapped (fun x => x.1)
  have used : t.wit.origins.map (fun o => o.using .shared) = s.wit.origins.map (fun o => o.using .shared) :=
    mapped (fun x => x.2.2.countP (fun r : Staged => r.pool == .shared))
  refine ⟨places ▸ h.partitions, fun o ho => ?_, by rw [length, reserved]; exact h.reservations, fun o ho => ?_,
    by rw [used, length, reserved]; exact h.shared, fun o ho => ?_⟩
  all_goals
    obtain ⟨x, hx, share⟩ := same ho
    obtain ⟨place, held, staged⟩ : x.place = o.place ∧ x.held = o.held ∧ x.staged = o.staged := by
      simpa [Origin.share] using share
  · exact place ▸ h.places x hx
  · rw [reserved, using_of_staged staged.symm]
    exact h.reserved x hx
  · rw [← staged, ← held]
    exact h.consecutive x hx

/-- One origin is replaced: it must itself be within its reservation, borrow within the shared pool, and have its staged
records in order. -/
theorem StagingAccounted.setOrigin {o o' : Origin} (ho : o ∈ s.wit.origins) (place : o'.place = o.place)
    (reserved : o'.using .reserved ≤ s.cfg.reserved)
    (shared : o'.using .shared ≤ o.using .shared ∨ o'.using .shared = o.using .shared + 1 ∧ 0 < freeShared s)
    (consecutive : o'.staged.map (·.record.seq) = List.range' (o'.held + 1) o'.staged.length) :
    StagingAccounted (setOrigin o' s) := by
  have length : (Machine.setOrigin o' s).wit.origins.length = s.wit.origins.length := by simp [Machine.setOrigin]
  have cfg : (Machine.setOrigin o' s).cfg = s.cfg := rfl
  have member {x : Origin} (hx : x ∈ (Machine.setOrigin o' s).wit.origins) : x = o' ∨ x ∈ s.wit.origins := by
    obtain ⟨y, hy, rfl⟩ := List.mem_map.1 hx
    split
    · exact .inl rfl
    · exact .inr hy
  have sum := sum_setOrigin (fun o => o.using .shared) place ho h.partitions
  refine ⟨setOrigin_places o' s ▸ h.partitions, fun x hx => ?_, by rw [length, cfg]; exact h.reservations, fun x hx => ?_,
    ?_, fun x hx => ?_⟩
  · rcases member hx with rfl | old
    · exact place ▸ h.places o ho
    · exact h.places x old
  · rcases member hx with rfl | old
    · exact reserved
    · exact h.reserved x old
  · have within := h.shared
    rw [length, cfg]
    simp only [freeShared, Config.stagingMax] at shared
    simp only [Machine.setOrigin, State.setWit_wit] at sum ⊢
    omega
  · rcases member hx with rfl | old
    · exact consecutive
    · exact h.consecutive x old

/-! ## The three changes of a copy -/

/-- A record is staged in a slot that the pool lends: a shared one while one is free, else one of the origin's own (R136). -/
theorem StagingAccounted.accepted {o o' : Origin} {r : Rec} {p : Pool} (ho : o ∈ s.wit.origins) (place : o'.place = o.place)
    (lent : poolFor s o = some p) (next : r.seq = o.expected) (held : o'.held = o.held)
    (staged : o'.staged = o.staged ++ [⟨r, p⟩]) : StagingAccounted (Machine.setOrigin o' s) := by
  have used (q : Pool) : o'.using q = o.using q + if p = q then 1 else 0 := by
    by_cases same : p = q <;> simp [Origin.using, staged, same]
  have free : p = .shared ∧ 0 < freeShared s ∨ p = .reserved ∧ o.using .reserved < s.cfg.reserved := by
    unfold poolFor at lent
    split at lent
    · exact .inl ⟨(Option.some.inj lent).symm, ‹_›⟩
    · split at lent
      · exact .inr ⟨(Option.some.inj lent).symm, Nat.lt_of_sub_pos ‹0 < freeReserved s o›⟩
      · cases lent
  have kept := h.reserved o ho
  refine h.setOrigin ho place ?_ ?_ ?_
  · rcases free with ⟨rfl, -⟩ | ⟨rfl, room⟩
    · simpa [used] using kept
    · simpa [used] using room
  · rcases free with ⟨rfl, room⟩ | ⟨rfl, -⟩
    · exact .inr ⟨by simp [used], room⟩
    · exact .inl (by simp [used])
  · have last : r.seq = o.held + 1 + o.staged.length := by rw [next, Origin.expected]; omega
    rw [staged, held, List.map_append, h.consecutive o ho, List.length_append, List.length_singleton, List.range'_1_concat]
    simp [last]

/-- The head staged record is held, and its slot is free again (R138). -/
theorem StagingAccounted.programmed {o o' : Origin} {x : Staged} (ho : o ∈ s.wit.origins) (place : o'.place = o.place)
    (staged : o.staged = x :: o'.staged) (held : o'.held = x.record.seq) : StagingAccounted (Machine.setOrigin o' s) := by
  have used (q : Pool) : o'.using q ≤ o.using q := by
    rw [Origin.using, Origin.using, staged]
    exact (List.sublist_cons_self ..).countP_le
  have numbers := h.consecutive o ho
  rw [staged, List.map_cons, List.length_cons, List.range'_succ, List.cons.injEq] at numbers
  obtain ⟨first, rest⟩ := numbers
  exact h.setOrigin ho place ((used _).trans (h.reserved o ho)) (.inl (used _)) (by rw [held, first]; exact rest)

theorem StagingAccounted.dropped {o o' : Origin} (ho : o ∈ s.wit.origins) (place : o'.place = o.place)
    (staged : o'.staged = []) : StagingAccounted (Machine.setOrigin o' s) := by
  have none (q : Pool) : o'.using q = 0 := by simp [Origin.using, staged]
  exact h.setOrigin ho place (by simp [none]) (.inl (by simp [none])) (by simp [staged])

end

/-- The acts that move no staged record keep the whole pool. -/
theorem Acts.stagingAccounted {s t : State} (h : Acts s t) : StagingAccounted s → StagingAccounted t := by
  induction h with
  | kept k => exact fun a => a.congr (k.shares a.partitions) k.reserved
  | trans _ _ before after => exact fun a => after (before a)
  | restaged ho place copy =>
    intro a
    cases copy with
    | accepted r p lent next held staged => exact a.accepted ho place lent next held staged
    | programmed x staged held => exact a.programmed ho place staged held
    | dropped staged => exact a.dropped ho place staged
  | released => exact fun a => a.congr rfl rfl
  | secured => exact fun a => a.congr (by simp [updateSecured]) (by simp)
  | appended | started | programmed => exact fun a => a.congr (by simp) (by simp)

/-! ## The cold start (R135, R136) -/

/-- With nothing staged, the pool is accounted when the reservations fit into it. -/
theorem StagingAccounted.of_unstaged {s : State} (partitions : (s.wit.origins.map (·.place)).Nodup)
    (places : ∀ o ∈ s.wit.origins, o.place < 3) (reservations : s.wit.origins.length * s.cfg.reserved ≤ 48)
    (none : ∀ o ∈ s.wit.origins, o.staged = []) : StagingAccounted s := by
  have unused (p : Pool) : ∀ o ∈ s.wit.origins, o.using p = 0 := fun o ho => by simp [Origin.using, none o ho]
  refine ⟨partitions, places, reservations, fun o ho => by simp [unused _ o ho], ?_, fun o ho => by simp [none o ho]⟩
  rw [List.map_congr_left (unused .shared)]
  simp

/-- The reservation of a valid image is in its range (R183). -/
theorem reserved_of_valid {b : List Byte} (valid : imageValid b = true) : (settingsOf b).reserved ≤ 8 := by
  obtain ⟨-, -, -, -, faultless⟩ := (imageValid_iff b).1 valid
  have ranged : ¬ SettingFails b 60 := fun fails => faultless 0 60 (imageFault_setting.2 fails)
  by_contra high
  exact ranged (.inl ⟨(60, 1, 2, 8), by simp [settingBounds], rfl, .inr (Nat.lt_of_not_le high)⟩)

/-- The witnessed origins stand in partition order, in at most three partitions (R134). -/
theorem witnessed_places (b : List Byte) :
    ((witnessed (settingsOf b)).map (·.1)).Sublist (List.range 3) := by
  have all : ((settingsOf b).witnessSet.zipIdx.map (fun p => (p.2, p.1))).map (·.1) = List.range 3 := by
    rw [List.map_map]
    exact (List.zipIdx_map_snd ..).trans (by simp [settingsOf, List.range_eq_range'])
  rw [← all]
  exact (List.filter_sublist ..).map _

theorem coldStart_accounted (svc : Bool) (s : State) : StagingAccounted (coldStart svc s) := by
  have empty {t : State} (none : t.wit.origins = []) : StagingAccounted t :=
    .of_unstaged (by simp [none]) (by simp [none]) (by simp [none]) (by simp [none])
  cases svc with
  | true => rw [coldStart_commission]; exact empty rfl
  | false =>
    cases valid : imageValid (storedImage s) with
    | false => rw [coldStart_unconfigured valid]; exact empty rfl
    | true =>
      rw [coldStart_recording valid]
      obtain ⟨-, cfg, -, -, -, -, -, -, wit, -⟩ := recordingStarted_blocks s
      have origins : (flashIdle (scanLeft s)).wit.origins = (flashRead s).wit.origins := by rw [wit]
      have places : ((flashRead s).wit.origins.map (·.place)).Sublist (List.range 3) := by
        have pairs := (flashRead_origins s).trans (scanBegun_origins s)
        have firsts : (flashRead s).wit.origins.map (·.place) = (witnessed (settingsOf (storedImage s))).map (·.1) := by
          rw [← pairs, List.map_map]
          rfl
        exact firsts ▸ witnessed_places _
      refine .of_unstaged ?_ ?_ ?_ ?_ <;> rw [origins]
      · exact places.nodup List.nodup_range
      · exact fun o ho => List.mem_range.1 (places.subset (List.mem_map_of_mem (f := (·.place)) ho))
      · have few : (flashRead s).wit.origins.length ≤ 3 := by simpa using places.length_le
        rw [cfg]
        exact (Nat.mul_le_mul few (reserved_of_valid valid)).trans (by decide)
      · intro o ho
        rw [flashRead_wit] at ho
        obtain ⟨w, -, rfl⟩ := List.mem_map.1 ho
        obtain ⟨⟨-, -, none, -⟩, -⟩ := restoreOrigin_spec (scanBegun s) w
        exact none

/-- Settles O44: every act keeps the account, and a cold start begins with an empty pool. -/
theorem everyStepKeepsTheStagingPool : Obligations.EveryStepKeepsTheStagingPool := fun _ _ accounted stepped =>
  step_keeps (fun acts => acts.stagingAccounted accounted) coldStart_accounted stepped

end Sys2Proof.Machine
end

section
/-! O30, MarkUpdatesTableAndSecuredMark: the k-th highest of the marks, the witness mark table and the lag test (R147 to
R149). -/

namespace Sys2Proof.Machine

/-! ## The k-th highest mark (R148) -/

/-- With fewer than k marks there is no k-th highest. -/
theorem kthHighest_eq_none {k : Nat} {l : List Nat} (pos : 0 < k) (few : l.length < k) : kthHighest k l = none := by
  have length : (sortInts (l.map Int.ofNat)).length = l.length := by
    rw [sortInts_eq, List.length_insertionSort, List.length_map]
  rw [kthHighest, Option.map_eq_none_iff, List.getElem?_eq_none_iff, List.length_reverse]
  omega

theorem kthHighest_spec {k : Nat} {l : List Nat} (pos : 0 < k) (enough : k ≤ l.length) :
    ∃ m, kthHighest k l = some m ∧ IsKthHighest k m l := by
  have sorted : (sortInts (l.map Int.ofNat)).Pairwise (· ≤ ·) := by
    rw [sortInts_eq]
    exact List.pairwise_insertionSort ..
  have perm : (sortInts (l.map Int.ofNat)).Perm (l.map Int.ofNat) := by
    rw [sortInts_eq]
    exact List.perm_insertionSort ..
  have length : (sortInts (l.map Int.ofNat)).length = l.length := by rw [perm.length_eq, List.length_map]
  have place : l.length - k < (sortInts (l.map Int.ofNat)).length := by omega
  obtain ⟨less, most⟩ := countP_at_place sorted place
  obtain ⟨m, hm, value⟩ := List.mem_map.1 (perm.mem_iff.1 (List.getElem_mem place))
  rw [← value, perm.countP_eq, List.countP_map] at less most
  have above := l.length_eq_countP_add_countP (fun x => decide (x ≤ m))
  have below := l.length_eq_countP_add_countP (fun x => decide (x < m))
  simp only [Function.comp_def, Int.ofNat_eq_natCast, Nat.cast_lt, Nat.cast_le] at less most
  simp only [decide_eq_true_eq, Nat.not_le, Nat.not_lt] at above below
  refine ⟨m, ?_, hm, by omega, by omega⟩
  have at_ : (sortInts (l.map Int.ofNat)).reverse[k - 1]? = some (m : Int) := by
    rw [List.getElem?_reverse (by omega), show (sortInts (l.map Int.ofNat)).length - 1 - (k - 1) = l.length - k by omega,
      List.getElem?_eq_getElem place, ← value]
    rfl
  rw [kthHighest, at_]
  rfl

/-- The secured mark after a report, by the quorum and the number of marks. -/
theorem securedAfter_spec (k latest secured : Nat) (l : List Nat) :
    (k = 0 ∨ l.length < k → securedAfter k latest secured l = secured)
    ∧ (1 ≤ k → k ≤ l.length → ∃ m, IsKthHighest k m l ∧ securedAfter k latest secured l = max secured (min m latest)) := by
  refine ⟨fun few => ?_, fun pos enough => ?_⟩
  · unfold securedAfter
    split
    · rfl
    · rename_i pos
      rw [kthHighest_eq_none (Nat.pos_of_ne_zero pos) (few.resolve_left pos)]
  · obtain ⟨m, highest, is⟩ := kthHighest_spec pos enough
    refine ⟨m, is, ?_⟩
    rw [securedAfter, if_neg (Nat.ne_of_gt pos), highest]

/-! ## The lag test (R149) -/

/-- The lag test is made, with a quorum, and finds a lag of 96 records or more. -/
def WitnessLags (s : State) : Prop :=
  (∀ n, s.wit.lagHoldoff = some n → 614400 ≤ s.elapsed - n) ∧ 0 < s.cfg.quorum ∧ s.wit.secured + 96 ≤ s.arch.latest

theorem lagTest_cases (s : State) : (WitnessLags s → lagTest s = raiseCause .witnessLag s)
    ∧ (¬ WitnessLags s → lagTest s = s) := by
  have test : (lagTestOn s && decide (0 < s.cfg.quorum) && decide (s.wit.secured + 96 ≤ s.arch.latest)) = true
      ↔ WitnessLags s := by
    rw [Bool.and_eq_true, Bool.and_eq_true, lagTestOn_iff, decide_eq_true_eq, decide_eq_true_eq, and_assoc, WitnessLags]
  exact ⟨fun due => if_pos (test.2 due), fun no => if_neg fun due => no (test.1 due)⟩

/-- The lag test raises WITNESS_LAG, and nothing else. -/
theorem lagTest_retr (s : State) :
    (WitnessLags s → (lagTest s).retr = { s.retr with flags := s.retr.flags ||| 0x20#9 })
    ∧ (¬ WitnessLags s → (lagTest s).retr = s.retr) := by
  obtain ⟨raises, stays⟩ := lagTest_cases s
  exact ⟨fun lags => by rw [raises lags]; rfl, fun none => by rw [stays none]⟩

theorem flagSet_lagTest (s : State) :
    (WitnessLags s → flagSet (lagTest s) .witnessLag = true)
    ∧ (¬ WitnessLags s → flagSet (lagTest s) .witnessLag = flagSet s .witnessLag) := by
  obtain ⟨raises, stays⟩ := lagTest_cases s
  exact ⟨fun lags => by rw [raises lags, flagSet_raiseCause]; simp, fun none => by rw [stays none]⟩

/-- The lag test changes the flags alone. -/
theorem lagTest_eq (s : State) : lagTest s = s.setRetr (lagTest s).retr := State.eq_of_blocks (by simp)

/-! ## The witness mark table (R147) -/

section
variable (m : WitnessMark) (l : List WitnessMark)

/-- A report is passed over when the table holds 7 entries, all of other stations. -/
theorem markTable_full (full : 7 ≤ l.length) (others : ∀ x ∈ l, x.station ≠ m.station) :
    markTable m l = l ∧ markTaken m.station l = false := by
  have absent : l.any (fun x => x.station == m.station) = false := by simpa using others
  have room : ¬ l.length < 7 := Nat.not_lt.2 full
  simp [markTable, markTaken, absent, room]

/-- A report that is taken: it is the one entry of its station, and the entries of the others stay. -/
theorem markTable_taken (place : l.length < 7 ∨ ∃ x ∈ l, x.station = m.station) :
    markTaken m.station l = true
    ∧ (markTable m l).filter (fun x => x.station != m.station) = l.filter (fun x => x.station != m.station)
    ∧ m ∈ markTable m l ∧ ∀ x ∈ markTable m l, x.station = m.station → x = m := by
  by_cases listed : l.any (fun x => x.station == m.station) = true
  · have table : markTable m l = l.map (fun x => if x.station = m.station then m else x) := if_pos listed
    obtain ⟨x, hx, same⟩ : ∃ x ∈ l, x.station = m.station := by simpa using listed
    refine ⟨by simp [markTaken, listed], ?_, ?_, ?_⟩ <;> rw [table]
    · clear listed table place hx
      induction l with
      | nil => rfl
      | cons y l ih => by_cases own : y.station = m.station <;> simp [own, ih]
    · exact List.mem_map.2 ⟨x, hx, if_pos same⟩
    · intro y hy own
      obtain ⟨z, -, rfl⟩ := List.mem_map.1 hy
      split
      · rfl
      · rename_i other
        rw [if_neg other] at own
        exact absurd own other
  · have others : ∀ x ∈ l, x.station ≠ m.station := by simpa using listed
    have room : l.length < 7 := place.resolve_right fun ⟨x, hx, same⟩ => others x hx same
    have table : markTable m l = l ++ [m] := (if_neg listed).trans (if_pos room)
    refine ⟨by simp [markTaken, room], ?_, ?_, ?_⟩ <;> rw [table]
    · simp
    · simp
    · intro x hx own
      rcases List.mem_append.1 hx with old | new
      · exact absurd own (others x old)
      · exact List.mem_singleton.1 new

end

/-! ## The MARK (R147 to R149) -/

theorem exec_receiveMark {sender : BitVec 5} {entries : List MarkEntry} {s : State} (hears : Hears s sender)
    (few : entries.length ≤ 3) : exec (.receiveMark sender entries) s = .next (takeMark sender entries s) := by
  rw [exec, execReceiveMark, decide_eq_true few, deliver_hears hears]

/-- A MARK in another state, of another kind of station, or without an entry that names the part is passed over. -/
theorem takeMark_ignored {sender : BitVec 5} {entries : List MarkEntry} {s : State}
    (no : ¬ CatchingUpOrRecording s ∨ stationKind s.cfg sender.toNat ≠ .recorder
      ∨ ∀ x ∈ entries, x.origin.toNat ≠ s.cfg.own) : takeMark sender entries s = s := by
  unfold takeMark
  split
  · rename_i taken
    obtain ⟨here, recorder⟩ := taken
    have unnamed := (no.resolve_left (not_not_intro (running_iff.1 here))).resolve_left (not_not_intro recorder)
    rw [List.find?_eq_none.2 (by simpa using unnamed)]
  · rfl

theorem takeMark_named {sender : BitVec 5} {entries : List MarkEntry} {e : MarkEntry} {s : State}
    (here : CatchingUpOrRecording s) (recorder : stationKind s.cfg sender.toNat = .recorder)
    (first : entries.find? (fun x => x.origin.toNat == s.cfg.own) = some e) :
    takeMark sender entries s = ownMark sender.toNat e.held.toNat s := by
  simp [takeMark, running_iff.2 here, recorder, first]

/-- A report on the part's own records finds no place in the table. -/
theorem ownMark_full {station : Nat} (mark : Nat) {s : State} (full : 7 ≤ (youngMarks s).length)
    (others : ∀ m ∈ youngMarks s, m.station ≠ station) :
    ownMark station mark s = s.setWit { s.wit with marks := youngMarks s } := by
  obtain ⟨table, taken⟩ := markTable_full ⟨station, mark, s.elapsed⟩ _ full others
  simp [ownMark, table, taken]

/-- The state with a report on the part's own records taken in, before the lag test. -/
def markReported (station mark : Nat) (s : State) : State :=
  let table := markTable ⟨station, mark, s.elapsed⟩ (youngMarks s)
  s.setWit { s.wit with
    marks := table, secured := securedAfter s.cfg.quorum s.arch.latest s.wit.secured (table.map (·.mark)) }

theorem ownMark_taken {station mark : Nat} {s : State}
    (place : (youngMarks s).length < 7 ∨ ∃ m ∈ youngMarks s, m.station = station) :
    ownMark station mark s = lagTest (markReported station mark s) := by
  obtain ⟨taken, -⟩ := markTable_taken ⟨station, mark, s.elapsed⟩ _ place
  exact if_pos taken

/-- Settles O30: the table and the secured mark by their lemmas, the flags by the lag test. -/
theorem markUpdatesTableAndSecuredMark : Obligations.MarkUpdatesTableAndSecuredMark := by
  constructor
  · intro sender entries s hears few no
    rw [exec_receiveMark hears few, takeMark_ignored no]
  · intro sender entries e s hears here recorder few first young
    rw [exec_receiveMark hears few, takeMark_named here recorder first]
    refine ⟨fun full others => congrArg _ (ownMark_full _ full others), fun place => ⟨_, rfl, ?_⟩⟩
    rw [ownMark_taken place]
    obtain ⟨-, others, listed, alone⟩ := markTable_taken ⟨sender.toNat, e.held.toNat, s.elapsed⟩ young place
    obtain ⟨still, moved⟩ := securedAfter_spec s.cfg.quorum s.arch.latest s.wit.secured
      ((markTable ⟨sender.toNat, e.held.toNat, s.elapsed⟩ young).map (·.mark))
    rw [List.length_map] at still moved
    rw [lagTest_eq]
    exact ⟨rfl, rfl, others, listed, alone, still, moved, lagTest_retr (markReported ..)⟩

end Sys2Proof.Machine
end

section
/-! O32, GapIsAbsorbedQueuedOrDropped: a GAP to the part, and the reads of the first job of an empty queue (R142, R143,
R153, R155). -/

namespace Sys2Proof.Machine

/-! ## The reads of a backfill job (R143, R153) -/

/-- The one backfill job has the sequences from `n` to `last` left, and its read of `n` is the only one that waits. -/
def backfillAsking (n last : Nat) (s : State) : State :=
  (s.setWit { s.wit with jobs := [⟨n, last⟩], work := .reading }).setArch { s.arch with requests := [⟨.backfill, .own, n⟩] }

/-- The job has the telegram of sequence `n`, which begins to wait. -/
def backfillWaiting (n last : Nat) (r : Rec) (s : State) : State :=
  (s.setWit { s.wit with
    jobs := [⟨n, last⟩], work := .ready { r with origin := s.cfg.own } s.port.ticket }).setPort
    { s.port with ticket := s.port.ticket + 1 }

/-- The job has ended, and no other waits. -/
def backfillEnded (s : State) : State := s.setWit { s.wit with jobs := [], work := .idle }

theorem serveReads_asking (fuel n last : Nat) (s : State) : serveReads (fuel + 1) (backfillAsking n last s)
    = serveReads fuel (serveOne (backfillAsking n last s)) := rfl

section
variable {s : State} (unread : s.arch.requests = [])
include unread

theorem serveOne_asking (n last : Nat) : serveOne (backfillAsking n last s)
    = backfillResult (readRecord s .own n) (s.setWit { s.wit with jobs := [⟨n, last⟩], work := .reading }) := by
  have same : s.setArch { s.arch with requests := [] } = s := by rw [← unread]; rfl
  exact congrArg (fun u : State => backfillResult (readRecord s .own n)
    (u.setWit { s.wit with jobs := [⟨n, last⟩], work := .reading })) same

theorem serveOne_asking_held {n : Nat} (last : Nat) {r : Rec} (held : readRecord s .own n = some r) :
    serveOne (backfillAsking n last s) = backfillWaiting n last r s := by
  rw [serveOne_asking unread, held]
  rfl

theorem serveOne_asking_not_held {n last : Nat} (none : readRecord s .own n = none) :
    serveOne (backfillAsking n last s) = if n < last then backfillAsking (n + 1) last s else backfillEnded s := by
  rw [serveOne_asking unread, none]
  refine (advanceBackfill_cons (j := ⟨n, last⟩) (rest := [])
    (s := s.setWit { s.wit with jobs := [⟨n, last⟩], work := .reading }) rfl).trans ?_
  dsimp only
  split
  · exact congrArg (fun l => (s.setWit { s.wit with jobs := [⟨n + 1, last⟩], work := .reading }).setArch
      { s.arch with requests := l ++ [⟨.backfill, .own, n + 1⟩] }) unread
  · exact congrArg (fun l => (backfillEnded s).setArch { s.arch with requests := l }) (List.append_nil _)

/-- Once no read waits, none is served. -/
theorem serveReads_unread (fuel : Nat) : serveReads fuel s = s := by
  cases fuel with
  | zero => rfl
  | succ fuel => rw [serveReads, unread]; rfl

/-- The job passes over the sequences not held, and waits with the first readable one. -/
theorem serveReads_asking_held {q last : Nat} {r : Rec} (inside : q ≤ last) (held : readRecord s .own q = some r)
    {fuel n : Nat} (from_ : n ≤ q) (enough : q < n + fuel)
    (before : ∀ x, n ≤ x → x < q → readRecord s .own x = none) :
    serveReads fuel (backfillAsking n last s) = backfillWaiting q last r s := by
  induction fuel generalizing n with
  | zero => omega
  | succ fuel ih =>
    rw [serveReads_asking]
    rcases Nat.eq_or_lt_of_le from_ with rfl | later
    · rw [serveOne_asking_held unread last held]
      exact serveReads_unread (s := backfillWaiting n last r s) unread fuel
    · rw [serveOne_asking_not_held unread (before n (le_refl _) later), if_pos (by omega)]
      exact ih later (by omega) fun x lo hi => before x (by omega) hi

/-- The job ends without a telegram when no sequence is held. -/
theorem serveReads_asking_not_held {last fuel n : Nat} (from_ : n ≤ last) (enough : last < n + fuel)
    (none : ∀ x, n ≤ x → x ≤ last → readRecord s .own x = none) :
    serveReads fuel (backfillAsking n last s) = backfillEnded s := by
  induction fuel generalizing n with
  | zero => omega
  | succ fuel ih =>
    rw [serveReads_asking, serveOne_asking_not_held unread (none n (le_refl _) from_)]
    split
    · rename_i more
      exact ih more (by omega) fun x lo hi => none x (by omega) hi
    · exact serveReads_unread (s := backfillEnded s) unread fuel

end

/-- A flash-idle event in RECORDING serves the waiting reads and starts one operation (R153). -/
theorem flashIdle_recording {s u : State} (idle : s.arch.op = .idle) (recording : s.supply.station = some .recording)
    (served : serveReads (readBound s) s = u) (on : u.supply.station = some .recording) :
    flashIdle s = startOperation u := by
  have out : ¬ (s.arch.op ≠ .idle ∨ s.supply.station = none ∨ s.supply.station = some .hold) := by simp [idle, recording]
  rw [flashIdle, if_neg out, served]
  exact if_pos (by simp [operationsOn, on])

/-! ## The GAP (R142) -/

theorem exec_receiveGap {sender : BitVec 5} {s : State} (hears : Hears s sender) (target : BitVec 8) (first : BitVec 32)
    (count : BitVec 8) : exec (.receiveGap sender target first count) s = .next (takeGap target first count s) := by
  rw [exec, execReceiveGap, deliver_hears hears]

/-- The range of a GAP is its sequences up to the latest archived one (R142). -/
theorem gapRange_valid {first count latest : Nat}
    (valid : 1 ≤ first ∧ 1 ≤ count ∧ count ≤ 16 ∧ first ≤ min (first + count - 1) latest) :
    gapRange first count latest = some ⟨first, min (first + count - 1) latest⟩ := if_neg (by omega)

theorem gapRange_invalid {first count latest : Nat}
    (invalid : ¬ (1 ≤ first ∧ 1 ≤ count ∧ count ≤ 16 ∧ first ≤ min (first + count - 1) latest)) :
    gapRange first count latest = none := if_pos (by omega)

theorem any_covers {l : List Backfill} {r : Backfill} :
    l.any (covers · r) = true ↔ ∃ j ∈ l, j.next ≤ r.next ∧ r.last ≤ j.last := by simp [covers]

section
variable {s : State} {target : BitVec 8} {first : BitVec 32} {count : BitVec 8}

theorem takeGap_elsewhere (no : s.supply.station ≠ some .recording ∨ target.toNat ≠ s.cfg.own) :
    takeGap target first count s = s := if_neg fun ⟨here, own⟩ => no.elim (absurd here) (absurd own)

variable (here : s.supply.station = some .recording) (own : target.toNat = s.cfg.own)
include here own

/-- What becomes of a GAP to the part in RECORDING. -/
theorem takeGap_here : takeGap target first count s = match gapRange first.toNat count.toNat s.arch.latest with
    | some r => if s.wit.jobs.any (covers · r) then s else if s.wit.jobs.length < 4 then joinBackfill r s else s
    | none => s := if_pos ⟨here, own⟩

end

/-- A job that joins others waits behind them. -/
theorem joinBackfill_behind {s : State} (others : s.wit.jobs ≠ []) (r : Backfill) :
    joinBackfill r s = s.setWit { s.wit with jobs := s.wit.jobs ++ [r] } := by
  simp [joinBackfill, others]

/-- The first job of an empty queue asks for its read, and the flash-idle event follows. -/
theorem joinBackfill_first {s : State} (none : s.wit.jobs = []) (r : Backfill) :
    joinBackfill r s = flashIdle ((s.setWit { s.wit with jobs := [r], work := .reading }).setArch
      { s.arch with requests := s.arch.requests ++ [⟨.backfill, .own, r.next⟩] }) := by
  simp only [joinBackfill, none, List.isEmpty_nil, if_true, List.nil_append]
  rfl

/-- With no read waiting it is the only one that waits. -/
theorem joinBackfill_alone {s : State} (none : s.wit.jobs = []) (unread : s.arch.requests = []) (first last : Nat) :
    joinBackfill ⟨first, last⟩ s = flashIdle (backfillAsking first last s) := by
  rw [joinBackfill_first none, unread]
  rfl

/-- The reads of one act suffice for the job. -/
theorem le_readBound_asking (first last : Nat) (s : State) :
    last < first + readBound (backfillAsking first last s) := by
  simp only [readBound, backfillAsking, State.setArch_wit, State.setWit_wit, List.map_cons, List.map_nil, List.sum_cons,
    List.sum_nil]
  omega

/-- Settles O32: the cases of R142, and the two ends of the reads of R143. -/
theorem gapIsAbsorbedQueuedOrDropped : Obligations.GapIsAbsorbedQueuedOrDropped := by
  constructor
  · intro sender target first count s hears no
    rw [exec_receiveGap hears, takeGap_elsewhere no]
  intro sender target first count s hears here own last covered started valid
  have joins (ok : valid) (uncovered : ¬ covered) (room : s.wit.jobs.length < 4) :
      exec (.receiveGap sender target first count) s = .next (joinBackfill ⟨first.toNat, last⟩ s) := by
    rw [exec_receiveGap hears, takeGap_here here own, gapRange_valid ok]
    dsimp only
    rw [if_neg (mt any_covers.1 uncovered), if_pos room]
  have uncovered (none : s.wit.jobs = []) : ¬ covered := fun ⟨j, hj, _⟩ => by simp [none] at hj
  have startedFrom {v t : State} (ht : t = startOperation v) (arch : v.arch = s.arch) (cfg : v.cfg = s.cfg)
      (year : v.year = s.year) (origins : v.wit.origins = s.wit.origins) : started t :=
    ⟨v, ht ▸ startOperation_started v, arch, cfg, year, origins⟩
  refine ⟨fun no => ?_, fun ok uncov room others => ?_, fun ok none busy => ?_, fun ok none idle unread =>
    ⟨fun q r lo hi held before => ?_, fun unheld => ?_⟩⟩
  · rw [exec_receiveGap hears, takeGap_here here own]
    by_cases ok : valid
    · rw [gapRange_valid ok]
      dsimp only
      split
      · rfl
      · rename_i uncov
        rw [if_neg]
        rcases no with invalid | cov | full
        · exact absurd ok invalid
        · exact absurd (any_covers.2 cov) uncov
        · omega
    · rw [gapRange_invalid ok]
  · rw [joins ok uncov room, joinBackfill_behind others]
  · rw [joins ok (uncovered none) (by simp [none]), joinBackfill_first none]
    exact congrArg _ (if_pos (.inl busy))
  · let v := backfillWaiting q last r s
    have reads := serveReads_asking_held unread hi held lo
      (lt_of_le_of_lt hi (le_readBound_asking first.toNat last s)) before
    have event := flashIdle_recording (s := backfillAsking first.toNat last s) (u := v) idle here reads here
    refine ⟨startOperation v, ?_, ?_, ?_, ?_, ?_, startedFrom rfl rfl rfl rfl rfl, State.eq_of_blocks ?_⟩
    · rw [joins ok (uncovered none) (by simp [none]), joinBackfill_alone none unread, event]
    all_goals simp [v, backfillWaiting, unread]
  · let v := backfillEnded s
    obtain ⟨-, -, -, inside⟩ := id ok
    have reads := serveReads_asking_not_held unread inside (le_readBound_asking first.toNat last s) unheld
    have event := flashIdle_recording (s := backfillAsking first.toNat last s) (u := v) idle here reads here
    refine ⟨startOperation v, ?_, ?_, ?_, ?_, ?_, startedFrom rfl rfl rfl rfl rfl, State.eq_of_blocks ?_⟩
    · rw [joins ok (uncovered none) (by simp [none]), joinBackfill_alone none unread, event]
    all_goals simp [v, backfillEnded, unread]

end Sys2Proof.Machine
end

section
/-! The rings of the archive and their directories (R151, R154), and what a flash-idle event leaves of the archive (R153). -/

namespace Sys2Proof.Machine

/-! ## The archive field by field -/

theorem Archive.eq_of_fields {a b : Archive}
    (h : a.flash = b.flash ∧ a.op = b.op ∧ a.own = b.own ∧ a.parts = b.parts ∧ a.outbound = b.outbound
      ∧ a.requests = b.requests ∧ a.lastAssigned = b.lastAssigned ∧ a.latest = b.latest ∧ a.failureRun = b.failureRun
      ∧ a.state = b.state ∧ a.roundRobin = b.roundRobin ∧ a.releaseTicket = b.releaseTicket
      ∧ a.abandoned = b.abandoned) : a = b := by
  cases a
  cases b
  simpa only [Archive.mk.injEq] using h

/-! ## Rings -/

/-- An area whose ring the archive holds: the own one, or a partition in the list. -/
def Area.Listed (a : Area) (s : State) : Prop := ∀ p, a = .part p → p < s.arch.parts.length

/-- A ring is told from the own ring and the partitions' rings. -/
theorem ringOf_congr {s t : State} (own : t.arch.own = s.arch.own) (parts : t.arch.parts = s.arch.parts) (a : Area) :
    ringOf t a = ringOf s a := by
  cases a <;> simp [ringOf, own, parts]

theorem ringOf_setRing {a : Area} {s : State} (listed : a.Listed s) (r : Ring) : ringOf (setRing a r s) a = r := by
  cases a with
  | own => rfl
  | part p => simp [ringOf, setRing, listed p rfl]

theorem ringOf_setRing_ne {a b : Area} (other : b ≠ a) (r : Ring) (s : State) : ringOf (setRing a r s) b = ringOf s b := by
  cases a with
  | own =>
    cases b with
    | own => exact absurd rfl other
    | part q => rfl
  | part p =>
    cases b with
    | own => rfl
    | part q =>
      have apart : p ≠ q := fun same => other (same ▸ rfl)
      simp [ringOf, setRing, apart]

@[simp] theorem ringOf_setOp (o : FlashOp) (s : State) (a : Area) : ringOf (setOp o s) a = ringOf s a :=
  ringOf_congr (by simp) (by simp) a

@[simp] theorem ringOf_flashIdle (s : State) (a : Area) : ringOf (flashIdle s) a = ringOf s a :=
  ringOf_congr (by simp) (by simp) a

@[simp] theorem originAt_flashIdle (s : State) (p : Nat) : originAt (flashIdle s) p = originAt s p := by simp [originAt]

@[simp] theorem flagSet_flashIdle (s : State) (c : Cause) : flagSet (flashIdle s) c = flagSet s c := by simp [flagSet]

/-! ## Sector directories (R154) -/

section
variable (r : Ring) (k : Nat) (e : DirEntry)

theorem find_insertDir (j : Nat) {l : List (Nat × DirEntry)} (fresh : ∀ x ∈ l, x.1 ≠ k) :
    (insertDir k e l).find? (fun p => p.1 == j) = if k = j then some (k, e) else l.find? (fun p => p.1 == j) := by
  induction l with
  | nil => by_cases same : k = j <;> simp [insertDir, same]
  | cons x l ih =>
    have rest := ih fun y hy => fresh y (List.mem_cons_of_mem _ hy)
    have other := fresh x (List.mem_cons_self ..)
    unfold insertDir
    split
    · by_cases same : k = j <;> simp [same]
    · by_cases here : x.1 = j
      · have apart : k ≠ j := fun same => other (here.trans same.symm)
        simp [here, apart]
      · simp [here, rest]

theorem find_others {j : Nat} (other : j ≠ k) (l : List (Nat × DirEntry)) :
    (l.filter (fun p => p.1 != k)).find? (fun p => p.1 == j) = l.find? (fun p => p.1 == j) := by
  rw [List.find?_filter]
  refine congrArg (fun f => l.find? f) (funext fun p => ?_)
  by_cases here : p.1 = j <;> simp [here, other]

theorem others_fresh : ∀ x ∈ r.dir.filter (fun p => p.1 != k), x.1 ≠ k := fun x hx => by
  have other := (List.mem_filter.1 hx).2
  simpa using other

theorem dirEntry_setDir_ne {j : Nat} (other : j ≠ k) : dirEntry (setDir r k e) j = dirEntry r j := by
  have kept := find_others k other r.dir
  by_cases erased : e.state = .erased
  · simp only [dirEntry, setDir, if_pos erased, kept]
  · simp only [dirEntry, setDir, if_neg erased, find_insertDir k e j (others_fresh r k), if_neg (Ne.symm other), kept]

/-- A directory entry replaced by one that is not ERASED, which is listed. -/
theorem dirEntry_setDir (filled : e.state ≠ .erased) : dirEntry (setDir r k e) k = e := by
  simp only [dirEntry, setDir, if_neg filled, find_insertDir k e k (others_fresh r k), if_true]

/-- An ERASED sector is not listed. -/
theorem setDir_erased (erased : e.state = .erased) : ∀ x ∈ (setDir r k e).dir, x.1 ≠ k := by
  rw [setDir, if_pos erased]
  exact others_fresh r k

end

/-! ## Causes of a FAULT (R164) -/

/-- A FAULT raises ARCHIVE, unless the archive is in it already. -/
theorem flagSet_enterFault (s : State) (c : Cause) : flagSet (enterFault s) c
    = (flagSet s c || decide (s.arch.state ≠ .fault ∧ c = .archive)) := by
  unfold enterFault
  split
  · rename_i fault
    simp [fault]
  · rename_i other
    rw [flagSet_raiseCause]
    simp [other, flagSet, eq_comm]

end Sys2Proof.Machine
end

section
/-! O39, ErasesClearTheirSectorOrAreCounted: the ends of an erase (R138, R152, R154, R159, R162 to R164). -/

namespace Sys2Proof.Machine

/-! ## A sector whose blank check fails is not blank (R152) -/

theorem length_chunk {size : Nat} {x : List Byte} (n : Nat) : ∀ {b : List Byte}, b.length = size * n → x ∈ chunks size n b →
    x.length = size := by
  induction n with
  | zero => exact fun _ none => by simp [chunks] at none
  | succ n ih =>
    intro b length listed
    rw [Nat.mul_succ] at length
    rcases List.mem_cons.1 listed with rfl | rest
    · rw [List.length_take]
      omega
    · exact ih (by rw [List.length_drop]; omega) rest

theorem brokenPage_length {was mixed : List Byte} {n : Nat} (old : was.length = n) (new : mixed.length = n) :
    (brokenPage was mixed).length = n := by
  unfold brokenPage
  split
  · exact old
  · exact new

/-- A broken sector is as long as the sector was. -/
theorem brokenSector_length_eq {old : List Byte} (sector : old.length = 4096) (draw : Nat) :
    (brokenSector old draw).length = 4096 := by
  rw [brokenSector, List.length_flatten, List.sum_eq_card_nsmul _ 256]
  · simp
  · intro n hn
    obtain ⟨page, hp, rfl⟩ := List.mem_map.1 hn
    obtain ⟨i, hi, rfl⟩ := List.mem_iff_getElem.1 hp
    rw [List.getElem_zipWith]
    exact brokenPage_length (length_chunk 16 (by simp [sector]) (List.getElem_mem _))
      (length_chunk 16 (by simp [sector]) (List.getElem_mem _))

/-- A byte with a bit cleared is not FF. -/
theorem cleared_bit_ne : ∀ i, i < 8 → (0xFF#8 &&& ~~~(1#8 <<< i)) ≠ 0xFF#8 := by decide

theorem failedSector_not_blank {old : List Byte} (sector : old.length = 4096) (draw : Nat) :
    ∃ i, i < (failedSector old draw).length ∧ (failedSector old draw).getD i 0xFF ≠ 0xFF := by
  simp only [failedSector]
  split
  · rename_i blank
    obtain ⟨bit, low, is⟩ : ∃ bit, bit < 32768 ∧ Config.stuckBit draw % 32768 = bit := ⟨_, Nat.mod_lt _ (by decide), rfl⟩
    have inside : bit / 8 < (brokenSector old draw).length := by rw [brokenSector_length_eq sector]; omega
    have was : (brokenSector old draw)[bit / 8] = 0xFF#8 := by
      have byte := List.all_eq_true.1 blank _ (List.getElem_mem inside)
      simpa [erasedByte] using byte
    rw [is]
    refine ⟨bit / 8, by simpa using inside, ?_⟩
    simp only [List.getD_eq_getElem?_getD, List.getElem?_modify_eq, List.getElem?_eq_getElem inside, Option.map_eq_map,
      Option.map_some, Option.getD_some, was]
    exact cleared_bit_ne _ (Nat.mod_lt _ (by decide))
  · rename_i blank
    obtain ⟨x, hx, other⟩ : ∃ x ∈ brokenSector old draw, x ≠ 0xFF#8 := by simpa [erasedByte] using blank
    obtain ⟨i, hi, rfl⟩ := List.mem_iff_getElem.1 hx
    exact ⟨i, hi, by simpa [List.getD_eq_getElem?_getD, hi] using other⟩

/-- An erase that failed leaves a byte of the sector that does not read FF. -/
theorem failErase_not_blank {s : State} (w : s.arch.flash.wf = true) (a : Nat) :
    ∃ x, a ≤ x ∧ x < a + 4096 ∧ (failErase a s).arch.flash.read x ≠ 0xFF := by
  have sector : (sectorBytesAt s a).length = 4096 := Memory.bytes_length ..
  obtain ⟨i, inside, byte⟩ := failedSector_not_blank sector s.draws
  have short := failedSector_length (sectorBytesAt s a) s.draws
  refine ⟨a + i, by omega, by omega, ?_⟩
  have written : (failErase a s).arch.flash.read (a + i) = (failedSector (sectorBytesAt s a) s.draws).getD i 0xFF :=
    Memory.read_writeAll_inside _ a i (Memory.wf_erase _ _ w) inside
  rw [written]
  exact byte

/-! ## What an erased sector held (R138) -/

/-- The sequence numbers that a sector held: of its record pages, and what an erase of it without a good end had noted. -/
def heldSeqs (r : Ring) (k : Nat) (pages : List PageKind) : List Nat :=
  (pageRecords pages).map (·.seq)
    ++ (match r.broken with | some (j, n) => if j = k then [n] else [] | none => [])

/-- The highest number that a sector held. -/
theorem sectorHeld_eq (r : Ring) (k : Nat) (pages : List PageKind) :
    sectorHeld r k pages = maxList (heldSeqs r k pages) := by
  have last (l : List Nat) (n : Nat) : maxList (l ++ [n]) = some ((maxList l).elim n (max n)) := by
    simp only [maxList, List.foldl_append, List.foldl_cons, List.foldl_nil]
    cases List.foldl _ none l <;> rfl
  unfold sectorHeld heldSeqs highestSeq
  rcases r.broken with _ | ⟨j, n⟩
  · simp
  · by_cases same : j = k
    · simp only [same, if_true, last]
      cases maxList ((pageRecords pages).map (·.seq)) <;> simp
    · simp only [same, if_false, List.append_nil]
      cases maxList ((pageRecords pages).map (·.seq)) <;> simp [same]

theorem maxList_eq_some {l : List Nat} {m : Nat} (listed : m ∈ l) (above : ∀ x ∈ l, x ≤ m) : maxList l = some m := by
  obtain ⟨empty, greatest⟩ := maxList_spec l
  cases found : maxList l with
  | none => simp [empty.1 found] at listed
  | some n =>
    obtain ⟨member, most⟩ := greatest n found
    exact congrArg some (Nat.le_antisymm (above n member) (most m listed))

/-- The erased sector of a partition raises oldest held, where there is one, past the highest number that it held. -/
theorem raiseOldest_origin {s : State} {p : Nat} {o : Origin} (ho : originAt s p = some o) (held : Option Nat) :
    ∃ o', originAt (raiseOldest p held s) p = some o' ∧ o'.held = o.held ∧ o'.staged = o.staged
      ∧ (o.oldest = none ∨ held = none → o'.oldest = o.oldest)
      ∧ ∀ b h, o.oldest = some b → held = some h → o'.oldest = some (max b (h + 1)) := by
  cases held with
  | none => exact ⟨o, by simp [raiseOldest, ho], rfl, rfl, fun _ => rfl, fun b h _ none => by cases none⟩
  | some h =>
    cases bottom : o.oldest with
    | none =>
      exact ⟨o, by simp [raiseOldest, ho, bottom], rfl, rfl, fun _ => bottom, fun b h none => by cases none⟩
    | some b =>
      refine ⟨{ o with oldest := some (max b (h + 1)) }, ?_, rfl, rfl, fun no => by simp at no, fun c n same some => ?_⟩
      · have place := originAt_place ho
        have raised : raiseOldest p (some h) s = setOrigin { o with oldest := some (max b (h + 1)) } s := by
          simp [raiseOldest, ho, bottom]
        rw [raised, ← place]
        exact originAt_setOrigin (place ▸ ho) rfl
      · obtain rfl := Option.some.inj same
        obtain rfl := Option.some.inj some
        rfl

/-! ## Flash-idle events without a read (R153) -/

/-- Where operations start, a flash-idle event with no read waiting is the start of one. -/
theorem flashIdle_starts {s : State} (idle : s.arch.op = .idle) (unread : s.arch.requests = [])
    (on : operationsOn s = true) : flashIdle s = startOperation s := by
  have out : ¬ (s.arch.op ≠ .idle ∨ s.supply.station = none ∨ s.supply.station = some .hold) := by
    rw [operationsOn] at on
    rintro (busy | reset | held)
    · exact busy idle
    · simp [reset] at on
    · simp [held] at on
  rw [flashIdle, if_neg out, serveReads_unread unread]
  exact if_pos on

/-- Elsewhere it does nothing. -/
theorem flashIdle_off {s : State} (unread : s.arch.requests = []) (off : ¬ operationsOn s = true) : flashIdle s = s := by
  rw [flashIdle, serveReads_unread unread]
  split
  · rfl
  · exact if_neg off

/-! ## The end of an erase (R163) -/

/-- The archive after a good erase, before the retention test and before oldest held is raised. -/
def sectorErased (a : Area) (k : Nat) (s : State) : State :=
  setOp .idle (setRing a { setDir (ringOf s a) k {} with eraseFails := 0, failTarget := k, broken := none }
    (eraseSector (sectorAddress a k) s))

/-- The archive after a failed erase, before a FAULT. -/
def sectorFailed (a : Area) (k : Nat) (s : State) : State :=
  let s1 := failErase (sectorAddress a k) (noteBroken a k s)
  setOp .idle (setRing a { setDir (ringOf s1 a) k (scanSector (sectorPages s1 a k)) with
    eraseFails := failsOf (ringOf s a) k + 1, failTarget := k } s1)

section
variable {s : State} {a : Area} {k : Nat}

theorem exec_eraseComplete (h : s.arch.op = .erasing a k) (good : Bool) :
    exec (.eraseComplete good) s = .next (flashIdle (eraseEnd good s)) := by
  simp only [exec, execEraseComplete, h]

theorem eraseEnd_own (h : s.arch.op = .erasing .own k) : eraseEnd true s = retentionTest (sectorErased .own k s) := by
  rw [eraseEnd, h]
  rfl

theorem eraseEnd_part {p : Nat} (h : s.arch.op = .erasing (.part p) k) : eraseEnd true s
    = raiseOldest p (sectorHeld (ringOf s (.part p)) k (sectorPages s (.part p) k)) (sectorErased (.part p) k s) := by
  rw [eraseEnd, h]
  rfl

theorem eraseEnd_failed (h : s.arch.op = .erasing a k) : eraseEnd false s
    = if 2 ≤ failsOf (ringOf s a) k + 1 then enterFault (sectorFailed a k s) else sectorFailed a k s := by
  rw [eraseEnd, h]
  rfl

theorem ringOf_sectorErased (listed : a.Listed s) : ringOf (sectorErased a k s) a
    = { setDir (ringOf s a) k {} with eraseFails := 0, failTarget := k, broken := none } :=
  (ringOf_setOp ..).trans (ringOf_setRing (s := eraseSector (sectorAddress a k) s) listed _)

/-- A good erase of either kind of area leaves the archive as erased, but for what the retention test decides. -/
theorem eraseEnd_good (h : s.arch.op = .erasing a k) :
    (eraseEnd true s).arch.flash = (eraseSector (sectorAddress a k) s).arch.flash
    ∧ (eraseEnd true s).arch.own = (sectorErased a k s).arch.own
    ∧ (eraseEnd true s).arch.parts = (sectorErased a k s).arch.parts
    ∧ (eraseEnd true s).arch = { s.arch with
        op := .idle, flash := (eraseEnd true s).arch.flash, own := (eraseEnd true s).arch.own
        parts := (eraseEnd true s).arch.parts, state := (eraseEnd true s).arch.state }
    ∧ (eraseEnd true s).draws = s.draws := by
  cases a with
  | own =>
    rw [eraseEnd_own h]
    exact ⟨by simp [sectorErased], by simp, by simp, Archive.eq_of_fields (by simp [sectorErased]), by simp [sectorErased]⟩
  | part p =>
    rw [eraseEnd_part h]
    exact ⟨by simp [sectorErased], by simp, by simp, Archive.eq_of_fields (by simp [sectorErased]), by simp [sectorErased]⟩

/-- The ring after a good erase: the sector is not listed, and no erase of it has failed. -/
theorem eraseEnd_good_ring (h : s.arch.op = .erasing a k) (listed : a.Listed s) : ringOf (eraseEnd true s) a
    = { setDir (ringOf s a) k {} with eraseFails := 0, failTarget := k, broken := none } := by
  obtain ⟨-, own, parts, -⟩ := eraseEnd_good h
  exact (ringOf_congr own parts a).trans (ringOf_sectorErased listed)

theorem eraseEnd_good_ring_ne (h : s.arch.op = .erasing a k) {b : Area} (other : b ≠ a) :
    ringOf (eraseEnd true s) b = ringOf s b := by
  obtain ⟨-, own, parts, -⟩ := eraseEnd_good h
  have kept : ringOf (sectorErased a k s) b = ringOf (eraseSector (sectorAddress a k) s) b :=
    (ringOf_setOp ..).trans (ringOf_setRing_ne other _ _)
  exact (ringOf_congr own parts b).trans (kept.trans (ringOf_congr (by simp) (by simp) b))

theorem eraseEnd_good_flash (h : s.arch.op = .erasing a k) (x : Nat) : (eraseEnd true s).arch.flash.read x
    = if sectorAddress a k ≤ x ∧ x < sectorAddress a k + 4096 then 0xFF else s.arch.flash.read x := by
  obtain ⟨flash, -⟩ := eraseEnd_good h
  rw [flash]
  exact Memory.read_erase ..

/-- What the retention test makes of the archive after a good erase of the own ring, and nothing makes of it otherwise. -/
theorem eraseEnd_good_tested (h : s.arch.op = .erasing a k) : ∃ v, (a = .own → RetentionTested v (eraseEnd true s))
    ∧ (a ≠ .own → v.arch = (eraseEnd true s).arch) ∧ v.cfg = s.cfg ∧ v.year = s.year
    ∧ v.arch = { s.arch with
        op := .idle, flash := (eraseEnd true s).arch.flash, own := (eraseEnd true s).arch.own
        parts := (eraseEnd true s).arch.parts } := by
  obtain ⟨flash, own, parts, -⟩ := eraseEnd_good h
  refine ⟨sectorErased a k s, fun own => ?_, fun other => ?_, by simp [sectorErased], by simp [sectorErased], ?_⟩
  · subst own
    rw [eraseEnd_own h]
    exact retentionTest_tested _
  · cases a with
    | own => exact absurd rfl other
    | part p => simp [eraseEnd_part h]
  · rw [flash, own, parts]
    exact Archive.eq_of_fields (by simp [sectorErased])

/-- A good erase of the own ring leaves the witnessed origins. -/
theorem eraseEnd_good_origins (h : s.arch.op = .erasing .own k) : (eraseEnd true s).wit = s.wit := by
  simp [eraseEnd_own h, sectorErased]

/-- A good erase of a partition raises its origin's oldest held past what the sector held (R138). -/
theorem eraseEnd_good_origin {p : Nat} {o : Origin} (h : s.arch.op = .erasing (.part p) k) (ho : originAt s p = some o) :
    let seqs := heldSeqs (ringOf s (.part p)) k (sectorPages s (.part p) k)
    ∃ o', originAt (eraseEnd true s) p = some o' ∧ o'.held = o.held ∧ o'.staged = o.staged
      ∧ (o.oldest = none ∨ seqs = [] → o'.oldest = o.oldest)
      ∧ ∀ b m, o.oldest = some b → m ∈ seqs → (∀ x ∈ seqs, x ≤ m) → o'.oldest = some (max b (m + 1)) := by
  intro seqs
  have found : originAt (sectorErased (.part p) k s) p = some o := by simpa [originAt, sectorErased] using ho
  rw [eraseEnd_part h, sectorHeld_eq]
  obtain ⟨empty, -⟩ := maxList_spec seqs
  obtain ⟨o', here, held, staged, still, raised⟩ := raiseOldest_origin found (maxList seqs)
  exact ⟨o', here, held, staged, fun no => still (no.imp_right empty.2),
    fun b m bottom listed above => raised b m bottom (maxList_eq_some listed above)⟩

/-! ## A failed erase (R163, R164) -/

/-- A ring with a directory entry replaced and an erase counted against its sector keeps the write position. -/
theorem ringOf_counted (listed : a.Listed s) (e : DirEntry) (n : Nat) :
    let r := ringOf (setOp .idle (setRing a { setDir (ringOf s a) k e with eraseFails := n, failTarget := k } s)) a
    r.eraseFails = n ∧ r.failTarget = k ∧ r.writePos = (ringOf s a).writePos := by
  rw [ringOf_setOp, ringOf_setRing listed]
  exact ⟨rfl, rfl, rfl⟩

/-- The ring after a failed erase counts it against its target, and keeps the write position. -/
theorem ringOf_sectorFailed (listed : a.Listed s) :
    (ringOf (sectorFailed a k s) a).eraseFails = failsOf (ringOf s a) k + 1
    ∧ (ringOf (sectorFailed a k s) a).failTarget = k
    ∧ (ringOf (sectorFailed a k s) a).writePos = (ringOf s a).writePos := by
  have still : a.Listed (failErase (sectorAddress a k) (noteBroken a k s)) := fun p part => by
    subst part
    simpa [noteBroken, setRing] using listed p rfl
  have noted : ringOf (failErase (sectorAddress a k) (noteBroken a k s)) a = ringOf (noteBroken a k s) a :=
    ringOf_congr (by simp) (by simp) a
  obtain ⟨position, -⟩ := ringOf_noteBroken a a k s
  rw [← position, ← noted]
  exact ringOf_counted still ..

/-- The end of a failed erase is a FAULT from the second one of its target on, and changes no more of the archive. -/
theorem eraseEnd_failed_arch (h : s.arch.op = .erasing a k) :
    (eraseEnd false s).arch.flash = (failErase (sectorAddress a k) (noteBroken a k s)).arch.flash
    ∧ (∀ b, ringOf (eraseEnd false s) b = ringOf (sectorFailed a k s) b)
    ∧ (eraseEnd false s).arch = { s.arch with
        op := .idle, flash := (eraseEnd false s).arch.flash, own := (eraseEnd false s).arch.own
        parts := (eraseEnd false s).arch.parts, state := (eraseEnd false s).arch.state }
    ∧ (eraseEnd false s).wit = s.wit
    ∧ (failsOf (ringOf s a) k + 1 < 2 → (eraseEnd false s).arch.state = s.arch.state)
    ∧ (2 ≤ failsOf (ringOf s a) k + 1 → (eraseEnd false s).arch.state = .fault
        ∧ (s.arch.state ≠ .fault → flagSet (eraseEnd false s) .archive = true)) := by
  have state : (sectorFailed a k s).arch.state = s.arch.state := by simp [sectorFailed]
  have wit : (sectorFailed a k s).wit = s.wit := by simp [sectorFailed]
  rw [eraseEnd_failed h]
  split
  · rename_i second
    refine ⟨by simp [sectorFailed], ringOf_congr (by simp) (by simp), Archive.eq_of_fields (by simp [sectorFailed]),
      by simp [wit], fun first => by omega, fun _ => ⟨enterFault_state _, fun ready => ?_⟩⟩
    rw [flagSet_enterFault, state]
    simp [ready]
  · rename_i first
    exact ⟨by simp [sectorFailed], fun _ => rfl, Archive.eq_of_fields (by simp [sectorFailed]), wit, fun _ => state,
      fun second => absurd second first⟩

end

/-- Settles O39: a good end, a failed one, and what a flash-idle event starts. -/
theorem erasesClearTheirSectorOrAreCounted : Obligations.ErasesClearTheirSectorOrAreCounted := by
  refine ⟨fun s a k h listed => ?_, fun s a k canonical h listed => ?_, fun s => ⟨fun no => if_pos no, fun idle unread =>
    ⟨fun on => ?_, fun unset elsewhere => ?_⟩⟩⟩
  · intro first
    have address : first = sectorAddress a k := by cases a <;> rfl
    obtain ⟨-, -, -, arch, draws⟩ := eraseEnd_good h
    have ring := eraseEnd_good_ring h listed
    refine ⟨_, exec_eraseComplete h true, fun x => ?_, ?_, ?_, ?_, ?_, ?_, ⟨rfl, fun j other => ?_, fun b other => ?_,
      eraseEnd_good_tested h⟩, fun own n => ?_, fun p o part ho => ?_, State.eq_of_blocks (by simp [draws])⟩
    · rw [address, (flashIdle_fields _).1]
      exact eraseEnd_good_flash h x
    · rw [ringOf_flashIdle, ring]
      exact setDir_erased (ringOf s a) k {} rfl
    · rw [ringOf_flashIdle, ring]
    · rw [ringOf_flashIdle, ring]
      rfl
    · simp
    · simp
    · rw [ring]
      exact dirEntry_setDir_ne (ringOf s a) k {} other
    · exact eraseEnd_good_ring_ne h other
    · subst own
      rw [originAt_flashIdle, originAt, eraseEnd_good_origins h]
      rfl
    · subst part
      rw [originAt_flashIdle]
      exact eraseEnd_good_origin h ho
  · intro first n
    have address : first = sectorAddress a k := by cases a <;> rfl
    obtain ⟨flash, ring, arch, wit, once, twice⟩ := eraseEnd_failed_arch h
    obtain ⟨fails, target, position⟩ := ringOf_sectorFailed (k := k) listed
    have flash : (flashIdle (eraseEnd false s)).arch.flash
        = (failErase (sectorAddress a k) (noteBroken a k s)).arch.flash := (flashIdle_fields _).1.trans flash
    have noted : (noteBroken a k s).arch.flash = s.arch.flash := by simp
    have canonical : (noteBroken a k s).arch.flash.wf = true := noted ▸ canonical
    refine ⟨_, exec_eraseComplete h false, fun x out => ?_, ?_, ?_, ?_, ?_, ?_, ?_, ⟨rfl, ?_⟩, fun low => ?_, fun high => ?_,
      fun p => ?_, State.eq_of_blocks (by simp)⟩
    · rw [flash, failErase_read canonical _ (address ▸ out), noted]
    · rw [flash, address]
      exact failErase_not_blank canonical _
    · rw [ringOf_flashIdle, ring, fails]
      rfl
    · rw [ringOf_flashIdle, ring, target]
    · rw [ringOf_flashIdle, ring, position]
    · simp
    · simp
    · exact arch
    · simpa using once low
    · simpa using twice high
    · rw [originAt_flashIdle, originAt, wit]
      rfl
  · have started : flashIdle s = startOperation s :=
      flashIdle_starts idle unread (operationsOn_iff.2 on)
    rw [started]
    exact startOperation_started s
  · exact flashIdle_off unread (fun on => (operationsOn_iff.1 on).elim unset elsewhere)

end Sys2Proof.Machine
end

section
/-! The ends of programs (R138, R151, R152, R154, R158, R159): what they leave of the page, of its ring and of the archive. -/

namespace Sys2Proof.Machine

/-! ## The page (R151, R152) -/

/-- The bytes of a record's page fill the page. -/
theorem pageBytesOf_fills {r : Rec} (short : r.body.length ≤ 241) : (pageBytesOf r).length = 256 := by
  rw [pageBytesOf_eq, pageRest, List.length_append, List.length_append, pageCovered_length, beBytes_length,
    List.length_replicate]
  omega

theorem voidBytes_length (draw : Nat) : (voidBytes draw).length = 256 := by simp [voidBytes]

/-- No program changes a byte outside its page, whatever the bytes are, when they are a page's. -/
theorem programPage_outside {s : State} (w : s.arch.flash.wf = true) (a : Nat) {bytes : List Byte} {good : Bool}
    (page : good = true → bytes.length = 256) {x : Nat} (out : x < a ∨ a + 256 ≤ x) :
    (programPage a bytes good s).arch.flash.read x = s.arch.flash.read x := by
  cases good with
  | true => exact Memory.read_program_outside w a bytes (by rw [page rfl]; exact out)
  | false => exact Memory.read_program_outside w a (voidBytes s.draws) (by rw [voidBytes_length]; exact out)

/-- A good program leaves the bits that both the page and its bytes have. -/
theorem programPage_inside {s : State} (w : s.arch.flash.wf = true) (a : Nat) {bytes : List Byte}
    (page : bytes.length = 256) {i : Nat} (inside : i < 256) :
    (programPage a bytes true s).arch.flash.read (a + i) = s.arch.flash.read (a + i) &&& bytes.getD i 0 :=
  Memory.read_program_inside w a bytes (by omega)

/-- A failed program leaves the two marker bytes 0. -/
theorem programPage_void {s : State} (w : s.arch.flash.wf = true) (a : Nat) (bytes : List Byte) :
    (programPage a bytes false s).arch.flash.read a = 0 ∧ (programPage a bytes false s).arch.flash.read (a + 1) = 0 := by
  have byte {i : Nat} (marker : i < 2) : (programPage a bytes false s).arch.flash.read (a + i) = 0 := by
    refine (Memory.read_program_inside w a (voidBytes s.draws) (by rw [voidBytes_length]; omega)).trans ?_
    have zero : (voidBytes s.draws).getD i 0 = 0 := by
      obtain rfl | rfl : i = 0 ∨ i = 1 := by omega
      · rfl
      · rfl
    rw [zero]
    exact BitVec.and_zero
  exact ⟨byte (i := 0) (by omega), byte (i := 1) (by omega)⟩

/-! ## The ring (R151, R154) -/

/-- The state once a program of the page at the write position of an area has ended. -/
def pageProgrammed (a : Area) (good : Bool) (r : Rec) (s : State) : State :=
  setOp .idle (ringAfterProgram a good r
    (programPage (pageAddress a (ringOf s a).writePos) (pageBytesOf r) good s))

section
variable {a : Area} {good : Bool} {r : Rec} {s : State}

theorem pageProgrammed_flash : (pageProgrammed a good r s).arch.flash
    = (programPage (pageAddress a (ringOf s a).writePos) (pageBytesOf r) good s).arch.flash := by
  simp [pageProgrammed, ringAfterProgram]

theorem pageProgrammed_arch : (pageProgrammed a good r s).arch = { s.arch with
    op := .idle, flash := (pageProgrammed a good r s).arch.flash, own := (pageProgrammed a good r s).arch.own
    parts := (pageProgrammed a good r s).arch.parts } :=
  Archive.eq_of_fields (by simp [pageProgrammed, ringAfterProgram])

/-- A program changes the archive alone, and a failed one the draws. -/
theorem pageProgrammed_blocks : pageProgrammed a good r s
    = (s.setArch (pageProgrammed a good r s).arch).setDraws (if good then s.draws else s.draws + 1) :=
  State.eq_of_blocks (by cases good <;> simp [pageProgrammed, programPage])

/-- The ring of the page's area after the program. -/
theorem ringOf_pageProgrammed (listed : a.Listed s) :
    ringOf (pageProgrammed a good r s) a = { setDir (ringOf s a) ((ringOf s a).writePos / 16)
        (dirAfterProgram (dirEntry (ringOf s a) ((ringOf s a).writePos / 16)) (ringOf s a).writePos good r.seq (yearOf r.start))
      with writePos := nextPage a (ringOf s a).writePos } := by
  let s1 := programPage (pageAddress a (ringOf s a).writePos) (pageBytesOf r) good s
  have parts : s1.arch.parts = s.arch.parts := by simp [s1]
  have ring : ringOf s1 a = ringOf s a := ringOf_congr (by simp [s1]) parts a
  have still : a.Listed s1 := fun p part => parts ▸ listed p part
  rw [← ring]
  exact (ringOf_setOp ..).trans (ringOf_setRing still _)

theorem ringOf_pageProgrammed_ne {b : Area} (other : b ≠ a) : ringOf (pageProgrammed a good r s) b = ringOf s b :=
  (ringOf_setOp ..).trans ((ringOf_setRing_ne other _ _).trans (ringOf_congr (by simp) (by simp) b))

/-- The write position moves on, and the directory entry of the page's sector follows. -/
theorem pageProgrammed_follows (listed : a.Listed s) : DirectoryFollows good a r s (pageProgrammed a good r s) := by
  simp only [DirectoryFollows]
  rw [ringOf_pageProgrammed listed]
  generalize ringOf s a = g
  have filled (e : DirEntry) : (dirAfterProgram e g.writePos good r.seq (yearOf r.start)).state ≠ .erased := by
    unfold dirAfterProgram
    cases good <;> (by_cases last : g.writePos % 16 = 15) <;> simp [last]
  refine ⟨rfl, fun k other => dirEntry_setDir_ne g (g.writePos / 16) _ other,
    (dirEntry_setDir g (g.writePos / 16) _ (filled _)).trans ?_⟩
  cases good <;> rfl

end

/-- What a program's end does to its ring is told from that ring. -/
theorem DirectoryFollows.congr {good : Bool} {a : Area} {r : Rec} {s t u : State} (h : DirectoryFollows good a r s t)
    (ring : ringOf u a = ringOf t a) : DirectoryFollows good a r s u := by
  simpa only [DirectoryFollows, ring] using h

/-! ## A failed program (R158, R159, R164) -/

/-- The archive after a failed program: the failure run goes up, and is a FAULT at 3. -/
theorem programFailed_arch (s : State) : (programFailed s).arch = { s.arch with
    failureRun := s.arch.failureRun + 1, state := if 3 ≤ s.arch.failureRun + 1 then .fault else s.arch.state } := by
  by_cases third : 3 ≤ s.arch.failureRun + 1
  · simp only [programFailed, countUp_frame, State.setArch_arch, if_pos third]
    refine Archive.eq_of_fields ?_
    simp [enterFault_state]
  · simp only [programFailed, countUp_frame, State.setArch_arch, if_neg third]

/-- It counts one defective page. -/
theorem programFailed_year (s : State) : (programFailed s).year = { s.year with day := { s.year.day with
    defective := min 4294967295 (s.year.day.defective + 1) } } := by
  simp only [programFailed]
  split
  · simp only [enterFault_frame]
    rfl
  · rfl

/-- At a failure run of 3 the FAULT raises ARCHIVE. -/
theorem programFailed_archive {s : State} (third : 2 ≤ s.arch.failureRun) :
    (programFailed s).arch.state = .fault ∧ (s.arch.state ≠ .fault → flagSet (programFailed s) .archive = true) := by
  have run : 3 ≤ s.arch.failureRun + 1 := by omega
  refine ⟨by rw [programFailed_arch]; exact if_pos run, fun ready => ?_⟩
  simp only [programFailed, countUp_frame, State.setArch_arch, if_pos run]
  rw [flagSet_enterFault]
  simp [ready]

/-! ## The end of a program, by its area -/

theorem exec_programComplete {s : State} {a : Area} (h : s.arch.op = .programming a) (good : Bool) :
    exec (.programComplete good) s = .next (flashIdle (programEnd good s)) := by
  simp only [exec, execProgramComplete, h]

/-- The own ring after the program of an entry, with the entry in its new state, not placed. -/
def entryProgrammed (good : Bool) (e : OutEntry) (s : State) : State :=
  let u := pageProgrammed .own good (e.toRec s.cfg.own) s
  u.setArch { u.arch with
    outbound := modifyFirst (fun y => y.state == .programming)
      (fun y => { y with state := if good then .waitingPublish else .waitingArchive, placed := false }) u.arch.outbound }

/-- The state once an own record is archived, before it is reported. -/
def entryArchived (e : OutEntry) (s : State) : State :=
  let u := entryProgrammed true e s
  renewRelease (u.setArch { u.arch with latest := e.seq.getD 0, failureRun := 0 })

section
variable {s : State} (own : s.arch.op = .programming .own) {e : OutEntry}
  (found : s.arch.outbound.find? (fun x => x.state == .programming) = some e)
include own found

theorem programEnd_own_good : programEnd true s
    = retentionTest (wakeFollows s.cfg.own (ownArchived (e.toRec s.cfg.own) (entryArchived e s))) := by
  simp only [programEnd, own, ownProgramEnd, found]
  rfl

theorem programEnd_own_failed : programEnd false s = retentionTest (programFailed (entryProgrammed false e s)) := by
  simp only [programEnd, own, ownProgramEnd, found]
  rfl

end

/-- An origin once its head staged record is held (R138). -/
def Origin.copied (o : Origin) (x : Staged) (rest : List Staged) : Origin :=
  { o with held := x.record.seq, oldest := some (o.oldest.getD x.record.seq), staged := rest }

/-- The state once the head staged record of an origin is held, before it is reported. -/
def stagedHeld (p : Nat) (o : Origin) (x : Staged) (rest : List Staged) (s : State) : State :=
  let u := setOrigin (o.copied x rest) (pageProgrammed (.part p) true x.record s)
  u.setArch { u.arch with failureRun := 0 }

section
variable {s : State} {p : Nat} (part : s.arch.op = .programming (.part p)) {o : Origin} (ho : originAt s p = some o)
  {x : Staged} {rest : List Staged} (staged : o.staged = x :: rest)
include part ho staged

theorem programEnd_part_good : programEnd true s
    = testGaps (reportHeld (o.copied x rest) (stagedHeld p o x rest s)) := by
  simp only [programEnd, part, partProgramEnd, ho, staged]
  rfl

theorem programEnd_part_failed : programEnd false s
    = testGaps (floorJump p (programFailed (pageProgrammed (.part p) false x.record s))) := by
  simp only [programEnd, part, partProgramEnd, ho, staged]
  rfl

end

end Sys2Proof.Machine
end

section
/-! What the end of a program leaves, by its area (R138 to R140, R149, R157, R158): for O37 and O38. -/

namespace Sys2Proof.Machine

/-! ## The own record (R140, R149, R157, R158) -/

/-- The release waits while an archived entry is unplaced: where it did not wait before, with the next ticket. -/
theorem renewRelease_arch {s : State} (waits : s.arch.outbound.any unplaced = true) :
    (renewRelease s).arch = { s.arch with releaseTicket := some (s.arch.releaseTicket.getD s.port.ticket) } := by
  cases ticket : s.arch.releaseTicket with
  | none => simp only [renewRelease, waits, ticket, if_true]; rfl
  | some n =>
    simp only [renewRelease, waits, ticket, if_true]
    exact Archive.eq_of_fields (by simp [ticket])

/-- The number archived is the year start sequence when it is the first of the year open (R140). -/
theorem ownArchived_yearStart (r : Rec) (s : State) :
    (s.wit.yearStart = none → s.year.openYear = some (yearOf r.start) → (ownArchived r s).wit.yearStart = some r.seq)
    ∧ (s.wit.yearStart ≠ none ∨ s.year.openYear ≠ some (yearOf r.start) →
        (ownArchived r s).wit.yearStart = s.wit.yearStart) := by
  simp only [ownArchived, lagTest_frame]
  split
  · rename_i first
    obtain ⟨unknown, current⟩ := first
    exact ⟨fun _ _ => rfl, fun no => no.elim (absurd unknown) (absurd current)⟩
  · rename_i no
    exact ⟨fun unknown current => absurd ⟨unknown, current⟩ no, fun _ => rfl⟩

/-- The lag is tested at the number archived. -/
theorem ownArchived_lag (r : Rec) (s : State) :
    (WitnessLags s → flagSet (ownArchived r s) .witnessLag = true)
    ∧ (¬ WitnessLags s → flagSet (ownArchived r s) .witnessLag = flagSet s .witnessLag) := by
  simp only [ownArchived]
  split
  · exact flagSet_lagTest (s.setWit { s.wit with yearStart := some r.seq })
  · exact flagSet_lagTest s

/-- No ring but the own one changes, and the oldest entry in PROGRAMMING takes its new state. -/
theorem entryProgrammed_arch {s : State} {older younger : List OutEntry} {e : OutEntry}
    (split : s.arch.outbound = older ++ e :: younger) (state : e.state = .programming)
    (before : ∀ x ∈ older, x.state ≠ .programming) (good : Bool) :
    let r := e.toRec s.cfg.own
    (entryProgrammed good e s).arch = { s.arch with
      op := .idle, flash := (pageProgrammed .own good r s).arch.flash, own := (pageProgrammed .own good r s).arch.own
      outbound := older
        ++ { e with state := if good then .waitingPublish else .waitingArchive, placed := false } :: younger } := by
  intro r
  have changed := modifyFirst_split (fun y : OutEntry => y.state == .programming)
    (fun y => { y with state := if good then .waitingPublish else .waitingArchive, placed := false }) older younger e
    (by simp [state]) (by simpa using before)
  have parts : (pageProgrammed .own good r s).arch.parts = s.arch.parts := by
    simp [pageProgrammed, ringAfterProgram, setRing]
  have outbound : (pageProgrammed .own good r s).arch.outbound = s.arch.outbound := by rw [pageProgrammed_arch]
  simp only [entryProgrammed, State.setArch_arch]
  rw [outbound, split, changed, pageProgrammed_arch, parts]

/-- The archive once an own record is archived: its entry waits to be published, and the release waits. -/
theorem entryArchived_arch {s : State} {older younger : List OutEntry} {e : OutEntry}
    (split : s.arch.outbound = older ++ e :: younger) (state : e.state = .programming)
    (before : ∀ x ∈ older, x.state ≠ .programming) :
    (entryArchived e s).arch = { s.arch with
      op := .idle, flash := (entryArchived e s).arch.flash, own := (entryArchived e s).arch.own
      latest := e.seq.getD 0, failureRun := 0
      outbound := older ++ { e with state := .waitingPublish, placed := false } :: younger
      releaseTicket := some (s.arch.releaseTicket.getD s.port.ticket) } := by
  have arch := entryProgrammed_arch split state before true
  have port : (entryProgrammed true e s).port = s.port := by simp [entryProgrammed, pageProgrammed]
  have waits : (entryProgrammed true e s).arch.outbound.any unplaced = true := by
    rw [arch]
    simp [unplaced]
  have renewed : (entryArchived e s).arch = { (entryProgrammed true e s).arch with
      latest := e.seq.getD 0, failureRun := 0
      releaseTicket := some ((entryProgrammed true e s).arch.releaseTicket.getD (entryProgrammed true e s).port.ticket) } :=
    renewRelease_arch waits
  have flash := congrArg Archive.flash renewed
  have own := congrArg Archive.own renewed
  rw [flash, own, renewed, port, arch]
  rfl

/-- Before it is reported, an own record changes the archive and the tickets of the port alone. -/
theorem entryArchived_blocks (e : OutEntry) (s : State) : entryArchived e s
    = (s.setArch (entryArchived e s).arch).setPort (entryArchived e s).port := by
  simp only [entryArchived, entryProgrammed]
  rw [pageProgrammed_blocks]
  exact State.eq_of_blocks (by simp)

/-- Where the entry stands that is programmed. -/
theorem programming_split {s : State} {e : OutEntry}
    (found : s.arch.outbound.find? (fun x => x.state == .programming) = some e) : ∃ older younger, s.arch.outbound = older ++ e :: younger ∧ e.state = .programming
    ∧ ∀ x ∈ older, x.state ≠ .programming := by
  obtain ⟨older, younger, split, this, before⟩ := find_split_at found
  exact ⟨older, younger, split, by simpa using this, by simpa using before⟩

/-- Before it is reported, the archiving of an own record leaves the lag test its witness unit, and the flags. -/
theorem entryArchived_lags {s : State} {e : OutEntry} {q : Nat} (number : e.seq = some q) :
    (WitnessLags (entryArchived e s) ↔ (∀ n, s.wit.lagHoldoff = some n → 614400 ≤ s.elapsed - n) ∧ 0 < s.cfg.quorum
      ∧ s.wit.secured + 96 ≤ q)
    ∧ ∀ c, flagSet (entryArchived e s) c = flagSet s c := by
  have latest : (entryArchived e s).arch.latest = q := by simp [entryArchived, number]
  rw [WitnessLags, latest, entryArchived_blocks]
  exact ⟨Iff.rfl, fun _ => rfl⟩

section
variable {s : State} (own : s.arch.op = .programming .own) {e : OutEntry}
  (found : s.arch.outbound.find? (fun x => x.state == .programming) = some e)
include own found

/-- The flash and the own ring after the program are those that the program leaves. -/
theorem programEnd_own_ring (good : Bool) :
    (programEnd good s).arch.flash = (pageProgrammed .own good (e.toRec s.cfg.own) s).arch.flash
    ∧ (programEnd good s).arch.own = (pageProgrammed .own good (e.toRec s.cfg.own) s).arch.own := by
  cases good with
  | true => simp [programEnd_own_good own found, entryArchived, entryProgrammed]
  | false => simp [programEnd_own_failed own found, entryProgrammed]

/-- The flash changes in the page programmed alone. -/
theorem programEnd_own_outside (canonical : FlashCanonical s) {good : Bool} (body : good = true → e.body.length ≤ 224)
    {x : Nat} (out : x < pageAddress .own s.arch.own.writePos ∨ pageAddress .own s.arch.own.writePos + 256 ≤ x) :
    (programEnd good s).arch.flash.read x = s.arch.flash.read x := by
  obtain ⟨flash, -⟩ := programEnd_own_ring own found good
  rw [flash, pageProgrammed_flash]
  exact programPage_outside canonical _ (fun h => pageBytesOf_fills ((body h).trans (by decide))) out

theorem programEnd_own_follows (good : Bool) :
    DirectoryFollows good .own (e.toRec s.cfg.own) s (programEnd good s) := by
  obtain ⟨-, ring⟩ := programEnd_own_ring own found good
  exact (pageProgrammed_follows fun p part => by cases part).congr ring

end

/-! ## The head staged record (R138, R139, R170) -/

/-- The tests of the GAP conditions leave of the origin of a partition all but its GAP. -/
theorem testGaps_originAt {s : State} {p : Nat} {o : Origin} (distinct : (s.wit.origins.map (·.place)).Nodup)
    (ho : originAt s p = some o) : ∃ g, originAt (testGaps s) p = some { o with gap := g } := by
  have found (l : List Origin) : (l.map (fun y => { y with gap := none })).find? (fun y => y.place == p)
      = (l.find? (fun y => y.place == p)).map (fun y => { y with gap := none }) := List.find?_map ..
  have same := found (testGaps s).wit.origins
  rw [(testGaps_formed s).others distinct, found] at same
  change (originAt s p).map _ = (originAt (testGaps s) p).map _ at same
  rw [ho] at same
  obtain ⟨y, hy, alike⟩ := Option.map_eq_some_iff.1 same.symm
  refine ⟨y.gap, hy.trans (congrArg some ?_)⟩
  cases y
  cases o
  simp only [Origin.mk.injEq] at alike ⊢
  simp [alike]

/-- What is reported of a record held: the copy that has it, or where a floor jump is due what that leaves of it; the FOLLOW
jobs of its origin are woken once. -/
theorem reportHeld_split {s : State} {o : Origin} (ho : originAt s o.place = some o)
    (free : s.arch.op ≠ .programming (.part o.place)) : ∃ w, reportHeld o s = wakeFollows o.station w
      ∧ (o.floor ≤ o.expected → w = s)
      ∧ (o.expected < o.floor → w = setOrigin o.jumped (countUp .skips (o.floor - 1 - o.held) s)) := by
  by_cases due : o.expected < o.floor
  · refine ⟨_, ?_, fun low => absurd low (Nat.not_le.2 due), fun _ => rfl⟩
    rw [reportHeld, if_pos due, floorJump_due ho due free]
  · exact ⟨s, by rw [reportHeld, if_neg due], fun _ => rfl, fun high => absurd high due⟩

section
variable {s : State} {p : Nat} {o : Origin} {x : Staged} {rest : List Staged}

/-- The number of the head staged record follows the held mark, and the copy that has it expects the number after the last
staged one. -/
theorem copied_expected (accounted : StagingAccounted s) (ho : originAt s p = some o) (staged : o.staged = x :: rest) :
    x.record.seq = o.held + 1 ∧ (o.copied x rest).expected = o.held + 2 + rest.length := by
  have numbers := accounted.consecutive o (originAt_mem ho)
  rw [staged, List.map_cons, List.length_cons, List.range'_succ, List.cons.injEq] at numbers
  obtain ⟨first, -⟩ := numbers
  refine ⟨first, ?_⟩
  simp only [Origin.expected, Origin.copied, first]
  omega

theorem stagedHeld_wit : (stagedHeld p o x rest s).wit = (setOrigin (o.copied x rest) s).wit := by
  have wit : (pageProgrammed (.part p) true x.record s).wit = s.wit := by simp [pageProgrammed]
  simp only [stagedHeld, setOrigin, State.setArch_wit, State.setWit_wit, wit]

/-- Before it is reported, a record held changes the archive and the origins alone. -/
theorem stagedHeld_blocks : stagedHeld p o x rest s
    = (s.setArch (stagedHeld p o x rest s).arch).setWit (stagedHeld p o x rest s).wit :=
  State.eq_of_blocks (by simp [stagedHeld, pageProgrammed, programPage])

/-- The archive once the record is held: the page is programmed, and the failure run is 0. -/
theorem stagedHeld_arch : (stagedHeld p o x rest s).arch = { s.arch with
    op := .idle, flash := (pageProgrammed (.part p) true x.record s).arch.flash
    parts := (pageProgrammed (.part p) true x.record s).arch.parts, failureRun := 0 } :=
  Archive.eq_of_fields (by simp [stagedHeld, pageProgrammed, ringAfterProgram, setRing])

/-- The report of the record held, and the copy that the origin then has: with a floor above what is expected, the one that
the floor jump leaves (R139). -/
theorem stagedHeld_reported (accounted : StagingAccounted s) (ho : originAt s p = some o) (staged : o.staged = x :: rest) :
    ∃ w new, reportHeld (o.copied x rest) (stagedHeld p o x rest s) = wakeFollows o.station w
      ∧ w = ((s.setArch (stagedHeld p o x rest s).arch).setWit (setOrigin new s).wit).setYear w.year ∧ new.place = p
      ∧ (o.floor ≤ o.held + 2 + rest.length → new = o.copied x rest ∧ w.year = s.year)
      ∧ (o.held + 2 + rest.length < o.floor → new = (o.copied x rest).jumped
          ∧ w.year = { s.year with day := { s.year.day with
              skips := min 4294967295 (s.year.day.skips + (o.floor - 2 - o.held)) } }) := by
  obtain ⟨number, expected⟩ := copied_expected accounted ho staged
  have place : o.place = p := originAt_place ho
  have member := originAt_mem ho
  have blocks := stagedHeld_blocks (s := s) (p := p) (o := o) (x := x) (rest := rest)
  have copied : originAt (stagedHeld p o x rest s) (o.copied x rest).place = some (o.copied x rest) := by
    rw [originAt, stagedHeld_wit]
    exact originAt_setOrigin_of_mem (o := o) (o' := o.copied x rest) member rfl
  have free : (stagedHeld p o x rest s).arch.op ≠ .programming (.part (o.copied x rest).place) := by
    rw [stagedHeld_arch]
    simp
  have wit := stagedHeld_wit (s := s) (p := p) (o := o) (x := x) (rest := rest)
  obtain ⟨w, reported, low, high⟩ := reportHeld_split copied free
  rw [expected] at low high
  generalize stagedHeld p o x rest s = h at *
  have year : h.year = s.year := by rw [blocks]; rfl
  by_cases due : o.held + 2 + rest.length < o.floor
  · have once := congrArg State.wit (setOrigin_setOrigin (s := s) (o := o.copied x rest)
      (o' := (o.copied x rest).jumped) rfl)
    have skipped : (o.copied x rest).floor - 1 - (o.copied x rest).held = o.floor - 2 - o.held := by
      change o.floor - 1 - x.record.seq = _
      omega
    have is := high due
    rw [skipped] at is
    refine ⟨w, (o.copied x rest).jumped, reported, ?_, place, fun low => absurd due (Nat.not_lt.2 low), fun _ => ⟨rfl, ?_⟩⟩
    · rw [← once, is]
      refine State.eq_of_blocks ?_
      rw [blocks, wit]
      simp [setOrigin]
    · rw [is, ← year]
      rfl
  · have is := low (Nat.not_lt.1 due)
    refine ⟨w, o.copied x rest, reported, ?_, place, fun _ => ⟨rfl, by rw [is, year]⟩, fun high => absurd high due⟩
    rw [is, ← wit, year]
    exact blocks

end

section
variable {s : State} {p : Nat} (part : s.arch.op = .programming (.part p)) {o : Origin} (ho : originAt s p = some o)
  {x : Staged} {rest : List Staged} (staged : o.staged = x :: rest)
include part ho staged

/-- The flash and the rings after the program are those that the program leaves. -/
theorem programEnd_part_ring (good : Bool) :
    (programEnd good s).arch.flash = (pageProgrammed (.part p) good x.record s).arch.flash
    ∧ ∀ a, ringOf (programEnd good s) a = ringOf (pageProgrammed (.part p) good x.record s) a := by
  cases good with
  | true =>
    rw [programEnd_part_good part ho staged]
    exact ⟨by simp [stagedHeld], ringOf_congr (by simp [stagedHeld]) (by simp [stagedHeld])⟩
  | false =>
    rw [programEnd_part_failed part ho staged]
    exact ⟨by simp, ringOf_congr (by simp) (by simp)⟩

/-- The flash changes in the page programmed alone. -/
theorem programEnd_part_outside (canonical : FlashCanonical s) {good : Bool} (body : good = true → x.record.body.length ≤ 224)
    {a : Nat} (out : a < pageAddress (.part p) (ringOf s (.part p)).writePos
      ∨ pageAddress (.part p) (ringOf s (.part p)).writePos + 256 ≤ a) :
    (programEnd good s).arch.flash.read a = s.arch.flash.read a := by
  obtain ⟨flash, -⟩ := programEnd_part_ring part ho staged good
  rw [flash, pageProgrammed_flash]
  exact programPage_outside canonical _ (fun h => pageBytesOf_fills ((body h).trans (by decide))) out

theorem programEnd_part_follows (listed : p < s.arch.parts.length) (good : Bool) :
    DirectoryFollows good (.part p) x.record s (programEnd good s) := by
  obtain ⟨-, ring⟩ := programEnd_part_ring part ho staged good
  refine (pageProgrammed_follows fun q same => ?_).congr (ring _)
  cases same
  exact listed

theorem programEnd_part_ring_ne (good : Bool) {i : Nat} (other : i ≠ p) :
    ringOf (programEnd good s) (.part i) = ringOf s (.part i) := by
  obtain ⟨-, ring⟩ := programEnd_part_ring part ho staged good
  exact (ring _).trans (ringOf_pageProgrammed_ne fun same => by cases same; exact other rfl)

end

end Sys2Proof.Machine
end

section
/-! O37, GoodProgramsArchiveTheirRecords. -/

namespace Sys2Proof.Machine

/-! ## The report of an own record (R140, R149, R158, R162) -/

section
variable {s : State} (own : s.arch.op = .programming .own) {e : OutEntry}
  (found : s.arch.outbound.find? (fun x => x.state == .programming) = some e) {q : Nat} (number : e.seq = some q)
include own found number

/-- An own record archived: the state that is reported, to which the report and the retention test come. -/
theorem programEnd_own_reported : ∃ w, programEnd true s = retentionTest (wakeFollows s.cfg.own w)
    ∧ w.arch = (entryArchived e s).arch ∧ w = (((s.setArch w.arch).setPort w.port).setWit w.wit).setRetr w.retr
    ∧ w.retr.jobs = s.retr.jobs
    ∧ (s.wit.yearStart = none → s.year.openYear = some (yearOf e.start) → w.wit.yearStart = some q)
    ∧ (s.wit.yearStart ≠ none ∨ s.year.openYear ≠ some (yearOf e.start) → w.wit.yearStart = s.wit.yearStart)
    ∧ (let lag := (∀ n, s.wit.lagHoldoff = some n → 614400 ≤ s.elapsed - n) ∧ 0 < s.cfg.quorum
        ∧ s.wit.secured + 96 ≤ q
      (lag → flagSet w .witnessLag = true) ∧ (¬ lag → flagSet w .witnessLag = flagSet s .witnessLag)) := by
  have blocks := entryArchived_blocks e s
  have wit : (entryArchived e s).wit = s.wit := by rw [blocks]; rfl
  have year : (entryArchived e s).year = s.year := by rw [blocks]; rfl
  have jobs : (ownArchived (e.toRec s.cfg.own) (entryArchived e s)).retr.jobs = s.retr.jobs := by
    simp [entryArchived, entryProgrammed, pageProgrammed]
  have seq : (e.toRec s.cfg.own).seq = q := by simp [OutEntry.toRec, number]
  obtain ⟨first, other⟩ := ownArchived_yearStart (e.toRec s.cfg.own) (entryArchived e s)
  obtain ⟨lags, level⟩ := ownArchived_lag (e.toRec s.cfg.own) (entryArchived e s)
  obtain ⟨due, flags⟩ := entryArchived_lags (s := s) number
  rw [wit, year] at first other
  rw [seq] at first
  rw [flags] at level
  refine ⟨_, programEnd_own_good own found, by simp, State.eq_of_blocks ?_, jobs, first, other, fun lag => lags (due.2 lag),
    fun no => level fun lag => no (due.1 lag)⟩
  rw [blocks]
  simp

end

/-! ## The report of a record held (R138, R139, R170) -/

section
variable {s : State} {p : Nat} (part : s.arch.op = .programming (.part p)) {o : Origin} (ho : originAt s p = some o)
  {x : Staged} {rest : List Staged} (staged : o.staged = x :: rest) (accounted : StagingAccounted s)
include part ho staged accounted

/-- A record of an origin held: the state that is reported, with the new copy in the place of the old one, to which the report
and the tests of the GAP conditions come. -/
theorem programEnd_part_reported : ∃ w new gap, programEnd true s = testGaps (wakeFollows o.station w)
    ∧ originAt (programEnd true s) p = some { new with gap := gap }
    ∧ w.arch = (stagedHeld p o x rest s).arch ∧ w = ((s.setArch w.arch).setWit w.wit).setYear w.year
    ∧ w.wit = { s.wit with origins := s.wit.origins.map (fun y => if y.place = p then new else y) }
    ∧ (o.floor ≤ o.held + 2 + rest.length → new = o.copied x rest ∧ w.year = s.year)
    ∧ (o.held + 2 + rest.length < o.floor → new = (o.copied x rest).jumped
        ∧ w.year = { s.year with day := { s.year.day with
            skips := min 4294967295 (s.year.day.skips + (o.floor - 2 - o.held)) } }) := by
  obtain ⟨w, new, reported, blocks, place, low, high⟩ := stagedHeld_reported accounted ho staged
  have arch : w.arch = (stagedHeld p o x rest s).arch := by rw [blocks]; rfl
  have wit : w.wit = (setOrigin new s).wit := by rw [blocks]; rfl
  have ends : programEnd true s = testGaps (wakeFollows o.station w) := by rw [programEnd_part_good part ho staged, reported]
  have woken : (wakeFollows o.station w).wit = (setOrigin new s).wit := by simp [wit]
  have distinct : ((wakeFollows o.station w).wit.origins.map (·.place)).Nodup := by
    rw [woken, setOrigin_places]
    exact accounted.partitions
  have here : originAt (wakeFollows o.station w) p = some new := by
    rw [originAt, woken, ← originAt_place ho]
    exact originAt_setOrigin_of_mem (originAt_mem ho) (place.trans (originAt_place ho).symm)
  obtain ⟨gap, tested⟩ := testGaps_originAt distinct here
  refine ⟨w, new, gap, ends, ends ▸ tested, arch, ?_, ?_, low, high⟩
  · rw [arch, wit]
    exact blocks
  · rw [wit, setOrigin, place]
    rfl

end

/-- Settles O37: the page and the ring by their lemmas, the rest by what is reported. -/
theorem goodProgramsArchiveTheirRecords : Obligations.GoodProgramsArchiveTheirRecords := by
  constructor
  · intro s e q canonical own found number body
    have record : (⟨e.kind, s.cfg.own, q, e.start, e.body⟩ : Rec) = e.toRec s.cfg.own := by simp [OutEntry.toRec, number]
    rw [record]
    obtain ⟨w, ends, arch, blocks, jobs, first, other, lags, level⟩ := programEnd_own_reported own found number
    obtain ⟨flash, ring⟩ := programEnd_own_ring own found true
    have follows := programEnd_own_follows own found true
    obtain ⟨position, -⟩ := id follows
    have yearStart : (flashIdle (programEnd true s)).wit.yearStart = w.wit.yearStart := by simp [ends]
    have lagFlag : flagSet (flashIdle (programEnd true s)) .witnessLag = flagSet w .witnessLag := by
      rw [flagSet_flashIdle, ends, flagSet_retentionTest _ (by decide)]
      simp [flagSet]
    refine ⟨_, exec_programComplete own true, ?_, ?_, ?_, fun a out => ?_, fun i hi => ?_,
      ⟨rfl, follows, fun older younger split earlier => ⟨w, _, wakeFollows_woken _ w, ends ▸ retentionTest_tested _, ?_, ?_,
        jobs, Archive.eq_of_fields (by simp), ?_⟩⟩, by simp, fun unknown current => yearStart.trans (first unknown current),
      fun no => yearStart.trans (other no), ⟨fun lag => lagFlag.trans (lags lag), fun no => lagFlag.trans (level no)⟩,
      State.eq_of_blocks ?_⟩
    · simp [ends, arch, entryArchived, number]
    · simp [ends, arch, entryArchived]
    · simp only [flashIdle_fields]
      exact position
    · simp only [flashIdle_fields]
      exact programEnd_own_outside own found canonical (fun _ => body) out
    · simp only [flashIdle_fields]
      rw [flash, pageProgrammed_flash]
      exact programPage_inside canonical _ (pageBytesOf_fills (body.trans (by decide))) hi
    · simp only [wakeFollows_frame]
      rw [blocks]
      rfl
    · simp only [wakeFollows_frame]
      rw [blocks]
      rfl
    · obtain ⟨-, -, -, state, -⟩ := programming_split found
      have sameFlash : (programEnd true s).arch.flash = (entryArchived e s).arch.flash := by simp [ends, arch]
      have sameOwn : (programEnd true s).arch.own = (entryArchived e s).arch.own := by simp [ends, arch]
      rw [sameFlash, sameOwn, arch]
      simpa [number] using entryArchived_arch split state earlier
    · rw [ends, blocks]
      simp
  · intro s p o x rest canonical accounted part listed ho staged body page
    obtain ⟨number, -⟩ := copied_expected accounted ho staged
    obtain ⟨w, new, gap, ends, here, arch, blocks, wit, low, high⟩ := programEnd_part_reported part ho staged accounted
    obtain ⟨flash, ring⟩ := programEnd_part_ring part ho staged true
    have follows := programEnd_part_follows part ho staged listed true
    obtain ⟨position, -⟩ := id follows
    have year : (flashIdle (programEnd true s)).year = w.year := by simp [ends]
    refine ⟨_, { new with gap := gap }, exec_programComplete part true, (originAt_flashIdle _ p).trans here, fun within => ?_,
      fun above => ?_, ?_, ?_, ?_, (congrArg Ring.writePos (ringOf_flashIdle _ _)).trans position, fun a out => ?_,
      fun i hi => ?_, ⟨rfl, follows, fun i other => programEnd_part_ring_ne part ho staged true other, ?_,
        w, _, wakeFollows_woken _ w, ?_, ?_, fun within => ?_, fun above => ?_, ?_, ?_, ?_, ?_⟩, State.eq_of_blocks ?_⟩
    · obtain ⟨rfl, kept⟩ := low within
      exact ⟨number, rfl, rfl, rfl, year.trans kept⟩
    · obtain ⟨rfl, skipped⟩ := high above
      exact ⟨rfl, rfl, rfl, year.trans skipped⟩
    · simp [ends, arch, stagedHeld_arch]
    · simp [ends, arch, stagedHeld_arch]
    · simp [ends, arch, stagedHeld_arch]
    · simp only [flashIdle_fields]
      exact programEnd_part_outside part ho staged canonical (fun _ => body) out
    · simp only [flashIdle_fields]
      rw [flash, pageProgrammed_flash]
      exact programPage_inside canonical _ (pageBytesOf_fills (body.trans (by decide))) hi
    · exact Archive.eq_of_fields (by simp [ends, arch, stagedHeld_arch])
    · rw [blocks]; rfl
    · rw [blocks]; rfl
    · obtain ⟨rfl, -⟩ := low within
      exact wit
    · obtain ⟨rfl, -⟩ := high above
      exact wit
    · rw [blocks]; rfl
    · exact Archive.eq_of_fields (by simp [ends, arch, stagedHeld_arch])
    · simp [ends]
    · simp [ends]
    · rw [ends, blocks]
      simp

end Sys2Proof.Machine
end

section
/-! O38, FailedProgramsVoidTheirPage. -/

namespace Sys2Proof.Machine

/-! ## A failed program (R157 to R159, R164) -/

/-- The state `v` once the failed program is counted whose page and ring `u` has: one defective page, and one more of the
failure run, which at 3 is a FAULT that raises ARCHIVE. -/
structure Voided (s u v : State) : Prop where
  blocks : v = (((s.setArch v.arch).setYear v.year).setRetr v.retr).setDraws v.draws
  arch : v.arch = { u.arch with
    failureRun := s.arch.failureRun + 1, state := if 3 ≤ s.arch.failureRun + 1 then .fault else s.arch.state }
  year : v.year = { s.year with day := { s.year.day with defective := min 4294967295 (s.year.day.defective + 1) } }
  fault : 2 ≤ s.arch.failureRun → v.arch.state = .fault ∧ (s.arch.state ≠ .fault → flagSet v .archive = true)

theorem programFailed_voided {s u : State} (blocks : u = (s.setArch u.arch).setDraws u.draws)
    (run : u.arch.failureRun = s.arch.failureRun) (state : u.arch.state = s.arch.state) : Voided s u (programFailed u) where
  blocks := by
    refine State.eq_of_blocks ?_
    rw [blocks]
    simp
  arch := by rw [programFailed_arch, run, state]
  year := by
    have year : u.year = s.year := by rw [blocks]; rfl
    rw [programFailed_year, year]
  fault third := by
    rw [← run] at third
    rw [← state]
    exact programFailed_archive third

/-- The retention test leaves a FAULT as it is. -/
theorem retentionTest_of_fault {s : State} (fault : s.arch.state = .fault) : retentionTest s = s := by
  obtain ⟨-, -, same⟩ := retentionTest_tested s
  exact same (.inl fault)

theorem entryProgrammed_voided (e : OutEntry) (s : State) :
    Voided s (entryProgrammed false e s) (programFailed (entryProgrammed false e s)) := by
  refine programFailed_voided (State.eq_of_blocks ?_) ?_ ?_
  all_goals simp [entryProgrammed, pageProgrammed, ringAfterProgram]

theorem pageProgrammed_voided (a : Area) (r : Rec) (s : State) :
    Voided s (pageProgrammed a false r s) (programFailed (pageProgrammed a false r s)) := by
  refine programFailed_voided (State.eq_of_blocks ?_) ?_ ?_
  all_goals simp [pageProgrammed, ringAfterProgram]

/-! ## The floor jump that waited for the program (R139) -/

/-- What a floor jump leaves, before the FOLLOW jobs are woken: nothing changed, or the copy that has jumped. -/
theorem floorJump_split {s : State} {o : Origin} (ho : originAt s o.place = some o)
    (free : s.arch.op ≠ .programming (.part o.place)) : ∃ w,
      (floorJump o.place s = w ∨ floorJump o.place s = wakeFollows o.station w)
      ∧ (o.floor ≤ o.expected → w = s)
      ∧ (o.expected < o.floor → w = setOrigin o.jumped (countUp .skips (o.floor - 1 - o.held) s)) := by
  by_cases due : o.expected < o.floor
  · exact ⟨_, .inr (floorJump_due ho due free), fun low => absurd due (Nat.not_lt.2 low), fun _ => rfl⟩
  · exact ⟨s, .inl (floorJump_not_due ho (.inl (Nat.not_lt.1 due))), fun _ => rfl, fun high => absurd high due⟩

/-- Whether the FOLLOW jobs are woken or not, the archive keeps all but the requests, and the flags stay. -/
theorem eq_or_woken_kept {n : Nat} {w y : State} (h : y = w ∨ y = wakeFollows n w) :
    y.arch = { w.arch with requests := y.arch.requests } ∧ y.retr.flags = w.retr.flags
    ∧ y = ((w.setArch y.arch).setPort y.port).setRetr y.retr := by
  rcases h with rfl | rfl
  · exact ⟨rfl, rfl, rfl⟩
  · exact ⟨Archive.eq_of_fields (by simp), by simp, State.eq_of_blocks (by simp)⟩

section
variable {s : State} {o : Origin} (part : s.arch.op = .programming (.part o.place)) (ho : originAt s o.place = some o)
  {x : Staged} {rest : List Staged} (staged : o.staged = x :: rest) (accounted : StagingAccounted s)
include part ho staged accounted

/-- A program of a staged record failed: the copy stays, or makes the floor jump that waited for the program. -/
theorem programEnd_part_voided : ∃ v w y new gap, Voided s (pageProgrammed (.part o.place) false x.record s) v
    ∧ programEnd false s = testGaps y ∧ (y = w ∨ y = wakeFollows o.station w)
    ∧ originAt (programEnd false s) o.place = some { new with gap := gap }
    ∧ w = (v.setWit w.wit).setYear w.year
    ∧ (o.floor ≤ o.expected → new = o ∧ w.year = v.year)
    ∧ (o.expected < o.floor → new = o.jumped ∧ w.year = { v.year with day := { v.year.day with
        skips := min 4294967295 (v.year.day.skips + (o.floor - 1 - o.held)) } }) := by
  have ends := programEnd_part_failed part ho staged
  have voided := pageProgrammed_voided (.part o.place) x.record s
  generalize programFailed (pageProgrammed (.part o.place) false x.record s) = v at ends voided
  have wit : v.wit = s.wit := by rw [voided.blocks]; rfl
  have here : originAt v o.place = some o := by rw [originAt, wit]; exact ho
  have idle : v.arch.op = .idle := by rw [voided.arch, pageProgrammed_arch]
  have distinct : (v.wit.origins.map (·.place)).Nodup := wit ▸ accounted.partitions
  obtain ⟨w, jump, low, high⟩ := floorJump_split here (by simp [idle])
  obtain ⟨new, origin, places, stays, jumps⟩ : ∃ new, originAt w o.place = some new
      ∧ (w.wit.origins.map (·.place)).Nodup ∧ (o.floor ≤ o.expected → new = o ∧ w.year = v.year)
      ∧ (o.expected < o.floor → new = o.jumped ∧ w.year = { v.year with day := { v.year.day with
          skips := min 4294967295 (v.year.day.skips + (o.floor - 1 - o.held)) } }) := by
    by_cases due : o.expected < o.floor
    · rw [high due]
      exact ⟨o.jumped, originAt_setOrigin_of_mem (originAt_mem here) rfl, by rw [setOrigin_places]; exact distinct,
        fun low => absurd due (Nat.not_lt.2 low), fun _ => ⟨rfl, rfl⟩⟩
    · rw [low (Nat.not_lt.1 due)]
      exact ⟨o, here, distinct, fun _ => ⟨rfl, rfl⟩, fun high => absurd high due⟩
  have blocks : w = (v.setWit w.wit).setYear w.year := by
    by_cases due : o.expected < o.floor
    · rw [high due]
      rfl
    · rw [low (Nat.not_lt.1 due)]
      rfl
  have kept : (floorJump o.place v).wit = w.wit := by
    rcases jump with still | woken
    · rw [still]
    · simp [woken]
  obtain ⟨gap, tested⟩ := testGaps_originAt (s := floorJump o.place v) (kept ▸ places) (by rw [originAt, kept]; exact origin)
  exact ⟨v, w, _, new, gap, voided, ends, jump, ends ▸ tested, blocks, stays, jumps⟩

end

/-- Settles O38: the page and the ring by their lemmas, the rest by what a failed program counts. -/
theorem failedProgramsVoidTheirPage : Obligations.FailedProgramsVoidTheirPage := by
  constructor
  · intro s e canonical own found
    have ends := programEnd_own_failed own found
    have voided := entryProgrammed_voided e s
    obtain ⟨flash, ring⟩ := programEnd_own_ring own found false
    have follows := programEnd_own_follows own found false
    obtain ⟨position, -⟩ := id follows
    obtain ⟨void0, void1⟩ := programPage_void canonical (pageAddress .own s.arch.own.writePos)
      (pageBytesOf (e.toRec s.cfg.own))
    generalize programFailed (entryProgrammed false e s) = v at ends voided
    have blocks := voided.blocks
    have cfg : v.cfg = s.cfg := by rw [blocks]; rfl
    have arch : (programEnd false s).arch = { v.arch with state := (programEnd false s).arch.state } :=
      Archive.eq_of_fields (by simp [ends])
    refine ⟨_, exec_programComplete own false, ?_, ?_, ?_, ?_, fun a out => ?_, ?_, ?_, ⟨rfl, follows,
      fun older younger split earlier => ⟨v, ends ▸ retentionTest_tested v, cfg, ?_, ?_⟩⟩, fun third => ?_,
      State.eq_of_blocks ?_⟩
    · simp [ends, voided.arch, entryProgrammed, pageProgrammed, ringAfterProgram]
    · simp [ends, voided.arch]
    · simp [ends, voided.year]
    · simp only [flashIdle_fields]
      exact position
    · simp only [flashIdle_fields]
      exact programEnd_own_outside own found canonical (fun failed => by cases failed) out
    · simp only [flashIdle_fields]
      rw [flash, pageProgrammed_flash]
      exact void0
    · simp only [flashIdle_fields]
      rw [flash, pageProgrammed_flash]
      exact void1
    · rw [voided.year]
    · obtain ⟨-, -, -, state, -⟩ := programming_split found
      have marked := entryProgrammed_arch split state earlier false
      have sameFlash : (programEnd false s).arch.flash = (entryProgrammed false e s).arch.flash := by simp [ends, voided.arch]
      have sameOwn : (programEnd false s).arch.own = (entryProgrammed false e s).arch.own := by simp [ends, voided.arch]
      rw [sameFlash, sameOwn, voided.arch, marked]
      rfl
    · obtain ⟨fault, raised⟩ := voided.fault third
      simp only [flagSet_flashIdle, flashIdle_fields]
      rw [ends, retentionTest_of_fault fault]
      exact ⟨fault, raised⟩
    · rw [ends, blocks]
      simp
  · intro s p o x rest canonical accounted part listed ho staged page
    obtain rfl : o.place = p := originAt_place ho
    obtain ⟨v, w, y, new, gap, voided, ends, woken, here, blocks, low, high⟩ :=
      programEnd_part_voided part ho staged accounted
    obtain ⟨flash, ring⟩ := programEnd_part_ring part ho staged false
    have follows := programEnd_part_follows part ho staged listed false
    obtain ⟨position, -⟩ := id follows
    obtain ⟨void0, void1⟩ := programPage_void canonical page (pageBytesOf x.record)
    obtain ⟨kept, flags, moved⟩ := eq_or_woken_kept woken
    have arch : w.arch = v.arch := by rw [blocks]; rfl
    have year : (flashIdle (programEnd false s)).year = w.year := by
      rw [ends, moved]
      simp
    have raised : flagSet (flashIdle (programEnd false s)) .archive = flagSet v .archive := by
      rw [flagSet_flashIdle, ends]
      simp only [flagSet, testGaps_frame, flags]
      rw [blocks]
      rfl
    have ended : (programEnd false s).arch = { v.arch with requests := (programEnd false s).arch.requests } := by
      have same : (programEnd false s).arch = y.arch := by simp [ends]
      rw [same, ← arch]
      exact kept
    refine ⟨_, { new with gap := gap }, exec_programComplete part false, (originAt_flashIdle _ _).trans here, ?_, ?_,
      fun within => ?_, fun above => ?_, ⟨rfl, follows, fun i other => programEnd_part_ring_ne part ho staged false other, ?_⟩,
      (congrArg Ring.writePos (ringOf_flashIdle _ _)).trans position, fun a out => ?_, ?_, ?_, fun third => ?_,
      State.eq_of_blocks ?_⟩
    · simp only [flashIdle_fields]
      rw [ended, voided.arch, pageProgrammed_arch]
    · simp only [flashIdle_fields]
      rw [ended, voided.arch]
    · obtain ⟨rfl, stays⟩ := low within
      exact ⟨rfl, rfl, rfl, year.trans (stays.trans voided.year)⟩
    · obtain ⟨rfl, skipped⟩ := high above
      refine ⟨rfl, rfl, rfl, year.trans (skipped.trans ?_)⟩
      rw [voided.year]
    · have own : (pageProgrammed (.part o.place) false x.record s).arch.own = s.arch.own := by
        simp [pageProgrammed, ringAfterProgram, setRing]
      rw [ended, voided.arch, pageProgrammed_arch, own]
    · simp only [flashIdle_fields]
      exact programEnd_part_outside part ho staged canonical (fun failed => by cases failed) out
    · simp only [flashIdle_fields]
      rw [flash, pageProgrammed_flash]
      exact void0
    · simp only [flashIdle_fields]
      rw [flash, pageProgrammed_flash]
      exact void1
    · obtain ⟨fault, archive⟩ := voided.fault third
      simp only [raised, flashIdle_fields]
      rw [ended]
      exact ⟨fault, archive⟩
    · rw [ends, moved, blocks, voided.blocks]
      simp

end Sys2Proof.Machine
end

section
/-! The archive flash and the operations in flight on it (R151, R152): what each end of an operation writes. -/

namespace Sys2Proof.Machine

/-! ## The ends of programs and erases (R158, R163) -/

/-- The canonical form is told from the flash alone. -/
theorem FlashCanonical.congr {s t : State} (canonical : FlashCanonical s) (flash : t.arch.flash = s.arch.flash) :
    FlashCanonical t := by
  rwa [FlashCanonical, flash]

/-- The end of a program leaves the flash of a page program, or that before it where nothing stands to be programmed. -/
theorem programEnd_flash (good : Bool) (s : State) :
    (programEnd good s).arch.flash = s.arch.flash
    ∨ ∃ address bytes, (programEnd good s).arch.flash = (programPage address bytes good s).arch.flash := by
  cases flying : s.arch.op with
  | programming a =>
    cases a with
    | own =>
      cases found : s.arch.outbound.find? (fun e => e.state == .programming) with
      | none => exact .inl (by simp [programEnd, flying, ownProgramEnd, found])
      | some e =>
        obtain ⟨flash, -⟩ := programEnd_own_ring flying found good
        exact .inr ⟨_, _, flash.trans pageProgrammed_flash⟩
    | part p =>
      cases ho : originAt s p with
      | none => exact .inl (by simp [programEnd, flying, partProgramEnd, ho])
      | some o =>
        cases staged : o.staged with
        | nil => exact .inl (by simp [programEnd, flying, partProgramEnd, ho, staged])
        | cons x rest =>
          obtain ⟨flash, -⟩ := programEnd_part_ring flying ho staged good
          exact .inr ⟨_, _, flash.trans pageProgrammed_flash⟩
  | _ => exact .inl (by simp [programEnd, flying])

/-- The end of an erase leaves its sector erased, or with what a failed erase leaves of it. -/
theorem eraseEnd_flash {s : State} {a : Area} {k : Nat} (flying : s.arch.op = .erasing a k) (good : Bool) :
    (eraseEnd good s).arch.flash = if good then (eraseSector (sectorAddress a k) s).arch.flash
      else (failErase (sectorAddress a k) (noteBroken a k s)).arch.flash := by
  cases good with
  | true =>
    obtain ⟨flash, -⟩ := eraseEnd_good flying
    exact flash
  | false =>
    obtain ⟨flash, -⟩ := eraseEnd_failed_arch flying
    exact flash

section
variable {s : State} (canonical : FlashCanonical s)
include canonical

theorem FlashCanonical.programEnd (good : Bool) : FlashCanonical (programEnd good s) := by
  rcases programEnd_flash good s with same | ⟨address, bytes, written⟩
  · exact canonical.congr same
  · rw [FlashCanonical, written]
    exact programPage_wf address bytes good s canonical

theorem FlashCanonical.setOp (o : FlashOp) : FlashCanonical (setOp o s) := canonical

theorem FlashCanonical.noteBroken (a : Area) (k : Nat) : FlashCanonical (noteBroken a k s) := canonical.congr (by simp)

theorem FlashCanonical.voidImage : FlashCanonical (voidImage s) := voidImage_wf s canonical

theorem FlashCanonical.programImagePage (p : Nat) (good : Bool) : FlashCanonical (programImagePage p good s) :=
  programImagePage_wf canonical p good

theorem FlashCanonical.finishCommit (r : ConfigResult) : FlashCanonical (finishCommit r s) := canonical.congr (by simp)

theorem FlashCanonical.eraseEnd {a : Area} {k : Nat} (flying : s.arch.op = .erasing a k) (good : Bool) :
    FlashCanonical (eraseEnd good s) := by
  rw [FlashCanonical, eraseEnd_flash flying good]
  cases good with
  | true => exact eraseSector_wf _ s canonical
  | false => exact failErase_wf _ _ (canonical.noteBroken a k)

/-- A program in flight ends, an erase is abandoned, and a commit leaves an image whose check fails (R176, R179). -/
theorem FlashCanonical.cutFlash (good : Bool) : FlashCanonical (cutFlash good s) := by
  cases flying : s.arch.op with
  | idle => simpa [Machine.cutFlash, flying] using canonical
  | programming a => simpa [Machine.cutFlash, flying] using canonical.programEnd good
  | erasing a k =>
    have noted : FlashCanonical (noteAbandoned a k s) := canonical
    have abandoned : FlashCanonical (abandonErase (sectorAddress a k) (Machine.noteBroken a k (noteAbandoned a k s))) :=
      abandonErase_wf _ _ (noted.noteBroken a k)
    rw [cutFlash_erasing flying]
    exact abandoned.setOp .idle
  | commitErase =>
    have abandoned : FlashCanonical (abandonErase 0 s) := abandonErase_wf 0 s canonical
    rw [cutFlash_commitErase flying]
    exact abandoned.voidImage.setOp .idle
  | commitPage p =>
    rw [cutFlash_commitPage flying]
    exact (canonical.programImagePage p good).voidImage.setOp .idle

theorem FlashCanonical.lost (good : Bool) : FlashCanonical (lost good s) :=
  (canonical.cutFlash good).congr (by simp [Machine.lost])

end

end Sys2Proof.Machine
end

section
/-! O41, EveryStepKeepsTheFlashCanonical: five commands end or cut an operation on the flash, and no other command writes to
it. -/

namespace Sys2Proof.Machine

/-! ## The commands that write nothing -/

/-- The commands that end the operation in flight on the flash, or cut it off. -/
def endsOperation : Instr → Bool
  | .programComplete _ | .eraseComplete _ | .commitFlashComplete _ | .supplyFail _ | .resetAssert _ => true
  | _ => false

/-- A command is answered by a next state with the same flash. -/
def FlashKept (s : State) (o : Host.Outcome State Fault Refusal) : Prop := ∃ t, o = .next t ∧ t.arch.flash = s.arch.flash

@[simp] theorem flashKept_next (s t : State) : FlashKept s (.next t) ↔ t.arch.flash = s.arch.flash :=
  ⟨by rintro ⟨_, ⟨⟩, h⟩; exact h, fun h => ⟨t, rfl, h⟩⟩

/-- A telegram writes to the flash only where its block does: an error and a clash only count (R127, R128). -/
theorem deliver_flash {s : State} {f : State → State} (hf : (f s).arch.flash = s.arch.flash) (sender : BitVec 5)
    (permitted : Bool) : FlashKept s (.next (deliver sender permitted f s)) := by
  rw [flashKept_next]
  rcases deliver_cases sender permitted f s with ⟨-, h⟩ | ⟨-, -, h⟩ | ⟨-, -, -, h⟩ | ⟨-, -, h⟩ <;> rw [h]
  · simp
  · simp
  · exact hf

/-- A query writes to the flash only where acting on it does: a refusal only adds an answer (R166). -/
theorem query_flash {s : State} {act : State → State} (hact : (act s).arch.flash = s.arch.flash) (head : QueryHead)
    (permitted taken : Bool) : FlashKept s (.next (query head permitted taken act s)) := by
  refine deliver_flash ?_ head.terminal permitted
  split
  · rfl
  · split
    · rfl
    · split
      · exact hact
      · simp

/-- A telegram or a query writes nothing, whatever its sender. -/
theorem exec_telegram_flash (c : Instr) (s : State) (telegram : c.sender ≠ none) : FlashKept s (exec c s) := by
  cases c with
  | receiveReading => exact deliver_flash (by simp) ..
  | receiveTime => exact deliver_flash (by simp) ..
  | receiveRecord => exact deliver_flash (by simp) ..
  | receiveMark => exact deliver_flash (by simp) ..
  | receiveGap => exact deliver_flash (by simp) ..
  | receivePresence => exact deliver_flash (by simp) ..
  | read => exact query_flash (by simp) ..
  | readYear => exact query_flash (by simp) ..
  | condition => exact query_flash (by simp) ..
  | clearAttention => exact query_flash (by simp) ..
  | configBlock => exact query_flash (by simp) ..
  | configCommit => exact query_flash (by simp) ..
  | _ => exact absurd rfl telegram

theorem coldStart_flash (svc : Bool) (s : State) : (coldStart svc s).arch.flash = s.arch.flash := by
  cases svc with
  | true => rw [coldStart_commission]; rfl
  | false =>
    cases valid : imageValid (storedImage s) with
    | true =>
      rw [coldStart_recording valid, (flashIdle_fields _).1, scanLeft_arch, flashRead_arch]
    | false => rw [coldStart_unconfigured valid]; rfl

/-- A command that ends no operation writes nothing: a flash-idle event starts an operation, whose end writes (R153). -/
theorem exec_flash (c : Instr) (s : State) (h : endsOperation c = false) : FlashKept s (exec c s) := by
  by_cases telegram : c.sender = none
  swap
  · exact exec_telegram_flash c s telegram
  cases c with
  | establishmentWindowEnd => simp only [exec, execEstablishmentWindowEnd]; (repeat' split) <;> simp
  | receiveError => simp only [exec, execReceiveError]; split <;> simp
  | stationClash => simp only [exec, execStationClash]; split <;> simp
  | busIdle => simp only [exec, execBusIdle]; split <;> simp
  | arbitrationLost => simp only [exec, execArbitrationLost]; split <;> simp
  | transmitComplete => simp only [exec, execTransmitComplete]; split <;> simp
  | transmitError => simp only [exec, execTransmitError]; (repeat' split) <;> simp
  | silentEnd => simp only [exec, execSilentEnd]; split <;> simp
  | timeSend => simp only [exec, execTimeSend]; split <;> simp
  | presenceSend => simp only [exec, execPresenceSend]; (repeat' split) <;> simp
  | agreementRound => simp only [exec, execAgreementRound]; split <;> simp
  | minuteBoundary => simp only [exec, execMinuteBoundary]; (repeat' split) <;> simp
  | recordRelease => simp only [exec, execRecordRelease]; (repeat' split) <;> simp
  | backfillPlace => simp only [exec, execBackfillPlace]; (repeat' split) <;> simp
  | gapPlace => simp only [exec, execGapPlace]; (repeat' split) <;> simp
  | pendingAnswerPlace => simp only [exec, execPendingAnswerPlace]; (repeat' split) <;> simp
  | jobAnswerPlace => simp only [exec, execJobAnswerPlace]; (repeat' split) <;> simp
  | gapExpiry => simp only [exec, execGapExpiry]; (repeat' split) <;> simp
  | markEntryExpiry => simp only [exec, execMarkEntryExpiry]; split <;> simp
  | witnessLagHoldoffEnd => simp only [exec, execWitnessLagHoldoffEnd]; split <;> simp
  | jobSilenceExpiry => simp only [exec, execJobSilenceExpiry]; (repeat' split) <;> simp
  | supplySenseRise => simp only [exec, execSupplySenseRise]; split <;> simp
  | supplySenseBounce => simp only [exec, execSupplySenseBounce]; split <;> simp
  | supplyReturn => simp only [exec, execSupplyReturn]; (repeat' split) <;> simp
  | resetRelease => simp only [exec, execResetRelease]; split <;> simp
  | coldStart => simp only [exec, execColdStart]; split <;> simp [coldStart_flash]
  | backupCellRanOut => simp only [exec, execBackupCellRanOut]; split <;> simp
  | programComplete | eraseComplete | commitFlashComplete | supplyFail | resetAssert => cases h
  | _ => exact absurd telegram (by simp [Instr.sender])

/-! ## Every step -/

/-- Each good erase or page of a commit is a write; a failed one leaves an image whose check fails (R183). -/
theorem FlashCanonical.commitFlashComplete {s t : State} (canonical : FlashCanonical s) {good : Bool}
    (h : exec (.commitFlashComplete good) s = .next t) : FlashCanonical t := by
  simp only [exec, execCommitFlashComplete] at h
  split at h <;> obtain rfl := Host.Outcome.next.inj h
  · split
    · exact eraseSector_wf 0 s canonical
    · have failed : FlashCanonical (failErase 0 s) := failErase_wf 0 s canonical
      exact failed.voidImage.finishCommit _
  · rename_i p _
    have written := canonical.programImagePage p good
    split
    · split
      · exact written.setOp _
      · exact written.finishCommit _
    · exact written.voidImage.finishCommit _
  · exact canonical

/-- Every command keeps the canonical form, the five that end or cut an operation by what these write. -/
theorem FlashCanonical.exec {c : Instr} {s t : State} (canonical : FlashCanonical s) (h : exec c s = .next t) :
    FlashCanonical t := by
  cases ends : endsOperation c with
  | false =>
    obtain ⟨u, runs, flash⟩ := exec_flash c s ends
    obtain rfl : u = t := Host.Outcome.next.inj (runs.symm.trans h)
    exact canonical.congr flash
  | true =>
    cases c with
    | programComplete good =>
      simp only [Machine.exec, execProgramComplete] at h
      split at h <;> obtain rfl := Host.Outcome.next.inj h
      · exact (canonical.programEnd good).congr (by simp)
      · exact canonical
    | eraseComplete good =>
      simp only [Machine.exec, execEraseComplete] at h
      split at h <;> obtain rfl := Host.Outcome.next.inj h
      · exact (canonical.eraseEnd ‹_› good).congr (by simp)
      · exact canonical
    | commitFlashComplete => exact canonical.commitFlashComplete h
    | supplyFail good =>
      simp only [Machine.exec, execSupplyFail] at h
      split at h <;> obtain rfl := Host.Outcome.next.inj h
      · exact canonical
      · exact canonical
      · exact canonical.lost good
    | resetAssert good =>
      simp only [Machine.exec, execResetAssert] at h
      split at h <;> obtain rfl := Host.Outcome.next.inj h
      · exact canonical
      · exact canonical.lost good
    | _ => cases ends

/-- Settles O41: a command by `FlashCanonical.exec`; a tick of time writes nothing. -/
theorem everyStepKeepsTheFlashCanonical : Obligations.EveryStepKeepsTheFlashCanonical := by
  intro s t canonical stepped
  unfold step at stepped
  split at stepped
  · rename_i c rest _
    have taken : FlashCanonical (s.setPending rest) := canonical
    exact taken.exec stepped
  · obtain rfl := Host.Outcome.next.inj stepped
    exact canonical.congr (by simp)

end Sys2Proof.Machine
end

section
/-! Silent jobs (O50), and CONFIG_BLOCK (O51). -/

namespace Sys2Proof.Machine

/-! ## Silent jobs (R170) -/

/-- Settles O50: the expiry removes the job of a silent terminal, and changes nothing before the 5 minutes. -/
theorem silentTerminalsJobEnds : Obligations.SilentTerminalsJobEnds := by
  intro terminal j s found on
  have works : jobsWorked s = true := operationsOn_iff.2 on
  refine ⟨fun silent => ⟨removeJob j.terminal s, ?_, rfl, rfl, rfl, List.length_map ..⟩, fun heard => ?_⟩
  · simp only [exec, execJobSilenceExpiry, found]
    exact if_pos ⟨works, jobSilent_iff.2 silent⟩
  · simp only [exec, execJobSilenceExpiry, found]
    exact if_neg fun ⟨_, silent⟩ => absurd (jobSilent_iff.1 silent) (by omega)

/-! ## CONFIG_BLOCK (R166, R182) -/

/-- A block of 1 to 200 bytes that is taken in COMMISSION is acted on. -/
theorem exec_configBlock {head : QueryHead} {offset : BitVec 16} {data : List Byte} {s : State}
    (takes : TakesQuery s head) (commission : s.supply.station = some .commission) (low : 1 ≤ data.length)
    (high : data.length ≤ 200) :
    exec (.configBlock head offset data) s = .next (configBlock head offset data s) := by
  have permitted : (decide (1 ≤ data.length) && decide (data.length ≤ 200)) = true := by simp [low, high]
  have taken : takesConfig s = true := by simp [takesConfig, commission]
  rw [exec, execConfigBlock, permitted, query_taken takes, if_pos taken]

/-- Settles O51: the three answers to a block. -/
theorem configBlockWritesTheStagingImage : Obligations.ConfigBlockWritesTheStagingImage := by
  intro head offset data s takes commission low high answer
  rw [exec_configBlock takes commission low high]
  refine ⟨fun busy => ?_, fun idle past => ?_, fun idle fits => ?_⟩
  · rw [configBlock, if_pos busy]
    rfl
  · rw [configBlock, if_neg (not_not.2 idle), if_neg (Nat.not_le.2 past)]
    rfl
  · rw [configBlock, if_neg (not_not.2 idle), if_pos fits]
    rfl

end Sys2Proof.Machine
end

section
/-! The range of a READ_YEAR (R169; for O46). -/

namespace Sys2Proof.Machine

/-- The sectors from the last whose first year is the year or earlier, newest first (R169). -/
theorem sectorsUpTo_split {year : Nat} {before after : List (Nat × DirEntry)} {last : Nat × DirEntry}
    (begun : last.2.firstYear.getD 0 ≤ year) (later : ∀ x ∈ after, year < x.2.firstYear.getD 0) :
    sectorsUpTo year (before ++ last :: after) = last.2 :: before.reverse.map (·.2) := by
  have newer : ∀ e ∈ (after.map (·.2)).reverse, decide (year < e.firstYear.getD 0) = true := fun e he => by
    obtain ⟨x, hx, rfl⟩ := List.mem_map.1 (List.mem_reverse.1 he)
    exact decide_eq_true (later x hx)
  have stays : ¬ decide (year < last.2.firstYear.getD 0) = true := by simpa using begun
  simp only [sectorsUpTo, List.map_append, List.map_cons, List.reverse_append, List.reverse_cons, List.append_assoc,
    List.map_reverse]
  rw [List.dropWhile_append_of_pos newer]
  exact List.dropWhile_cons_of_neg stays

theorem sectorsUpTo_none {year : Nat} {l : List (Nat × DirEntry)} (later : ∀ x ∈ l, year < x.2.firstYear.getD 0) :
    sectorsUpTo year l = [] :=
  List.dropWhile_eq_nil_iff.2 fun e he => by
    obtain ⟨x, hx, rfl⟩ := List.mem_map.1 (List.mem_reverse.1 he)
    exact decide_eq_true (later x hx)

theorem records_concat (l : List (Nat × DirEntry)) (a : Nat × DirEntry) :
    ((l ++ [a]).map (·.2.records)).sum = (l.map (·.2.records)).sum + a.2.records := by simp

/-- Of the sectors before `last`, newest first, the walk takes whole sectors until those taken, with the `n` records
counted before, hold 10 record pages; the range then begins at the oldest sector taken (R169). -/
theorem rangeStart_taken (l : List (Nat × DirEntry)) : ∀ (n first : Nat) (last : Nat × DirEntry),
    (∀ q, last.2.firstSeq = some q → first = q) →
    ∃ older taken, l.reverse = older ++ taken
      ∧ (older = [] ∨ 10 ≤ n + (taken.map (·.2.records)).sum)
      ∧ (∀ x rest, taken = x :: rest → n + (rest.map (·.2.records)).sum < 10)
      ∧ ∀ x q, (taken ++ [last]).head? = some x → x.2.firstSeq = some q → rangeStart n first (l.map (·.2)) = q := by
  induction l with
  | nil =>
    intro n first last begins
    refine ⟨[], [], rfl, .inl rfl, nofun, fun x q hx hq => begins q ?_⟩
    cases hx
    exact hq
  | cons a l ih =>
    intro n first last begins
    by_cases few : n < 10
    · obtain ⟨older, taken, split, enough, needed, start⟩ :=
        ih (n + a.2.records) (a.2.firstSeq.getD first) a (fun q hq => by rw [hq]; rfl)
      refine ⟨older, taken ++ [a], ?_, ?_, fun x rest here => ?_, fun x q hx hq => ?_⟩
      · rw [List.reverse_cons, split, List.append_assoc]
      · refine enough.imp id fun held => ?_
        rw [records_concat]
        omega
      · cases taken with
        | nil =>
          cases here
          simpa using few
        | cons y taken =>
          rw [List.cons_append] at here
          obtain ⟨rfl, rfl⟩ := List.cons.inj here
          have := needed _ taken rfl
          rw [records_concat]
          omega
      · have oldest : (taken ++ [a]).head? = some x := by cases taken <;> simpa using hx
        rw [List.map_cons, rangeStart, if_pos few]
        exact start x q oldest hq
    · refine ⟨(a :: l).reverse, [], (List.append_nil _).symm, .inr ?_, nofun, fun x q hx hq => ?_⟩
      · simpa using few
      · cases hx
        rw [List.map_cons, rangeStart, if_neg few]
        exact begins q hq

theorem yearRange_none {year : Nat} {l : List (Nat × DirEntry)} (later : ∀ x ∈ l, year < x.2.firstYear.getD 0) :
    yearRange year l = none := by
  rw [yearRange, sectorsUpTo_none later]

section
variable {year : Nat} {before after : List (Nat × DirEntry)} {last : Nat × DirEntry}
  (begun : last.2.firstYear.getD 0 ≤ year) (later : ∀ x ∈ after, year < x.2.firstYear.getD 0)
include begun later

/-- The last sector begun by the year ends before it: the year's records are not held. -/
theorem yearRange_ended (ended : last.2.lastYear.getD 0 < year) : yearRange year (before ++ last :: after) = none := by
  rw [yearRange, sectorsUpTo_split begun later]
  exact if_pos ended

/-- The range ends with the last sector begun by the year, and begins some whole sectors before it. -/
theorem yearRange_reaches (reaches : year ≤ last.2.lastYear.getD 0) :
    ∃ older taken lo, before = older ++ taken
      ∧ yearRange year (before ++ last :: after) = some (lo, last.2.highSeq.getD 0)
      ∧ (older = [] ∨ 10 ≤ (taken.map (·.2.records)).sum)
      ∧ (∀ x rest, taken = x :: rest → (rest.map (·.2.records)).sum < 10)
      ∧ ∀ x q, (taken ++ [last]).head? = some x → x.2.firstSeq = some q → lo = q := by
  obtain ⟨older, taken, split, enough, needed, start⟩ :=
    rangeStart_taken before.reverse 0 (last.2.firstSeq.getD 0) last (fun q hq => by rw [hq]; rfl)
  rw [List.reverse_reverse] at split
  simp only [Nat.zero_add] at enough needed
  refine ⟨older, taken, _, split, ?_, enough, needed, start⟩
  rw [yearRange, sectorsUpTo_split begun later]
  exact if_neg (Nat.not_lt.2 reaches)

end

end Sys2Proof.Machine
end

section
/-! How far a job that a query has made gets in the act that admits it (R167 to R169; for O46). -/

namespace Sys2Proof.Machine

/-! ## The jobs of other terminals -/

/-- The answer to a job's read changes no other terminal's job. -/
theorem jobOf_jobResult_other {m n : Nat} (other : n ≠ m) (res : Option Rec) (s : State) :
    jobOf (jobResult m res s) n = jobOf s n := by
  cases found : jobOf s m with
  | none => simp only [jobResult, found]
  | some j =>
    have at_ := (jobOf_mem s m j found).2
    have stands : jobOf s j.terminal = some j := at_.symm ▸ found
    have elsewhere : n ≠ j.terminal := at_.symm ▸ other
    simp only [jobResult, found]
    split
    · split
      · exact (jobReady_atWork stands _ _).2 n elsewhere
      · exact (workJob_atWork (j := { j with next := j.next + 1 }) stands).2 n elsewhere
    · exact (workJob_atWork (j := { j with next := j.next + 1 }) stands).2 n elsewhere
    · exact (jobReady_atWork stands _ _).2 n elsewhere
    · exact (jobReady_atWork stands _ _).2 n elsewhere

/-- No waiting read is that of terminal n's job. -/
def Unasked (n : Nat) (s : State) : Prop := ∀ q ∈ s.arch.requests, q.who ≠ .job n

theorem Unasked.workJob {n : Nat} {s : State} (h : Unasked n s) {j : Job} (other : j.terminal ≠ n) :
    Unasked n (workJob j s) := by
  simp only [Machine.workJob]
  split
  · simpa [Unasked] using h
  · simpa [Unasked] using h
  · simpa [Unasked] using h
  · split
    · intro q hq
      rcases List.mem_append.1 hq with old | new
      · exact h q old
      · rw [List.mem_singleton.1 new]
        exact fun same => other (Requester.job.inj same)
    · simpa [Unasked] using h

theorem Unasked.jobResult {m n : Nat} {s : State} (h : Unasked n s) (other : m ≠ n) (res : Option Rec) :
    Unasked n (jobResult m res s) := by
  cases found : jobOf s m with
  | none => simpa only [Machine.jobResult, found] using h
  | some j =>
    have elsewhere : j.terminal ≠ n := (jobOf_mem s m j found).2.symm ▸ other
    simp only [Machine.jobResult, found]
    split
    · split
      · simpa [Unasked] using h
      · exact h.workJob elsewhere
    · exact h.workJob elsewhere
    · simpa [Unasked] using h
    · simpa [Unasked] using h

theorem Unasked.startBackfill {n : Nat} {s : State} (h : Unasked n s) : Unasked n (startBackfill s) := by
  unfold Machine.startBackfill
  split
  · exact h
  · intro q hq
    rcases List.mem_append.1 hq with old | new
    · exact h q old
    · rw [List.mem_singleton.1 new]
      nofun

theorem Unasked.backfillResult {n : Nat} {s : State} (h : Unasked n s) (res : Option Rec) :
    Unasked n (backfillResult res s) := by
  unfold Machine.backfillResult
  split
  · exact h
  · unfold advanceBackfill
    split
    · exact h
    · exact Unasked.startBackfill h

/-- A job none of whose reads waits stays as it is while reads are served. -/
theorem serveOne_unasked {n : Nat} {s : State} (h : Unasked n s) :
    Unasked n (serveOne s) ∧ jobOf (serveOne s) n = jobOf s n := by
  unfold serveOne
  split
  · exact ⟨h, rfl⟩
  · rename_i q rest waiting
    have left : Unasked n (s.setArch { s.arch with requests := rest }) :=
      fun p hp => h p (waiting ▸ List.mem_cons_of_mem _ hp)
    dsimp only
    split
    · exact ⟨left.backfillResult _, by simp [jobOf]⟩
    · rename_i m who
      have other : m ≠ n := fun same => h q (waiting ▸ List.mem_cons_self) (same ▸ who)
      exact ⟨left.jobResult other _, jobOf_jobResult_other other.symm _ _⟩
    · exact ⟨left, rfl⟩

theorem serveReads_unasked {n : Nat} (fuel : Nat) : ∀ {s : State}, Unasked n s →
    jobOf (serveReads fuel s) n = jobOf s n := by
  induction fuel with
  | zero => exact fun _ => rfl
  | succ fuel ih =>
    intro s h
    rw [serveReads]
    split
    · rfl
    · obtain ⟨still, same⟩ := serveOne_unasked h
      exact (ih still).trans same

/-! ## Flash-idle events and the job list -/

/-- To the job list a flash-idle event is nothing, or the service of the reads. -/
theorem flashIdle_jobs (s : State) :
    (flashIdle s).retr.jobs = s.retr.jobs ∨ (flashIdle s).retr.jobs = (serveReads (readBound s) s).retr.jobs := by
  unfold flashIdle
  split
  · exact .inl rfl
  · dsimp only
    split
    · exact .inr (by simp)
    · exact .inr rfl

theorem jobOf_congr {s t : State} (jobs : t.retr.jobs = s.retr.jobs) (n : Nat) : jobOf t n = jobOf s n := by
  rw [jobOf, jobs]
  rfl

theorem flashIdle_unasked {n : Nat} {s : State} (h : Unasked n s) : jobOf (flashIdle s) n = jobOf s n := by
  rcases flashIdle_jobs s with none | served
  · exact jobOf_congr none n
  · exact (jobOf_congr served n).trans (serveReads_unasked _ h)

/-! ## The job itself -/

/-- j is the job i, whatever it does: a READ_YEAR job may have passed over sequences, the others have not (R168, R169). -/
structure Further (i j : Job) : Prop where
  same : { j with next := i.next, work := i.work } = i
  from_ : i.next ≤ j.next
  inPlace : (∀ y, i.kind ≠ .readYear y) → j.next = i.next

theorem Further.refl (i : Job) : Further i i := ⟨rfl, le_refl _, fun _ => rfl⟩

theorem Further.withWork {i j : Job} (h : Further i j) (w : JobWork) : Further i { j with work := w } :=
  ⟨h.same, h.from_, h.inPlace⟩

theorem Further.terminal {i j : Job} (h : Further i j) : j.terminal = i.terminal := congrArg (·.terminal) h.same

theorem Further.kind {i j : Job} (h : Further i j) : j.kind = i.kind := congrArg (·.kind) h.same

/-- A READ_YEAR job passes over sequences. -/
theorem Further.passes {i j : Job} {y : Nat} (h : Further i j) (kind : j.kind = .readYear y) {n : Nat} (on : j.next ≤ n) :
    Further i { j with next := n } :=
  ⟨h.same, h.from_.trans on, fun other => absurd (h.kind ▸ kind) (other y)⟩

/-- Only a READ_YEAR job asks for another sequence than its next. -/
theorem jobStep_readIt {j : Job} {bottom : Option Nat} {top n : Nat} (asks : jobStep j bottom top = .readIt n) :
    n = j.next ∨ j.next ≤ n ∧ ∃ y, j.kind = .readYear y := by
  unfold jobStep at asks
  split at asks
  · rename_i y kind
    dsimp only at asks
    split at asks
    · cases asks
    · cases asks
      refine .inr ⟨?_, y, kind⟩
      unfold yearNext
      split <;> exact Nat.le_max_left ..
  · (repeat' split at asks) <;> cases asks
    exact .inl rfl
  · (repeat' split at asks) <;> cases asks
    exact .inl rfl

/-- The job i stands in the list, further on or not. -/
def Stands (i : Job) (s : State) : Prop := ∃ j, jobOf s i.terminal = some j ∧ Further i j

theorem Stands.setJob {i j : Job} {s : State} (h : Stands i s) (further : Further i j) : Stands i (setJob j s) := by
  obtain ⟨x, found, -⟩ := h
  have here : jobOf s j.terminal = some x := further.terminal.symm ▸ found
  exact ⟨j, by rw [jobOf_setJob here, if_pos further.terminal.symm], further⟩

theorem Stands.jobReady {i j : Job} {s : State} (h : Stands i s) (further : Further i j) (a : Answer) (skip : Bool) :
    Stands i (jobReady j a skip s) :=
  h.setJob (further.withWork (.ready a skip s.port.ticket))

theorem Stands.workJob {i j : Job} {s : State} (h : Stands i s) (further : Further i j) : Stands i (workJob j s) := by
  simp only [Machine.workJob]
  split
  · exact h.jobReady further _ _
  · exact h.setJob (further.withWork .waiting)
  · exact h.jobReady further _ _
  · rename_i n step
    split
    · refine h.setJob (j := { j with next := n, work := .reading }) ?_
      rcases jobStep_readIt step with rfl | ⟨on, y, kind⟩
      · exact further.withWork .reading
      · exact (further.passes kind on).withWork .reading
    · exact h.setJob (further.withWork .waiting)

theorem Stands.jobResult {i : Job} {s : State} (h : Stands i s) (m : Nat) (res : Option Rec) :
    Stands i (jobResult m res s) := by
  by_cases here : i.terminal = m
  · obtain ⟨j, found, further⟩ := id h
    subst here
    simp only [Machine.jobResult, found]
    split
    · rename_i y _ kind
      split
      · exact h.jobReady further _ _
      · exact h.workJob (further.passes kind (Nat.le_succ _))
    · rename_i y kind
      exact h.workJob (further.passes kind (Nat.le_succ _))
    · exact h.jobReady further _ _
    · exact h.jobReady further _ _
  · obtain ⟨j, found, further⟩ := h
    exact ⟨j, (jobOf_jobResult_other here res s).trans found, further⟩

theorem Stands.serveOne {i : Job} {s : State} (h : Stands i s) : Stands i (serveOne s) := by
  unfold Machine.serveOne
  split
  · exact h
  · rename_i q rest _
    have left : Stands i (s.setArch { s.arch with requests := rest }) := h
    dsimp only
    split
    · simpa [Stands, jobOf] using left
    · exact left.jobResult _ _
    · exact left

theorem Stands.serveReads {i : Job} (fuel : Nat) : ∀ {s : State}, Stands i s → Stands i (serveReads fuel s) := by
  induction fuel with
  | zero => exact fun h => h
  | succ fuel ih =>
    intro s h
    rw [Machine.serveReads]
    split
    · exact h
    · exact ih h.serveOne

theorem Stands.flashIdle {i : Job} {s : State} (h : Stands i s) : Stands i (flashIdle s) := by
  rcases flashIdle_jobs s with none | served
  · obtain ⟨j, found, further⟩ := h
    exact ⟨j, (jobOf_congr none i.terminal).trans found, further⟩
  · obtain ⟨j, found, further⟩ := h.serveReads (readBound s)
    exact ⟨j, (jobOf_congr served i.terminal).trans found, further⟩

end Sys2Proof.Machine
end

section
/-! O46, ReadsAreAdmittedBusyOrRefused: a READ or READ_YEAR refused, answered BUSY, or made a job (R166 to R169). -/

namespace Sys2Proof.Machine

/-! ## The new job in the list (R167) -/

/-- The job i has joined the list in place of its terminal's older job, whose reads are discarded (R167). -/
def replaceJob (i : Job) (s : State) : State :=
  (s.setRetr { s.retr with jobs := s.retr.jobs.filter (fun x => x.terminal != i.terminal) ++ [i] }).setArch
    { s.arch with requests := s.arch.requests.map (fun q =>
        if q.who = .job i.terminal then { q with who := .nobody } else q) }

theorem replaceJob_only (i : Job) (s : State) :
    (replaceJob i s).retr.jobs.filter (fun x => x.terminal == i.terminal) = [i] := by
  simp [replaceJob, List.filter_filter]

theorem replaceJob_found (i : Job) (s : State) : jobOf (replaceJob i s) i.terminal = some i := by
  rw [jobOf, ← List.head?_filter, replaceJob_only]
  rfl

theorem replaceJob_unasked (i : Job) (s : State) : Unasked i.terminal (replaceJob i s) := by
  intro q hq
  obtain ⟨r, -, rfl⟩ := List.mem_map.1 hq
  split
  · nofun
  · assumption

theorem removeJob_absent {n : Nat} {s : State} (none : jobOf s n = none) (unasked : Unasked n s) : removeJob n s = s := by
  have jobs : s.retr.jobs.filter (fun j => j.terminal != n) = s.retr.jobs :=
    List.filter_eq_self.2 fun j hj => by simpa using List.find?_eq_none.1 none j hj
  have requests : s.arch.requests.map (fun q => if q.who = .job n then { q with who := .nobody } else q)
      = s.arch.requests := by
    conv => rhs; rw [← List.map_id s.arch.requests]
    exact List.map_congr_left fun q hq => if_neg (unasked q hq)
  rw [removeJob, jobs, requests]
  rfl

theorem jobOf_isSome (s : State) (n : Nat) : (jobOf s n).isSome = s.retr.jobs.any (fun j => j.terminal == n) := by
  rw [Bool.eq_iff_iff]
  simp [jobOf]

/-! ## The admission (R167) -/

theorem admitJob_unheld {i : Job} {s : State} (unheld : areaOf s i.origin = none) :
    admitJob i s = addAnswer i.terminal i.tag (.refused .origin) s := if_pos unheld

section
variable {i : Job} {s : State} (held : areaOf s i.origin ≠ none)
include held

theorem admitJob_full (none : s.retr.jobs.any (fun j => j.terminal == i.terminal) = false) (two : 2 ≤ s.retr.jobs.length) :
    admitJob i s = addAnswer i.terminal i.tag .busy s := by
  rw [admitJob, if_neg held, jobOf_isSome, none, if_neg Bool.false_ne_true, if_pos two]

/-- With room the job replaces its terminal's older one, also where there is none. -/
theorem admitJob_starts (room : s.retr.jobs.any (fun j => j.terminal == i.terminal) = true ∨ s.retr.jobs.length < 2)
    (requesters : ∀ q ∈ s.arch.requests, ∀ t, q.who = .job t → ∃ j ∈ s.retr.jobs, j.terminal = t) :
    admitJob i s = flashIdle (workJob i (replaceJob i s)) := by
  rw [admitJob, if_neg held]
  split
  · rfl
  · rename_i own
    have none : jobOf s i.terminal = none := by simpa using own
    have unasked : Unasked i.terminal s := fun q hq asks => by
      obtain ⟨j, hj, same⟩ := requesters q hq _ asks
      exact absurd same (by simpa using List.find?_eq_none.1 none j hj)
    rw [jobOf_isSome] at own
    rw [if_neg (Nat.not_le.2 (room.resolve_left own))]
    exact (congrArg (startJob i) (removeJob_absent none unasked).symm).trans rfl

end

/-! ## The job at the end of the act (R168, R169) -/

/-- A terminal that has one job has one while the list keeps its terminals. -/
theorem only_of_terminals {s t : State} {i j : Job} {n : Nat} (same : jobTerminals t = jobTerminals s)
    (only : s.retr.jobs.filter (fun x => x.terminal == n) = [i]) (found : jobOf t n = some j) :
    t.retr.jobs.filter (fun x => x.terminal == n) = [j] := by
  have count (u : State) : (u.retr.jobs.filter (fun x => x.terminal == n)).length = (jobTerminals u).count n := by
    rw [jobTerminals, List.count, List.countP_map, List.countP_eq_length_filter]
    rfl
  have one : (t.retr.jobs.filter (fun x => x.terminal == n)).length = 1 := by rw [count, same, ← count, only]; rfl
  obtain ⟨x, alone⟩ := List.length_eq_one_iff.1 one
  rw [jobOf, ← List.head?_filter, alone] at found
  rw [alone, Option.some.inj found]

theorem workJob_arch (j : Job) (s : State) :
    (workJob j s).arch = { s.arch with requests := (workJob j s).arch.requests } := Archive.eq_of_fields (by simp)

theorem workJob_port (j : Job) (s : State) :
    (workJob j s).port = { s.port with ticket := (workJob j s).port.ticket } := by
  have fields := workJob_fields j s
  generalize (workJob j s).port = p at fields
  cases p
  simp only at fields
  simp [fields]

/-- The job i that a query has made stands as j in t: alone of its terminal, having worked its first sequence in place of
the terminal's older job (R167 to R169). -/
structure Admitted (i j : Job) (s t : State) : Prop where
  found : jobOf t i.terminal = some j
  only : t.retr.jobs.filter (fun x => x.terminal == i.terminal) = [j]
  further : Further i j
  answers : t.retr.answers = s.retr.answers
  flash : t.arch.flash = s.arch.flash
  works : ∃ u, t = flashIdle u ∧ u.arch = { s.arch with requests := u.arch.requests } ∧ WorksOn i (replaceJob i s) u
  blocks : t = (((s.setArch t.arch).setWit t.wit).setRetr t.retr).setPort { s.port with ticket := t.port.ticket }

theorem workJob_admitted (i : Job) (s : State) :
    ∃ j, Admitted i j s (flashIdle (workJob i (replaceJob i s))) := by
  let r := replaceJob i s
  have here : jobOf r i.terminal = some i := replaceJob_found i s
  have listed : i.terminal ∈ jobTerminals r := List.mem_map_of_mem (jobOf_mem r _ i here).1
  have stands : Stands i r := ⟨i, here, .refl i⟩
  obtain ⟨j, found, further⟩ := (stands.workJob (.refl i)).flashIdle
  have terminals := ((workJob_kept listed).trans (flashIdle_kept _)).terminals
  have port : (flashIdle (workJob i r)).port = { s.port with ticket := (flashIdle (workJob i r)).port.ticket } := by
    rw [flashIdle_port, workJob_port]
    rfl
  refine ⟨j, found, only_of_terminals terminals (replaceJob_only i s) found, further, ?_, ?_,
    ⟨workJob i r, rfl, workJob_arch i r, workJob_works i r⟩, State.eq_of_blocks ?_⟩
  · simp [replaceJob]
  · simp [replaceJob]
  · simpa [r, replaceJob] using port

/-- A READ_YEAR job without a range ends: it waits with its END (R169). -/
theorem rangeless_ends {i : Job} {y : Nat} (kind : i.kind = .readYear y) (last : i.last = some 0) (first : 1 ≤ i.next)
    (s : State) :
    jobOf (flashIdle (workJob i (replaceJob i s))) i.terminal
      = some { i with work := .ready (.done i.sent) false s.port.ticket } := by
  let r := replaceJob i s
  obtain ⟨-, -, -, passes⟩ := workJob_works i r
  have waits : Waits i (.done i.sent) false r (workJob i r) :=
    (passes y 0 kind last).1 (.inl (Nat.lt_of_lt_of_le first (Nat.le_max_left ..)))
  have unasked : Unasked i.terminal (workJob i r) := waits.symm ▸ replaceJob_unasked i s
  rw [flashIdle_unasked unasked, waits]
  exact (jobOf_setJob (j' := { i with work := .ready (.done i.sent) false s.port.ticket }) (replaceJob_found i s) _).trans
    (if_pos rfl)

/-! ## The queries (R166, R167) -/

/-- The job that a query makes. -/
def queryJob (head : QueryHead) (origin : BitVec 8) (kind : JobKind) (first : Nat) (last : Option Nat) (now : Nat) : Job :=
  { terminal := head.terminal.toNat, tag := head.tag, origin := origin.toNat, kind := kind, next := first, last := last
    heardAt := now }

/-- A READ_YEAR of a held origin works the range of its year, and without one has no sequence to work (R169). -/
theorem yearJob_range {head : QueryHead} {origin year : BitVec 8} {s : State} {a : Area}
    (area : areaOf s origin.toNat = some a) {range : Option (Nat × Nat)}
    (found : yearRange (2000 + year.toNat) (recordSectors (ringOf s a)) = range) :
    (yearJob head origin year s).next = (range.getD (1, 0)).1
    ∧ (yearJob head origin year s).last = some (range.getD (1, 0)).2 := by
  have here : yearRangeOf s origin.toNat (yearField year) = range := by rw [yearRangeOf, area]; exact found
  simp only [yearJob, here, and_self]

section
variable {head : QueryHead} {s : State} (takes : TakesQuery s head)
  (on : s.supply.station = some .timeUnset ∨ s.supply.station = some .recording)
include takes on

/-- A query that is taken in TIME_UNSET or RECORDING is acted on. -/
theorem query_reads (act : State → State) : query head true (takesReads s) act s = act s := by
  have taken : takesReads s = true := by simpa [takesReads] using on
  rw [query_taken takes, if_pos taken]

theorem exec_read (origin : BitVec 8) (first : BitVec 32) (count : BitVec 16) :
    exec (.read head origin first count) s = .next (admitJob (readJob head origin first count s.elapsed) s) := by
  rw [exec, execRead, query_reads takes on]

theorem exec_readYear (origin year : BitVec 8) :
    exec (.readYear head origin year) s = .next (admitJob (yearJob head origin year s) s) := by
  rw [exec, execReadYear, query_reads takes on]

end

/-- Settles O46: the admissions of READ and READ_YEAR, and the range of a year. -/
theorem readsAreAdmittedBusyOrRefused : Obligations.ReadsAreAdmittedBusyOrRefused := by
  intro head origin s takes on requesters answer own joined
  have told {i j : Job} {t : State} (made : i = queryJob head origin i.kind i.next i.last s.elapsed)
      (a : Admitted i j s t) : joined j i.next t := by
    obtain ⟨-, only, further, answers, flash, works, blocks⟩ := a
    have waiting : i.work = .waiting := congrArg (·.work) made
    have same : { j with next := i.next, work := .waiting } = i := waiting ▸ further.same
    have terminal : i.terminal = head.terminal.toNat := congrArg (·.terminal) made
    have fields := same.trans made
    refine ⟨terminal ▸ only, congrArg (·.tag) fields, congrArg (·.origin) fields, congrArg (·.heardAt) fields,
      congrArg (·.sent) fields, answers, flash, ?_, blocks⟩
    dsimp only
    rw [same, ← terminal]
    exact works
  refine ⟨fun first count => ?_, fun year => ?_, fun year l => ⟨yearRange_none, ?_⟩⟩
  · rw [exec_read takes on]
    refine ⟨fun unheld => congrArg _ (admitJob_unheld unheld),
      fun held none two => congrArg _ (admitJob_full held none two), fun held room => ?_⟩
    obtain ⟨j, a⟩ := workJob_admitted (readJob head origin first count s.elapsed) s
    have last := congrArg (·.last) a.further.same
    have kind := a.further.kind
    refine ⟨_, j, congrArg _ (admitJob_starts held room requesters), told rfl a, a.further.inPlace fun y => ?_,
      fun zero => ?_, fun nonzero => ?_⟩
    · dsimp only [readJob]
      split <;> nofun
    · subst zero
      exact ⟨kind, last⟩
    · have positive : count.toNat ≠ 0 := fun zero => nonzero (BitVec.eq_of_toNat_eq zero)
      exact ⟨kind.trans (if_neg positive), last.trans (if_neg positive)⟩
  · rw [exec_readYear takes on]
    refine ⟨fun unheld => congrArg _ (admitJob_unheld unheld),
      fun held none two => congrArg _ (admitJob_full held none two), fun held room => ?_⟩
    let i := yearJob head origin year s
    obtain ⟨j, a⟩ := workJob_admitted i s
    have stands : joined j i.next _ := told rfl a
    have last : j.last = i.last := congrArg (·.last) a.further.same
    refine ⟨_, j, congrArg _ (admitJob_starts held room requesters), a.further.kind, fun area ha =>
      ⟨fun lo hi range => ?_, fun range => ?_⟩⟩
    · obtain ⟨first, end_⟩ : i.next = lo ∧ i.last = some hi := yearJob_range ha range
      exact ⟨first ▸ stands, first ▸ a.further.from_, last.trans end_⟩
    · obtain ⟨first, end_⟩ : i.next = 1 ∧ i.last = some 0 := yearJob_range ha range
      have ends := rangeless_ends (i := i) rfl end_ (le_of_eq first.symm) s
      exact ⟨first ▸ stands, last.trans end_, s.port.ticket, congrArg (·.work) (Option.some.inj (a.found.symm.trans ends))⟩
  · rintro before last after rfl begun later
    exact ⟨yearRange_ended begun later, yearRange_reaches begun later⟩

end Sys2Proof.Machine
end

section
/-! ## The command at the front of the queue -/

namespace Sys2Proof.Machine

/-- Settles O1: on a queue with a front command the step is its first branch. -/
theorem stepRunsTheFrontCommand : Obligations.StepRunsTheFrontCommand := by
  intro c rest s front
  rw [step, front]

end Sys2Proof.Machine
end
